-- ==== Sys2Proof/Word.lean ====
section
/-!
DEFINITION. The two word types of the register map: a 32-bit register word (R8, R33) and a byte of memory.
-/

namespace Sys2Proof

/-- A register word: every register of WIN0 is accessed as a 32-bit word (R33). -/
abbrev Word := BitVec 32

/-- One byte of a memory. -/
abbrev Byte := BitVec 8

end Sys2Proof
end

