-- ==== Sys2Proof/Syntax.lean ====
section
/-!
DEFINITION. The commands of the Todon: one constructor for each row of spec/opcode_table.json, with the operands of the
row, and the types of those operands.  An operand is either what the requester writes or what the outside world supplies
when the row's event happens: a packet, the measured result of an engine's job, the bytes an external memory returns.
-/

namespace Sys2Proof

/-- A requester of WIN0 (R36): host software, a Herd core, or the security core. -/
inductive Requester where
  | host
  | herd (core : Fin 4)
  | sec
  deriving DecidableEq, Repr

/-- One SMPTE ST 2110-20 packet at the ingest sink, as the unpacker reads it (R376). -/
structure IngestPkt where
  /-- Extended RTP sequence number, 32 bits, and RTP time stamp. -/
  seq : Nat
  ts : Nat
  marker : Bool
  /-- An interlaced or segmented field bit is set. -/
  field : Bool
  /-- The sample row data segments: line number, sample offset, and the luma samples and interleaved chroma samples of the
  segment (one Cb or Cr sample for each luma sample, 4:2:2). -/
  rows : List (Nat × Nat × List Nat × List Nat)
  deriving DecidableEq, Repr

/-- A vector of the analysis pass (R86): its reference distance in source pictures, its components in full source samples, and its SATD
cost. -/
structure AnaVec where
  dist : Nat
  x : Int
  y : Int
  cost : Nat
  deriving DecidableEq, Repr

/-- What the analysis job found for one 16 x 16 source block (R86): the block's column and row, its inter and its intra cost, and its
vectors. -/
structure BlockCost where
  bx : Nat
  byy : Nat
  inter : Nat
  intra : Nat
  vecs : List AnaVec
  deriving DecidableEq, Repr

/-- Coding tools of the three standards that an encode job may or may not use (R103 to R105). -/
inductive CodingTool where
  -- entropy coding and structure
  | cabac | cavlc | tiles | wavefront | dependentSegments | tileGroupPerSlice | fmo | aso | interlaced | fieldCoding
  -- prediction
  | intra35 | intra4 | intra8 | intra16 | directionalDelta | smooth | paeth | chromaFromLuma | palette | intraBlockCopy | filterIntra
  | constrainedIntra | quarterSample | eighthSample | merge5 | amvp | tmvp | refMv | amp | weightedPrediction | longTermRefs
  | compoundAverage | wedge | diffWeighted | obmc | warpedMotion | globalMotion | dualFilter | spatialDirect | temporalDirect | subPartition8
  -- transform and quantisation
  | dct | dst4 | transformSkip | transquantBypass | pcm | flatMatrices | scalingMatrices | signHiding | transform8 | reducedTxSet
  | interpRegular | interpSmooth | interpSharp
  | rdoqLast | rdoqLevels | rangeExtensions
  -- loop filters and the rest
  | deblocking | sao | cdef | loopRestoration | superres | filmGrain | errorResilient | hiddenFrames
  deriving DecidableEq, Repr

/-- Intra prediction modes of the three standards: DC, planar (H.264: plane; AV1: smooth), and the others by number (R86, R103 to R105). -/
inductive IntraMode where
  | dc | planar
  | other (n : Nat)
  deriving DecidableEq, Repr

/-- What the encoder evaluated for a coding block (R90): whether an early split test had passed; the intra modes compared by SATD beyond the
most-probable ones, those, and the ones given a full rate-distortion cost; the merge candidates there were and how many of them it
evaluated; and for each reference it searched, by place in the picture's list, the refined vectors in quarter samples. -/
structure Trial where
  split : Bool
  satd : List IntraMode
  probable : List IntraMode
  full : List IntraMode
  merges : Nat
  merged : Nat
  vectors : List (Nat × List (Int × Int))
  deriving DecidableEq, Repr

/-- A coding block of an encode job's syntax (R88 to R90, R92, R130), in coding order: its place and size in luma samples; its intra mode, none
where it is inter; the merge, skip, direct or reference-MV candidate it takes by number, none where its vectors come of a search; its
partition (0 whole, 1 two halves one above the other, 2 side by side, 3 quarters); side of its intra prediction blocks; width and height
of its transform blocks, and transform splits below it; whether it has a residual; its vectors: place in the picture's list of references,
and components in quarter samples; the row quantiser, where the block signals one; and what was evaluated for it. -/
structure CodedBlock where
  x : Nat
  y : Nat
  size : Nat
  mode : Option IntraMode
  cand : Option Nat
  part : Fin 4
  pred : Nat
  tx : List (Nat × Nat)
  txDepth : Nat
  residual : Bool
  mvs : List (Nat × Int × Int)
  quant : Option Nat
  trial : Trial
  deriving DecidableEq, Repr

/-- The surfaces a pixel job or the output converter writes in Chamois (R262). -/
inductive Surface where
  /-- The reconstructed picture of an encode channel or a decode channel. -/
  | recon
  /-- The leader's analysis picture. -/
  | analysis
  /-- The scaled source of a scaled channel. -/
  | scaled
  /-- The source store of the leader that a surface link feeds, written by the output converter. -/
  | link
  deriving DecidableEq, Repr

/-- The samples of one Chamois block that was written, in raster order (R265, R268). -/
structure ChamWrite where
  surface : Surface
  chroma : Bool
  bx : Nat
  byy : Nat
  samples : List Nat
  deriving DecidableEq, Repr

/-- A block that a job reads and the reference cache does not hold (R206): reference `ref` of the job's picture, plane and place. -/
structure RefMiss where
  ref : Nat
  chroma : Bool
  bx : Nat
  byy : Nat
  deriving DecidableEq, Repr

/-- What a pixel job leaves behind when it ends without fault (R208): the figures that depend on the samples. -/
structure JobResult where
  /-- Bytes of syntax the job wrote (R188). -/
  syntaxBytes : Nat
  /-- Coded bytes of each CTU of the slice in raster order: the size tracker's figures (R131). -/
  ctuBytes : List Nat
  /-- The CTU of the slice from which on R131 recoded at level 2, beyond the rows RCT starved. -/
  recodedFrom : Option Nat
  /-- Block costs and vectors (analysis jobs). -/
  blocks : List BlockCost
  /-- The syntax of an encode job: its coding blocks, the tools it uses, the quantiser of each CTU of the slice in raster order in the codec's
  own units, the SAO or CDEF parameters it codes for each CTU, and luma rows it left unfiltered at the top and at the bottom (R92, R93).  A
  seam job: the SAO or CDEF parameters it applied. -/
  coded : List CodedBlock := []
  tools : List CodingTool := []
  ctuQ : List Nat := []
  filter : List Nat := []
  plain : Nat × Nat := (0, 0)
  /-- Chamois blocks written by encode, seam and reconstruct jobs. -/
  cham : List ChamWrite
  /-- Reference-cache misses during the job, in order, and its length in pc (R206, R223). -/
  refMiss : List RefMiss
  cycles : Nat
  deriving DecidableEq, Repr

/-- Profiles (R102, R152). -/
inductive Profile where
  | main | main10 | main422 | av1Main | constrainedBaseline | h264Main | high | other
  deriving DecidableEq, Repr

/-- What R152 does not support within its profiles. -/
inductive Unsupported where
  | fieldCoded | interlace | fmo | aso | redundantSlices | largeScaleTile | spatialLayers
  deriving DecidableEq, Repr

/-- What the entropy decoder reads in the headers of a coded frame (R152 to R156). -/
structure AuInfo where
  /-- Profile, level in tenths and High tier of its stream, what the stream uses that R152 does not support, and the byte offset in the access
  unit at which that is read. -/
  profile : Profile
  level : Nat
  tier : Bool := false
  unsupported : List Unsupported := []
  at_ : Nat := 0
  /-- A random-access point of R154. -/
  rap : Bool
  /-- A picture that R154 skips without damage when decoding starts at the preceding random-access point. -/
  skip : Bool
  /-- The order count of R156. -/
  poc : Int
  width : Nat
  height : Nat
  tenBit : Bool
  c422 : Bool
  /-- Order counts of the reference pictures the picture uses, each with the value by which a missing one is reported
  (its order count, or in H.264 its frame_num). -/
  refs : List (Int × Nat)
  /-- Order counts of the pictures that stay in the decoded picture buffer for later reference. -/
  keep : List Int
  isRef : Bool
  shown : Bool
  /-- Order counts that the standard's bumping process releases for output with this picture, in output order. -/
  bumped : List Int
  /-- Primaries, transfer, matrix and full-range flag; none where the stream has no colour description (R151). -/
  colour : Option (Nat × Nat × Nat × Bool)
  /-- Mastering-display and content-light metadata, empty where there is none (R107, R152). -/
  mastering : List Byte := []
  light : List Byte := []
  filmGrain : Bool
  deriving DecidableEq, Repr

/-- A packet that reaches a decode channel (R148, R149). -/
structure DecPkt where
  /-- RTP payload type, extended sequence number, time stamp and marker. -/
  pt : Nat
  seq : Nat
  ts : Nat
  marker : Bool
  /-- The payload begins an access unit (R149). -/
  first : Bool
  /-- The payload: of the RTP packet, or of the UDP datagram for XPORT 1. -/
  payload : List Byte
  deriving DecidableEq, Repr

/-- Damage that the entropy decoder or a reconstruct job meets in the syntax (R155). -/
inductive DamageKind where
  | syntax_ | range | unsupported | noParam
  deriving DecidableEq, Repr

/-- A damage condition the entropy decoder or a reconstruct job met (R155): its kind, the CTU address of R156, the auxiliary
value (a byte offset in the access unit, or for NO_PARAM an identifier), and the damaged picture's own order count where its header gave
one. -/
structure Damage where
  kind : DamageKind
  aux : Nat
  ctu : Nat
  poc : Option Int
  deriving DecidableEq, Repr

/-- A fetch from a control store: at the start of a piece of work, or of the word after `prev` with the condition group it selects
(R192). -/
inductive UcFetch where
  | entry (addr : Nat)
  | after (prev : Nat) (cond : Fin 16)
  deriving DecidableEq, Repr

/-- Syntax that running encode jobs have written to their rings by now (R185): channel, picture, slice, bytes. -/
abbrev Written := List (Nat × Nat × Nat × Nat)

/-- A segment of a decoded frame (R147): a slice segment, tile or group of wavefront rows.  Its luma area; bytes of its syntax; and the lines
from the top of the frame that are whole once it and the segments before it are in place. -/
structure Segment where
  area : Nat
  bytes : Nat
  rows : Nat
  deriving DecidableEq, Repr

/-- What an entropy job has produced: more of its output (R185), or its end (R239). -/
inductive EntropyResult where
  /-- More coded bytes of an encode slice, and the syntax bytes it has read so far. -/
  | bytes (more : List Byte) (read : Nat)
  /-- One more segment of a decode access unit, in frame `frame` of the unit, and the bytes of the unit read so far (R147, R185). -/
  | segment (frame : Nat) (au : AuInfo) (seg : Segment) (read : Nat)
  /-- An encode slice: its coded bytes, and the bins and ec cycles it took. -/
  | coded (bytes : List Byte) (bins cycles : Nat)
  /-- A hold picture: its coded bytes, how many of them are the access unit's overhead (R123), and the filler bytes after them (R122). -/
  | hold (bytes : List Byte) (overhead : Nat) (filler : List Byte) (bins cycles : Nat)
  /-- A decode access unit: from the frame begun last on, of each of its coded frames what its headers say, and its segments
  that are still to be told; and the order counts of frames coded before that it shows (AV1, R152). -/
  | decoded (frames : List (AuInfo × List Segment)) (shows : List Int) (bins cycles : Nat)
  /-- A damaged access unit; `rap` says whether its headers made it a random-access point. -/
  | damaged (d : Damage) (rap : Bool) (bins cycles : Nat)
  deriving DecidableEq, Repr

/-- Where the firmware places a channel's frame stores (R544). -/
structure Placement where
  base : Nat
  deriving DecidableEq, Repr

/-- What an access to HBM does with the bytes of its unit (R291). -/
inductive HbmOp where
  | read (n : Nat)
  | write (data : List Byte)
  /-- Fetch-and-add and compare-and-swap of 8 bytes. -/
  | fetchAdd (v : Nat)
  | compareSwap (old new : Nat)
  deriving DecidableEq, Repr

/-- One unit of a request: its HBM address, and what is done there (R295). -/
structure HbmUnit where
  addr : Nat
  op : HbmOp
  deriving DecidableEq, Repr

/-- What the requester uses the data for, where R292 makes a difference: a channel's buffers or stores, or the pointer or
data of a buffer of a pool. -/
inductive HbmUse where
  | other
  | channel (c : Fin 256)
  | buffer (pool : Fin 4) (index : Nat)
  deriving DecidableEq, Repr

/-- A request to an arbiter (R287, R295, R299). -/
structure HbmReq where
  req : Nat
  lock : Bool
  use : HbmUse
  units : List HbmUnit
  /-- A microcode fetch of a pixel engine (R213). -/
  ucode : Bool := false
  deriving DecidableEq, Repr

/-- How read data returns from the stack (R291): without an error; with a single-bit error or an uncorrectable one, in the first or the second
sector of its unit; or after a command/address parity error whose replay failed. -/
inductive HbmReturn where
  | clean
  | corrected (second : Bool)
  | uncorrectable (second : Bool)
  | caParity
  deriving DecidableEq, Repr

/-- How the sender of a frame wants its transmit time taken (R319): two-step with a 16-bit tag, or one-step with the offset of the
frame's PTP header. -/
inductive TxStamp where
  | none
  | twoStep (tag : Fin 65536)
  | oneStep (ptp : Nat)
  deriving DecidableEq, Repr

/-- An error met in on-chip storage while a packet leaves: in an output buffer (R358), in the replication store or a descriptor
(R386, R389). -/
inductive TxErr where
  | none | obufCe | obufUe | replCe | replUe | descPar
  deriving DecidableEq, Repr

/-- What firmware does with a punted frame (R321): frames it sends, each with its port and time-stamp mark, and a new
GLB_TIME_INC of the PTP servo. -/
structure PuntAnswer where
  frames : List (Fin 8 × List Byte × TxStamp)
  timeInc : Option Nat
  deriving DecidableEq, Repr

/-- How a frame came off the line (R317, R339): its FCS good, and the RS-FEC codewords corrected and not correctable since the frame before. -/
structure RxLine where
  fcsOk : Bool
  corrected : Nat
  uncorrectable : Nat
  deriving DecidableEq, Repr

/-- Why a port goes down (R316). -/
inductive LinkLoss where
  | lock | align | localFault | remoteFault
  deriving DecidableEq, Repr

/-- How the data of a descriptor came to an end (R395, R400): the host bytes read for an H2D descriptor, with the offsets at which a
new access unit of a BITS descriptor begins; a read completed with UR, CA or EP; a parity error in the funnel. -/
inductive DmaEnd where
  | done (data : List Byte) (starts : List Nat)
  | pcieErr (moved : List Byte) (why : Fin 3)
  | bufPar (moved : List Byte)
  deriving DecidableEq, Repr

/-- One of a channel's two rings (R397). -/
inductive RingId where
  | h2d | d2h
  deriving DecidableEq, Repr

/-- A host request to WIN2 or WIN4: a read, or a write with its data; EP marks a poisoned one. -/
inductive WinOp where
  | read (len : Nat)
  | write (data : List Byte) (poisoned : Bool)
  deriving DecidableEq, Repr

/-- A write to configuration space that the Todon's behaviour depends on (R391). -/
inductive PcieCfg where
  | maxPayload (code : Fin 8)
  | maxRead (code : Fin 8)
  | busMaster (on : Bool)
  | aspmL1 (on : Bool)
  | powerD3 (on : Bool)
  | msixMask (on : Bool)
  deriving DecidableEq, Repr

/-- A mailbox of the security core (R508): the host's or the firmware's. -/
inductive Mbx where
  | host | herd
  deriving DecidableEq, Repr

/-- How a PMBus transaction ended (R466, R480). -/
inductive PmbEnd where
  | done (data : Fin 65536)
  | nack
  | pecErr
  deriving DecidableEq, Repr

/-- What an Antler measurement found (R474): the slack of the eight tines in ps, whether a tine failed with no added delay, and the
counts of the stressed and the unstressed oscillator. -/
structure Meas where
  slacks : List (Fin 256)
  fail : Bool
  stressed : Nat
  unstressed : Nat
  deriving DecidableEq, Repr

/-- An update file on an SD card (R484, R493): its position in the directory, its 512-byte header, its chunk table and its size. -/
structure SdFile where
  pos : Fin 32
  header : List Byte
  table : List Byte
  size : Nat
  deriving DecidableEq, Repr

/-- A read of `width` bytes from a WIN0 offset (R33). -/
structure RegRead where
  off : Nat
  width : Nat
  deriving DecidableEq, Repr

/-- An access to a page's header, by page and by who makes it (R36). -/
structure PageAccess where
  rq : Requester
  page : Nat
  deriving DecidableEq, Repr

/-- What the slices of a picture have produced when a CTU row starts: its own slice, and other slices in flight, by slice and bytes (R127,
R130). -/
structure RowProgress where
  sofar : Nat
  others : List (Nat × Nat)
  deriving DecidableEq, Repr

/-- Where a job fault was met: the CTU, and for an illegal word its address in the job's bank and the condition bits its group has (R211). -/
structure FaultPlace where
  ctu : Nat
  addr : Nat
  cond : Fin 16
  deriving DecidableEq, Repr

/-- How far a job had come when its cycle count passed the limit (R234). -/
structure Overrun where
  ctu : Nat
  cycles : Nat
  deriving DecidableEq, Repr

/-- An arbiter, and the hc counted since it granted a locked request (R299). -/
structure LockCount where
  arb : Fin 32
  cycles : Nat
  deriving DecidableEq, Repr

/-- A reference clock (R535). -/
inductive RefClk where
  | eth | pcie | sys | xtal
  deriving DecidableEq, Repr



/-- A moment of an entropy engine, with the syntax that running jobs have written by then (R185). -/
structure EneMoment where
  e : Fin 32
  w : Written
  deriving DecidableEq, Repr

/-- A step of the firmware's margin planning: the domains it goes on with, and whether the flash operation of its settings store fails (R471,
R476). -/
structure MarginRound where
  doms : List (Fin 221)
  flashFails : Bool
  deriving DecidableEq, Repr

/-- The commands.  The docstring of each names the rule that gives it. -/
inductive Instr where
  /-- REGISTER_WRITE (R27): A write to a register or field that has no row of its own, applied under its access code and its -L, -W or -I qualifier. -/
  | registerWrite (rq : Requester) (off : Nat) (wide : Bool) (data : Nat)
  /-- HOLE_ACCESS (R20): An access to a WIN0 hole reads 0 or has no effect, sets GLB_ACC_STS.HOLE and may record its offset. -/
  | holeAccess (write : Bool) (off : Nat)
  /-- PARTIAL_WRITE (R33): A write whose byte enables do not cover the whole word is dropped, sets PARTIAL and may record its offset. -/
  | partialWrite (off : Nat)
  /-- OVERSIZE_HOST_ACCESS (R33): A host access of more than 8 bytes has no effect on a write, returns 0 on a read, and sets PARTIAL. -/
  | oversizeHostAccess (write : Bool) (off : Nat)
  /-- REG64_LOW_READ (R33, R34): A read: a 32-bit read of the low word of a 64-bit register latches the high word into the
  page's holding register; a read of 1 or 2 bytes returns those bytes; one of 8 bytes both words from one instant. -/
  | reg64LowRead (r : RegRead)
  /-- REG64_LOW_WRITE (R34): A write to the low word of a 64-bit writable register is held until the high word is written. -/
  | reg64LowWrite (rq : Requester) (off : Nat) (data : Nat)
  /-- REG64_HIGH_WRITE (R34): A write to the high word makes the 64-bit register take both words. -/
  | reg64HighWrite (rq : Requester) (off : Nat) (data : Nat)
  /-- EVT_SET (R26): Writing 1 to an EVT_SET bit sets the same EVT_STS bit exactly as the event would, interrupt included. -/
  | evtSet (p : PageAccess) (bits : Nat)
  /-- PAGE_ENABLE (R24): A write of PAGE_CTL.EN enables an instance or stops its work clock. -/
  | pageEnable (page : Nat) (en : Bool)
  /-- SOFT_RESET (R24): Writing 1 to PAGE_CTL.SRST starts a soft reset of the instance; the CHN page takes it only in CLOSED. -/
  | softReset (page : Nat)
  /-- SOFT_RESET_COMPLETE (R24): The soft reset completes: the page's registers return to reset, pending -W writes are discarded and SRST reads 0. -/
  | softResetComplete (page : Nat)
  /-- FREEZE (R24): A write of PAGE_CTL.FRZ freezes the instance, which takes no new unit of work, or resumes it with its state intact. -/
  | freeze (page : Nat) (frz : Bool)
  /-- WRAP_HOLD (R29): A write of PAGE_CTL.WHOLD defers every pending -W latch in the page, or releases the latches. -/
  | wrapHold (p : PageAccess) (hold : Bool)
  /-- TIME_LOAD (R42): GLB_TIME_CMD.LOAD loads GLB_TIME_SET into the device time counter when the GLB page is IDLE. -/
  | timeLoad
  /-- TIME_STEP (R42): GLB_TIME_CMD.STEP adds the signed GLB_TIME_SET to the device time counter when the GLB page is IDLE. -/
  | timeStep
  /-- CONFIGURE (R50): The CONFIGURE command is posted to firmware, which validates the channel, computes its costs and allocates its memory. -/
  | configure (c : Fin 256)
  /-- OPEN (R63): The OPEN command runs admission, binds an entropy engine and moves the channel to RUNNING. -/
  | openChannel (c : Fin 256)
  /-- DRAIN (R51): The DRAIN command makes hardware move the channel to DRAINING and take no new source from its next picture boundary. -/
  | drain (c : Fin 256)
  /-- ABORT (R52): The ABORT command discards the channel's jobs in flight, frees its unpacketised data and moves it to CONFIGURED. -/
  | abort (c : Fin 256)
  /-- CLOSE (R50): The CLOSE command frees the channel's allocations and moves it to CLOSED. -/
  | close (c : Fin 256)
  /-- CMD_DONE (R55): Firmware completes a posted CONFIGURE, OPEN or CLOSE, writes RESULT, clears BUSY and sets CMD_DONE. -/
  | cmdDone (c : Fin 256) (place : Option Placement)
  /-- DRAIN_COMPLETE (R51): The last drained work commits; the channel enters CONFIGURED, releases its reservation and sets DRAINED. -/
  | drainComplete (c : Fin 256)
  /-- ENC_FORCE_IRAP (R116): A write of CHN_ENC_FORCE.IRAP requests a random-access picture at the first picture whose encode jobs are not yet issued. -/
  | encForceIrap (c : Fin 256)
  /-- INGEST_UNPACK (R376): An ST 2110-20 packet at the ingest sink is unpacked into the flow's source store in raw layout. -/
  | ingestUnpack (flow : Fin 8) (p : IngestPkt)
  /-- SOURCE_DEADLINE (R161): A source picture's deadline passes without a good picture: a miss is counted and covered by a hold picture or by level-2 rows. -/
  | sourceDeadline (c : Fin 256)
  /-- STILL_TIMER (R165): After CHN_HOLD_STILL_MS in HOLDING, the still picture is coded at the next deadline as a random-access picture. -/
  | stillTimer (c : Fin 256)
  /-- HOLD_CMD_ENTER (R178): CHN_HOLD_CMD.ENTER makes every following source picture count as bad until RELEASE. -/
  | holdCmdEnter (c : Fin 256)
  /-- HOLD_CMD_RELEASE (R178): CHN_HOLD_CMD.RELEASE ends a forced stay in HOLDING, with exit at the next good picture. -/
  | holdCmdRelease (c : Fin 256)
  /-- HOLD_CMD_STILL_NOW (R178): CHN_HOLD_CMD.STILL_NOW requests the still picture at the next deadline while HOLDING. -/
  | holdCmdStillNow (c : Fin 256)
  /-- JOB_ISSUE (R240): WDP gives a free eligible engine the most urgent ready job: live earliest deadline first, then scheduled by round robin. -/
  | jobIssue (overhead : Nat)
  /-- ROW_QUANTISER (R127): When an encode job reaches a CTU row, RCT chooses the row's quantiser and starvation level, by what
  the slices of the picture have produced by then (R130). -/
  | rowQuantiser (e : Fin 128) (row : Nat) (p : RowProgress)
  /-- JOB_COMMIT (R243): A pixel job that ended without fault is committed: its row marks are set, its ring claim shrinks and dependants become eligible. -/
  | jobCommit (e : Fin 128) (r : JobResult)
  /-- JOB_FAULT (R244): A pixel engine reports a job fault: the job is discarded without commit and made ready again on another engine.
  Kind 2 is an illegal word (R211). -/
  | jobFault (e : Fin 128) (kind : Fin 8) (a : FaultPlace) (damage : Option Damage)
  /-- JOB_WATCHDOG (R234): A job's cycle count passes LIMIT times 4,194,304 pc, ending it with JOB_TIMEOUT. -/
  | jobWatchdog (e : Fin 128) (o : Overrun)
  /-- GEN_ASSIGN_ALL (R252): WDP_GEN_CMD with ALL at 1 assigns a generation to every channel and makes it the default. -/
  | genAssignAll (gen : Fin 65536)
  /-- GEN_ASSIGN_CHN (R252): WDP_GEN_CMD with ALL at 0 assigns a generation to one channel. -/
  | genAssignChn (c : Fin 256) (gen : Fin 65536)
  /-- ADMIT_BUDGET_WRITE (R256): A write to WDP_ADMIT_BUDGET or WDP_LIVE_RSV makes WDP compare the two and update OVERCOMMIT. -/
  | admitBudgetWrite (reservation : Bool) (mpcs : Nat)
  /-- RCT_CTX_COMMIT (R137): A write of RCT_CTX_COMMIT marks the staged model set of a context for latching at its next picture. -/
  | rctCtxCommit (seq : Fin 65536)
  /-- DECODE_PACKET (R149): A packet for a decode channel enters the jitter buffer, which orders it and assembles access units. -/
  | decodePacket (c : Fin 256) (p : DecPkt)
  /-- JB_TIMEOUT (R149): JB_MS expires on a gap: a boundary gap is accepted, or an open gap becomes AU_INCOMPLETE damage. -/
  | jbTimeout (c : Fin 256)
  /-- DEC_OUT_RD_WRITE (R173): Host software releases host output stores by advancing CHN_DEC_OUT_RD, which lets waiting pictures be copied. -/
  | decOutRdWrite (c : Fin 256) (idx : Fin 16) (wrap : Bool)
  /-- ENTROPY_JOB_START (R184): An entropy engine starts its most urgent ready job, an encode slice, hold picture or decode access unit. -/
  | entropyJobStart (m : EneMoment)
  /-- FOLLOW_RESUME (R185): A suspended follow-mode slice resumes once 8 KiB more syntax, or the end of the slice, has been written. -/
  | followResume (m : EneMoment) (c : Fin 256) (pic slice : Nat)
  /-- LIVE_PREEMPT (R184): A live job that became ready suspends the running scheduled slice at its next CTU boundary. -/
  | livePreempt (m : EneMoment)
  /-- ENTROPY_JOB_END (R239): An entropy job finishes: the slice is committed and checked against its deadline, or the access unit's syntax is committed. -/
  | entropyJobEnd (e : Fin 32) (r : EntropyResult)
  /-- MACHINE_CHECK (R194): An entropy engine fetches a bad microword or meets a staging parity error: it is quarantined and its channels are rebound. -/
  | machineCheck (e : Fin 32) (kind : Fin 4) (fetch : UcFetch) (sent : List Byte)
  /-- ENE_MOVE (R183): A write of ENE_MOVE requests the move of a channel to this engine at the channel's next picture boundary. -/
  | eneMove (e : Fin 32) (c : Fin 256)
  /-- ENE_UC_STORE (R203): A write of ENE_UC_HI stores a 48-bit word at ADDR and advances ADDR. -/
  | eneUcStore (e : Fin 32) (hi : Nat)
  /-- ENE_SELFTEST (R199): ENE_CTL.SELFTEST starts the self-test of an entropy engine. -/
  | eneSelftest (e : Fin 32)
  /-- ENE_SELFTEST_DONE (R199): The entropy-engine self-test ends, writing ST_RESULT and setting SELFTEST_DONE. -/
  | eneSelftestDone (e : Fin 32) (pass : Bool)
  /-- ENE_RELEASE (R196): ENE_CTL.RELEASE takes a self-tested engine out of quarantine and back into service. -/
  | eneRelease (e : Fin 32)
  /-- ENE_RETIRE (R199): ENE_CTL.RETIRE retires the engine until device reset and rebinds its bound channels. -/
  | eneRetire (e : Fin 32)
  /-- PXE_UC_LOAD (R213): PXE_UC_CMD LOAD fetches a microcode image into a bank and checks it against the manifest. -/
  | pxeUcLoad (e : Fin 128) (bank : Bool)
  /-- PXE_UC_CHECK (R213): PXE_UC_CMD CHECK recomputes the digest of a valid bank and compares it with the manifest. -/
  | pxeUcCheck (e : Fin 128) (bank : Bool)
  /-- PXE_UC_INVALIDATE (R213): PXE_UC_CMD INVALIDATE marks a bank invalid unless its generation is in use. -/
  | pxeUcInvalidate (e : Fin 128) (bank : Bool)
  /-- PXE_UC_DONE (R213): A microcode load or check ends, writing RESULT and LAST_BANK and setting UC_DONE. -/
  | pxeUcDone (e : Fin 128) (poison : Bool)
  /-- PXE_QUAR (R218): PXE_CTL.QUAR quarantines the engine at the end of its job, with no fault reported. -/
  | pxeQuar (e : Fin 128)
  /-- PXE_SELFTEST (R219): PXE_CTL.SELFTEST starts the self-test of a quarantined engine. -/
  | pxeSelftest (e : Fin 128)
  /-- PXE_SELFTEST_DONE (R219): The pixel-engine self-test ends, writing ST_RESULT and setting SELFTEST_DONE. -/
  | pxeSelftestDone (e : Fin 128) (pass : Bool)
  /-- PXE_RELEASE (R217): PXE_CTL.RELEASE takes a quarantined engine whose self-test passed back into service. -/
  | pxeRelease (e : Fin 128)
  /-- PXE_RETIRE (R217): PXE_CTL.RETIRE retires a pixel engine until device reset. -/
  | pxeRetire (e : Fin 128)
  /-- OPP_DONE (R221): A pixel engine's operating-point change completes after slewing and relock; CHANGING returns to 0 and OPP_DONE is set. -/
  | oppDone (e : Fin 128)
  /-- HBM_REQUEST (R295): A requester presents an HBM request to an arbiter. -/
  | hbmRequest (n : Fin 32) (r : HbmReq)
  /-- ARB_GRANT (R296): An arbitration round grants a candidate, which admits units into the HMC bank queues. -/
  | arbGrant (n : Fin 32) (slot : Fin 64)
  /-- LOCK_RELEASE (R299): The holder of a locked sequence releases it, and arbitration rounds resume. -/
  | lockRelease (n : Fin 32)
  /-- ARB_WDOG_EXPIRE (R299): A lock held for ARB_WDOG.LIMIT hc is released by force and the holder's port is reset. -/
  | arbWdogExpire (w : LockCount)
  /-- ARB_DRAINED (R300): A frozen arbiter has no granted unit left and its queues are empty, so DRAINED is set. -/
  | arbDrained (n : Fin 32)
  /-- QUOTA_WINDOW_END (R298): A quota window ends: masks clear and a pending ARB_QUOTA write latches. -/
  | quotaWindowEnd (n : Fin 32)
  /-- SLOT_TABLE_WRAP (R297): The slot pointer returns to 0, and a pending SWAP exchanges the banks. -/
  | slotTableWrap (n : Fin 32)
  /-- HBM_READ_RETURN (R291): Read data returns from the stack with SECDED checked, and is corrected or marked poisoned. -/
  | hbmReadReturn (n : Fin 32) (pc : Fin 2) (r : HbmReturn)
  /-- REFRESH_DUE (R290): A bank's refresh interval runs out, and the refresh is issued or forced. -/
  | refreshDue (n : Fin 32) (pc : Fin 2) (bank : Fin 32)
  /-- STACK_TEMP_READ (R290): The 1 ms stack-temperature read updates HMC_STS.TEMP and the refresh doubling. -/
  | stackTempRead (n : Fin 32) (temp : Fin 256)
  /-- TRIM_APPLY (R293): HMC_TRIM_CMD.APPLY requests that all 20 staged trims come into force. -/
  | trimApply (n : Fin 32)
  /-- TRIM_IN_FORCE (R293): At the first hc with no burst on either data bus, the staged trims come into force and TRIM_APPLIED is set. -/
  | trimInForce (n : Fin 32)
  /-- FRAME_RECEIVE (R317): The MAC receives a frame, sorts out runts, oversize and FCS errors, and passes it to the receive queue. -/
  | frameReceive (p : Fin 8) (bytes : List Byte) (line : RxLine)
  /-- PAUSE_FRAME (R318): A received PAUSE frame stops the port's transmitter for the quanta given. -/
  | pauseFrame (p : Fin 8) (quanta : Fin 65536)
  /-- PFC_FRAME (R318): A received PFC frame stops the named priorities enabled in PFC_EN. -/
  | pfcFrame (p : Fin 8) (mask : Fin 256) (quanta : List (Fin 65536))
  /-- PAUSE_EXPIRE (R318): A received pause time runs out, and the port or priority transmits again. -/
  | pauseExpire (p : Fin 8) (prio : Option (Fin 8))
  /-- PAUSE_REFRESH (R354): REFRESH quanta pass while the fill stays above XON, and the XOFF frame is repeated. -/
  | pauseRefresh (p : Fin 8)
  /-- LINK_UP (R316): After 10 ms of lock and no fault the port comes up and LINK_UP is set. -/
  | linkUp (p : Fin 8)
  /-- LINK_DOWN (R316): The port loses lock, alignment or signals a fault; it goes down and LINK_DOWN is set. -/
  | linkDown (p : Fin 8) (why : LinkLoss)
  /-- PARSE_FRAME (R323): A parse engine runs the program over a frame and ends with a key, a punt, a host delivery, a drop or a malformed reason. -/
  | parseFrame (engine : Fin 16) (p : Fin 8) (stPar : Bool)
  /-- CLS_LOOKUP (R329): The classifier looks the key up in both buckets and applies the entry's action, the miss action or the malformed action. -/
  | clsLookup (p : Fin 8) (par : Fin 4)
  /-- TXTS_POP (R343): ETH_TXTS_POP removes the head entry of the transmit time-stamp FIFO. -/
  | txtsPop (p : Fin 8)
  /-- PPS_IN_EDGE (R320): A rising edge on PPS_IN is stamped into ETH_PPS_IN_TS and sets PPS_IN. -/
  | ppsInEdge
  /-- PPS_OUT_EDGE (R320): Device time passes a whole second plus the offset, and PPS_OUT rises for WIDTH ms. -/
  | ppsOutEdge
  /-- PSE_LOAD (R326): PSE_UC_CMD LOAD fetches a parse program and checks its digest against the manifest. -/
  | pseLoad (e : Fin 16)
  /-- PSE_CHECK (R326): PSE_UC_CMD CHECK re-verifies the loaded parse program. -/
  | pseCheck (e : Fin 16)
  /-- PSE_LOAD_DONE (R326): A parse load or check ends, setting RESULT, SERVICE and LOAD_DONE. -/
  | pseLoadDone (e : Fin 16) (poison : Bool)
  /-- CLS_INSERT (R334): The INSERT command places an entry in one of its two buckets, displacing entries if needed. -/
  | clsInsert
  /-- CLS_DELETE (R334): The DELETE command removes the entry with the given key. -/
  | clsDelete
  /-- CLS_UPDATE (R334): The UPDATE command replaces the action word of an entry. -/
  | clsUpdate
  /-- CLS_READ (R334): The READ command copies the entry with the given key to CLS_DATA. -/
  | clsRead
  /-- CLS_READ_AT (R334): The READ_AT command copies the way named in CLS_AT to CLS_DATA. -/
  | clsReadAt
  /-- CLS_FLUSH (R334): The FLUSH command invalidates every entry of the table. -/
  | clsFlush
  /-- CLS_CMD_DONE (R334): A classifier command completes, writing RESULT and the location and setting CMD_DONE. -/
  | clsCmdDone
  /-- AGE_VISIT (R336): The ager visits a bucket, clears HIT or deletes stale entries with their replication entries and writes age records. -/
  | ageVisit (bucket : Fin 32768)
  /-- BPM_ALLOC (R364): A requester allocates a buffer from a pool for an owner group, which succeeds or fails at once. -/
  | bpmAlloc (pool : Fin 4) (group : Fin 64)
  /-- BPM_ALLOC_REQ (R370): A firmware allocation request through BPM_ALLOC_REQ, with its result in BPM_ALLOC_RES. -/
  | bpmAllocReq (pool : Fin 4) (group : Fin 64)
  /-- BPM_FREE (R367): A buffer pointer is freed to its group and pool; a bad pointer is rejected and raises BAD_FREE. -/
  | bpmFree (req : Fin 1024) (pool : Fin 4) (group : Fin 64) (addr : Fin 34359738368)
  /-- BPM_POOL_INIT (R363): BPM_POOL_CMD.INIT fills a pool's free ring, or is refused with CFG_ERR. -/
  | bpmPoolInit
  /-- BPM_INIT_DONE (R363): Pool initialisation completes, setting READY and INIT_DONE. -/
  | bpmInitDone (pool : Fin 4)
  /-- GRP_MIN_WRITE (R366): A write to BPM_GRP_MIN is accepted, or refused with REFUSED and MIN_REFUSED when it cannot be reserved. -/
  | grpMinWrite (min : Nat)
  /-- PACKETISE (R372): The packetiser closes an RTP or TS packet, writes it to a PKT buffer as its window copy and sends it on its feed. -/
  | packetise (c : Fin 256)
  /-- REPL_WALK (R380): A port takes a complete packet from its switch output and enqueues one descriptor per replication entry. -/
  | replWalk (p : Fin 8)
  /-- EGRESS_DEQUEUE (R383): When the MAC can take a frame, DRR and the shapers choose the next frame, which is sent with its headers written. -/
  | egressDequeue (p : Fin 8) (err : TxErr)
  /-- RTX_REQUEST (R378): An RTCP frame reaches a channel's retransmission responder, which answers the NACKed sequence numbers. -/
  | rtxRequest
  /-- RTX_WINDOW_EXPIRE (R377): A packet's RTX_MS in the retransmission window runs out, and its PKT buffer is released. -/
  | rtxWindowExpire (c : Fin 256)
  /-- REPL_ADD (R381): EGS_REPL_CMD ADD writes a replication entry and links it at the tail of its channel's list. -/
  | replAdd (idx : Fin 65536)
  /-- REPL_REMOVE (R381): EGS_REPL_CMD REMOVE unlinks and invalidates a replication entry. -/
  | replRemove (idx : Fin 65536)
  /-- REPL_READ (R381): EGS_REPL_CMD READ copies a replication entry to EGS_REPL_DATA. -/
  | replRead (idx : Fin 65536)
  /-- REPL_UPDATE (R381): EGS_REPL_CMD UPDATE rewrites an entry in place, keeping its position. -/
  | replUpdate (idx : Fin 65536)
  /-- QUEUE_BIND (R382): EGS_Q_CMD BIND binds the selected egress queue to the port. -/
  | queueBind (p : Fin 8)
  /-- QUEUE_UNBIND (R382): EGS_Q_CMD UNBIND releases an empty, unreferenced egress queue. -/
  | queueUnbind (p : Fin 8)
  /-- WIN2_ACCESS (R393): A host access through WIN2 is carried to HBM at the position in force when it arrives. -/
  | win2Access (off : Fin 268435456) (op : WinOp)
  /-- DOORBELL_WRITE (R403): A write to a ring's doorbell stores its value and wakes a waiting enabled ring. -/
  | doorbellWrite (c : Fin 256) (r : RingId) (count : Fin 4294967296)
  /-- RING_ENABLE (R412): Setting H2D_EN or D2H_EN loads the ring's base and size, sets its pointer to 0 and fetches at once. -/
  | ringEnable (c : Fin 256) (r : RingId)
  /-- RING_DISABLE (R408): Clearing a ring's enable lets the descriptor in progress complete, and then stops the ring. -/
  | ringDisable (c : Fin 256) (r : RingId)
  /-- RING_ABORT (R408): Writing H2D_ABORT or D2H_ABORT ends the descriptor in progress with ABORTED and clears the ring's enable. -/
  | ringAbort (c : Fin 256) (r : RingId)
  /-- ABORT_DONE (R408): A ring abort completes, setting x_ABORT_DONE and the engine's EVT_STS bit. -/
  | abortDone (c : Fin 256) (r : RingId) (moved : List Byte)
  /-- DESC_FETCH (R403): A descriptor read returns; an unowned descriptor is re-read once if the doorbell moved, otherwise the ring waits. -/
  | descFetch (c : Fin 256) (r : RingId) (data : List Byte)
  /-- DESC_START (R404): The half starts the next fetched descriptor that can start, in ascending channel order. -/
  | descStart (e : Fin 8) (r : RingId)
  /-- DESC_WRITEBACK (R400): A descriptor ends and its OWN word is written back with status and residue. -/
  | descWriteback (e : Fin 8) (r : RingId) (x : DmaEnd)
  /-- CPL_TIMEOUT (R395): A DMA read request goes unanswered within the completion timeout, ending its descriptor with PCIE_ERR. -/
  | cplTimeout (e : Fin 8) (r : RingId) (moved : List Byte)
  /-- PERST_ASSERT (R396): PERST_N is asserted, resetting the PCI and DMA blocks without writeback. -/
  | perstAssert
  /-- FLR (R396): A Function Level Reset resets the PCI and DMA blocks without writeback. -/
  | flr
  /-- PCIE_LINK_UP (R523): The PCIe link trains and comes up after PERST_N is released. -/
  | pcieLinkUp (width : Fin 64) (speed : Fin 16)
  /-- MSIX_UNMASK (R410): An MSI-X vector is unmasked and a pending message is sent if its source is still asserted. -/
  | msixUnmask (v : Fin 2048)
  /-- LTR_WRITE (R413): A write of PCI_LTR.SNOOP sends an LTR message. -/
  | ltrWrite (data : Fin 4294967296)
  /-- L1_IDLE_EXPIRE (R413): US µs pass with no TLP, and the Todon requests L1. -/
  | l1IdleExpire
  /-- CMO_CLEAN (R417): HCC_CMO_CMD CLEAN writes dirty lines of the range back from the data caches. -/
  | cmoClean (rq : Requester) (n : Fin 4) (dirty : List (Nat × List Byte))
  /-- CMO_INVAL (R417): HCC_CMO_CMD INVAL discards the lines of the range from the data caches. -/
  | cmoInval (rq : Requester) (n : Fin 4)
  /-- CMO_CLEAN_INVAL (R417): HCC_CMO_CMD CLEAN_INVAL cleans and then invalidates the lines of the range. -/
  | cmoCleanInval (rq : Requester) (n : Fin 4) (dirty : List (Nat × List Byte))
  /-- CMO_INVAL_I (R417): HCC_CMO_CMD INVAL_I invalidates the issuing core's instruction cache over the range. -/
  | cmoInvalI (rq : Requester) (n : Fin 4)
  /-- CMO_DONE (R417): A cache maintenance operation has every written line acknowledged; BUSY clears and private source 9 is raised. -/
  | cmoDone (n : Fin 4)
  /-- CORE_SLEEP (R418): A Herd core executes wait-for-interrupt and enters SLEEP. -/
  | coreSleep (n : Fin 4)
  /-- CORE_OFFLINE (R418): HCC_CTL.OFFLINE written 1 stops the core after its instruction, and its sources strand. -/
  | coreOffline (n : Fin 4)
  /-- CORE_ONLINE (R418): HCC_CTL.OFFLINE written 0 resumes the core, and its stranded sources are delivered. -/
  | coreOnline (n : Fin 4)
  /-- DBELL_RING (R419): HCC_DBELL.RING sets the writer's private pending bit and doorbell latch on core n. -/
  | dbellRing (rq : Requester) (n : Fin 4)
  /-- HCC_TIMER_FIRE (R419): Device time reaches HCC_TIMER, raising private source TIMER once. -/
  | hccTimerFire (n : Fin 4)
  /-- INT_ROUTE_WRITE (R425): A write to INT_ROUTE moves the selected source to a new target, stranding it if the target is offline. -/
  | intRouteWrite (kind : Fin 8) (vector : Fin 2048)
  /-- EXT_INPUT_CHANGE (R429): The level of an external input ball changes, starting its filter count. -/
  | extInputChange (n : Fin 16) (high : Bool)
  /-- EXT_FILTER_SETTLE (R429): The line holds its new level for FILT ac, so the filtered level changes and an edge or level source is raised. -/
  | extFilterSettle (n : Fin 16)
  /-- MBX_CLS_INSERT (R421): Host mailbox operation CLS_INSERT asks firmware to insert a classifier entry. -/
  | mbxClsInsert (seq : Fin 65536)
  /-- MBX_CLS_DELETE (R421): Host mailbox operation CLS_DELETE asks firmware to delete a classifier entry. -/
  | mbxClsDelete (seq : Fin 65536)
  /-- MBX_CLS_READ (R421): Host mailbox operation CLS_READ returns a classifier entry. -/
  | mbxClsRead (seq : Fin 65536)
  /-- MBX_MCAST_JOIN (R421): Host mailbox operation MCAST_JOIN asks firmware to join a multicast group. -/
  | mbxMcastJoin (seq : Fin 65536)
  /-- MBX_MCAST_LEAVE (R421): Host mailbox operation MCAST_LEAVE asks firmware to leave a multicast group. -/
  | mbxMcastLeave (seq : Fin 65536)
  /-- MBX_PORT_ADDR (R421): Host mailbox operation PORT_ADDR adds or removes a port address. -/
  | mbxPortAddr (seq : Fin 65536)
  /-- MBX_REPL (R421): Host mailbox operation REPL issues a replication command through firmware. -/
  | mbxRepl (seq : Fin 65536)
  /-- MBX_VERSION (R421): Host mailbox operation VERSION returns the firmware version and generation. -/
  | mbxVersion (seq : Fin 65536)
  /-- MBX_DONE (R420): Firmware writes HCC_MBX_DONE, which completes the host command and sets MBX_DONE. -/
  | mbxDone
  /-- NTF_POST (R422): Firmware posts a notification, setting VALID and NTF_AVAIL. -/
  | ntfPost (rq : Requester)
  /-- NTF_ACK (R422): Host software clears VALID, which raises private source NTF_ACK. -/
  | ntfAck
  /-- UART_TX_WRITE (R430): A write to HCC_UART_DATA pushes a byte into the transmit FIFO, or sets TX_OVF when the FIFO is full. -/
  | uartTxWrite (rq : Requester) (byte : Fin 256)
  /-- UART_RX_READ (R430): A read of HCC_UART_DATA pops a byte from the receive FIFO. -/
  | uartRxRead
  /-- UART_RX_BYTE (R430): A byte arrives on UART_RX and enters the receive FIFO, or sets RX_OVF when the FIFO is full. -/
  | uartRxByte (byte : Fin 256)
  /-- FAULT_COLLECT (R438): A block's fault reaches the collector: it is captured, escalated, merged as a consequent, or counted, and its reaction is applied. -/
  | faultCollect (src : Fin 512) (inst : Nat) (master : Fin 1024) (acc : Fin 8) (addr : Nat)
  /-- FLT_ACK (R445): A write of FLT_ACK acknowledges classes, clearing their pending bits and captures. -/
  | fltAck (classes : Fin 8)
  /-- FLT_INJECT (R451): A write of FLT_INJECT raises a source as if its block had reported it. -/
  | fltInject (src : Fin 512)
  /-- WDG_START (R454): Setting WDG_CFG.EN starts a watchdog counter from LIMIT. -/
  | wdgStart (n : Fin 5)
  /-- WDG_KICK (R449): The watched core writes key 0x00A5 to WDG_KICK, restarting its counter from LIMIT. -/
  | wdgKick (rq : Requester) (n : Fin 5) (key : Fin 65536)
  /-- WDG_EXPIRE (R449): A watchdog counter reaches 0, setting a Herd core offline or putting the device in safe state. -/
  | wdgExpire (n : Fin 5)
  /-- PATROL_SCRUB (R456): The patrol reads the next 64-byte unit of each HMC and writes back corrected data conditionally. -/
  | patrolScrub (found : List (Fin 32 × Bool))
  /-- SRAM_SCRUB (R459): The SRAM scrubber reads, corrects and rewrites the next word of a protected array. -/
  | sramScrub (array off : Nat) (found : Fin 3)
  /-- CAL_START (R461): BGS_CAL_CMD.START begins an eye sweep of one HMC. -/
  | calStart (hmc : Fin 32)
  /-- CAL_CMD_ABORT (R464): BGS_CAL_CMD.ABORT aborts the sweep in progress. -/
  | calCmdAbort
  /-- CAL_GATHER_DONE (R462): Sweep gathering ends and per-trim results are computed, with OUTCOME DONE and CAL_DONE. -/
  | calGatherDone (masks : List Nat)
  /-- CAL_TIMEOUT (R464): Gathering has not ended BGS_CAL_TMO ms after START, so the sweep aborts with TIMEOUT. -/
  | calTimeout
  /-- CAL_OPP_HOLD_EXPIRE (R464): A held HMC operating-point change waits 2 ms, so the sweep aborts with ABORT_OPP. -/
  | calOppHoldExpire
  /-- SENSOR_READ (R465): The 1 ms read of temperatures and rails updates BGS and may raise TEMP_HIGH. -/
  | sensorRead (temps rails : List (Fin 65536))
  /-- PMB_SEND_BYTE (R480): BGS_PMB_CMD OP 1 starts a PMBus send-byte transaction. -/
  | pmbSendByte (addr : Fin 128) (code : Fin 256) (pec : Bool)
  /-- PMB_WRITE_BYTE (R480): BGS_PMB_CMD OP 2 starts a PMBus write-byte transaction. -/
  | pmbWriteByte (addr : Fin 128) (code : Fin 256) (pec : Bool)
  /-- PMB_WRITE_WORD (R480): BGS_PMB_CMD OP 3 starts a PMBus write-word transaction. -/
  | pmbWriteWord (addr : Fin 128) (code : Fin 256) (pec : Bool)
  /-- PMB_READ_BYTE (R480): BGS_PMB_CMD OP 4 starts a PMBus read-byte transaction. -/
  | pmbReadByte (addr : Fin 128) (code : Fin 256) (pec : Bool)
  /-- PMB_READ_WORD (R480): BGS_PMB_CMD OP 5 starts a PMBus read-word transaction. -/
  | pmbReadWord (addr : Fin 128) (code : Fin 256) (pec : Bool)
  /-- PMB_DONE (R466): A PMBus transaction ends with DONE, NACK or PEC_ERR, and PMB_DONE is set. -/
  | pmbDone (r : PmbEnd)
  /-- PMB_STRETCH_TIMEOUT (R466): Clock stretching beyond 25 ms ends the transaction with TIMEOUT. -/
  | pmbStretchTimeout
  /-- TLM_SNAPSHOT (R467): Every 100 ms BGS writes a telemetry snapshot to the host ring, or skips it and counts the skip. -/
  | tlmSnapshot (core : List (Fin 65536))
  /-- ANT_MEASURE (R474): ANT_CMD.MEASURE starts an Antler measurement, or waits for an operating-point change to finish. -/
  | antMeasure (dom : Fin 221)
  /-- MEAS_DONE (R474): A measurement ends, writing slack, oscillator counts and time and setting MEAS_DONE. -/
  | measDone (dom : Fin 221) (m : Meas)
  /-- SPARE_PROMOTION (R250): On a QUARANTINED event, firmware promotes a spare, self-tests the quarantined engine, then releases or retires it. -/
  | sparePromotion (e : Fin 128)
  /-- EYE_SWEEP_SCHEDULE (R463): Every 2 minutes firmware starts the next HMC sweep and applies the accepted trims of a DONE sweep. -/
  | eyeSweepSchedule
  /-- MARGIN_PLAN_ROUND (R476): Each planning period firmware measures every domain and re-plans its voltage and frequency to keep the guard. -/
  | marginPlanRound (r : MarginRound)
  /-- PORST_ASSERT (R520): PORST_N is driven low, starting a power-on reset of everything. -/
  | porstAssert
  /-- PORST_RELEASE (R523): PORST_N is released: straps are sampled, the boot ROM runs and Fawn boots the chosen slot. -/
  | porstRelease (gpio : Fin 16)
  /-- DEVICE_RESET (R520): CLK_RST_CMD.DEVICE with the correct key starts a device reset held for 2 ms. -/
  | deviceReset (rq : Requester) (key : Fin 65536)
  /-- DEVICE_RESET_RELEASE (R520): The 2 ms device reset ends and the security core is released to run the boot ROM. -/
  | deviceResetRelease
  /-- LOCK_LOSS (R512): A synthesiser loses lock: its domain clock stops and LOCK_LOSS is raised. -/
  | lockLoss (dom : Fin 221)
  /-- REFCLK_LOSS (R536): A reference clock stops, leading to lock loss and safe state, or to no effect while PERST_N is low. -/
  | refclkLoss (ref : RefClk)
  /-- CLK_OPP_WRITE (R513): A write of CLK_OPP starts a voltage change of the domain, or holds it while a measurement or sweep runs. -/
  | clkOppWrite (dom : Fin 221) (vset : Fin 64)
  /-- CLK_OPP_DONE (R513): A domain's voltage change completes and OPP_DONE is set. -/
  | clkOppDone (dom : Fin 221)
  /-- SD_SCAN (R494): On card insertion, a SCAN or a recovery boot, Fawn checks the card's .tdn files and chooses one to download. -/
  | sdScan (files : List SdFile)
  /-- SD_CARD_REMOVE (R510): Removal of the card during a download ends it with SD_ERR and leaves the slot EMPTY. -/
  | sdCardRemove (written : List Byte)
  /-- DOWNLOAD_DONE (R495): All chunks of the download are verified, VALID is programmed and the slot becomes READY. -/
  | downloadDone (file : List Byte)
  /-- STATUS (R509): Mailbox operation STATUS returns the version, SEC_VER and state of both slots. -/
  | status (m : Mbx) (seq : Fin 65536)
  /-- SCAN (R509): Mailbox operation SCAN starts a scan of the SD card. -/
  | scan (m : Mbx) (seq : Fin 65536)
  /-- ACTIVATE (R496): Mailbox operation ACTIVATE, or AUTO_ACTIVATE, begins a hitless handover to a READY slot. -/
  | activate (m : Mbx) (seq : Fin 65536)
  /-- HANDOVER_READY (R496): The running firmware sends HANDOVER_READY, and Fawn swaps in the new HERD_CORE. -/
  | handoverReady (m : Mbx) (seq : Fin 65536)
  /-- HANDOVER_TIMEOUT (R496): 50 ms pass without HANDOVER_READY, and Fawn proceeds without the handover block. -/
  | handoverTimeout
  /-- READY (R509): Firmware sends READY with its staging address; SEC_BOOT_STS.READY becomes 1 and waiting commands are taken up. -/
  | ready (m : Mbx) (seq : Fin 65536)
  /-- FW_START_TIMEOUT (R498): New firmware sends no READY within 1 s: Fawn retries the trial or reverts to the GOOD image. -/
  | fwStartTimeout
  /-- CONFIRM (R500): Mailbox operation CONFIRM marks the trial slot GOOD, raises the anti-rollback count and updates Fawn. -/
  | confirm (m : Mbx) (seq : Fin 65536) (period : Nat)
  /-- REVERT (R501): Mailbox operation REVERT revokes a trial slot and starts the GOOD image. -/
  | revert (m : Mbx) (seq : Fin 65536)
  /-- RESTART (R498): Mailbox operation RESTART restarts the firmware after a Herd watchdog expiry. -/
  | restart (m : Mbx) (seq : Fin 65536)
  /-- LOAD_COMPONENTS (R491): Mailbox operation LOAD_COMPONENTS decrypts and checks components into HBM and writes the manifest entries. -/
  | loadComponents (m : Mbx) (seq : Fin 65536)
  /-- NOR_COPY (R509): Mailbox operation NOR_COPY copies NOR bytes into HBM. -/
  | norCopy (m : Mbx) (seq : Fin 65536)
  /-- NOR_PROG (R509): Mailbox operation NOR_PROG programs up to 64 KiB of the settings store. -/
  | norProg (m : Mbx) (seq : Fin 65536) (fails : Bool)
  /-- NOR_ERASE (R509): Mailbox operation NOR_ERASE erases one settings-store sector. -/
  | norErase (m : Mbx) (seq : Fin 65536) (fails : Bool)
  /-- DBG_PASSWORD (R505): Mailbox operation DBG_PASSWORD opens debug level TRACE when the password matches. -/
  | dbgPassword (m : Mbx) (seq : Fin 65536)
  /-- DBG_CHALLENGE (R505): Mailbox operation DBG_CHALLENGE returns a 32-byte nonce. -/
  | dbgChallenge (m : Mbx) (seq : Fin 65536)
  /-- DBG_RESPONSE (R505): Mailbox operation DBG_RESPONSE opens debug level FULL when the signature over the nonce verifies. -/
  | dbgResponse (m : Mbx) (seq : Fin 65536)
  /-- DBG_LOCK (R509): Mailbox operation DBG_LOCK returns the debug level to CLOSED. -/
  | dbgLock (m : Mbx) (seq : Fin 65536)
  /-- NONCE_EXPIRE (R505): A debug challenge nonce lapses 10 minutes after it was issued. -/
  | nonceExpire
  /-- PUNTED_PACKET (R321): Firmware takes a frame from a Herd punt queue and serves it: PTP servo, IGMPv3 or MLDv2 query answers, ARP, neighbour discovery or ICMP echo. -/
  | puntedPacket (q : Fin 4) (a : PuntAnswer)
  /-- CELL_TIME (R352): Every 16 fc the switch matches inputs to outputs in three request, grant and accept iterations and moves one cell per matched pair. -/
  | cellTime (err : TxErr)
  /-- COMMAND_SLOT (R289): In each command slot the HMC visits the bank groups in rotation and issues the oldest ready queue head to the stack. -/
  | commandSlot (n : Fin 32) (pc : Fin 2) (qpar : Bool)
  /-- TOKEN_UPDATE (R384): Every 64 ns each egress queue's token bucket rises by its rate, which can make a waiting queue eligible. -/
  | tokenUpdate
  /-- SYNTHESISER_RELOCK (R436): A synthesiser that lost lock, or whose reference returned, locks again, and its domain's clock runs and CLK_STS.LOCK returns to 1. -/
  | synthesiserRelock (dom : Fin 221)
  /-- PERST_RELEASE (R523): PERST_N is released, letting the PCI and DMA blocks out of reset and starting link training. -/
  | perstRelease
  /-- DOWNLOAD_FAILED (R495): A download ends with CHUNK_DIGEST, GCM_TAG, BODY_DIGEST, NOR_ERR or SD_ERR, leaving the slot EMPTY and SEC_UPD_STS at FAILED. -/
  | downloadFailed (reason : Fin 16) (written : List Byte)
  /-- UART_BYTE_SENT (R430): The console UART finishes sending one byte at its baud rate, freeing a place in the transmit FIFO. -/
  | uartByteSent
  /-- DEBUG_HALT (R418): A debug halt over JTAG at level FULL puts a Herd core into HALTED, which counts as offline for delivery. -/
  | debugHalt (n : Fin 4)
  /-- DEBUG_RESUME (R418): A debug resume over JTAG takes a HALTED Herd core back to RUN. -/
  | debugResume (n : Fin 4)
  /-- EXTEST (R504): A JTAG EXTEST instruction drives the balls from the boundary scan, breaking the streams. -/
  | extest (balls : List Bool)
  /-- LINK_ERROR_REPLAY (R395): A PCIe link error corrected by replay is replayed, reported as AER correctable and counted in PCI_CNT_CORR. -/
  | linkErrorReplay
  /-- MALFORMED_TLP (R413): A malformed TLP received at the endpoint sets PCI_ERR_STS.MALFORMED and its event. -/
  | malformedTlp
  /-- UNEXPECTED_COMPLETION (R413): A completion arriving with no outstanding request sets PCI_ERR_STS.UNEXP_CPL and its event. -/
  | unexpectedCompletion
  /-- WIN4_ACCESS (R395): A host access to WIN4 reads or writes the MSI-X table or pending-bit array, or receives Unsupported Request beyond them and sets UR_RX. -/
  | win4Access (off : Fin 65536) (op : WinOp)
  /-- PCIE_CONFIG_WRITE (R391): The host writes PCIe configuration space, setting MPS, MRRS, bus mastering, ASPM or the power state that the funnel, telemetry and L1 behaviour depend on. -/
  | pcieConfigWrite (w : PcieCfg)
  deriving DecidableEq, Repr

end Sys2Proof
end

