-- ==== Sys2Proof/Decode.lean ====
section
/-!
DEFINITION. The decoder.  The table of operations gives no row any bits: a command comes to the Todon from outside, as an access, a
packet or an event, not as a word (log entry 6).
-/

namespace Sys2Proof

/-- The command a word spells: none does. -/
def decodeTableWord (_nbits _w : Nat) : Option Instr := none

end Sys2Proof
end

