-- ==== Sys2Proof/Config.lean ====
section
/-!
DEFINITION. What the spec leaves open or to the implementation: free values and functions without a body, so that
nothing proved can rest on a value of theirs.
-/

namespace Sys2Proof

/-- A free value: what the spec calls undefined, or does not state, at the n-th place a run meets such a value. -/
opaque Config.freeValue : Nat → Nat

/-- The SHA-384 digest of a byte string (R212, R486): named by the spec, defined in its standard. -/
opaque Config.sha384 : List Byte → List Byte

/-- Does this ECDSA P-384 signature over this message verify under this public key (R484, R505)? -/
opaque Config.ecdsaOk : (key sig msg : List Byte) → Bool

/-- The plain text of an AES-GCM ciphertext, none where the tag is wrong (R487, R495). -/
opaque Config.gcmOpen : (key iv aad cipher : List Byte) → Option (List Byte)

/-- The layer offset that CQ adds to QI for a picture of a temporal layer (R124): the spec states no value. -/
opaque Config.layerOffset : (layer : Nat) → Nat

/-- The share of a free budget that a row or slice receives where all the weights it is shared by are 0 (R127, R128), and the complexity
that stands for the mean of the last pictures where there is none or it is 0 (R124): the spec states neither. -/
opaque Config.evenShare : (free : Int) → (left : Nat) → Int
opaque Config.meanCost : (cost : Nat) → Nat

/-- How the decimation of R86 rounds a sum of 9 weighted samples that is no multiple of 16: the spec states no rounding. -/
opaque Config.decimRound : (samples : List Nat) → Nat

/-- The scaler (R95): the coefficient of a tap in a phase, in 64ths, of a coefficient set, and how the sum of each of its two passes is
rounded.  The spec gives neither. -/
opaque Config.scaleCoef : (filter : Nat) → (chroma : Bool) → (phase tap : Nat) → Int
opaque Config.scaleRound : (vertical : Bool) → (sum : Int) → Int

/-- The SATD of a block of differences in raster order, and the intra cost that DC and planar prediction give a block of 8 by 8 from the
samples above and to the left of it (R86): the spec names both and gives neither's scale. -/
opaque Config.satd : (diff : List Int) → Nat
opaque Config.intraEstimate : (block above left : List Nat) → Nat

/-- Does a training read differ on a byte lane from what was written (R293, R306)?  By HMC, lane, read trim, write trim, and a free value. -/
opaque Config.laneErr : (hmc lane readTrim writeTrim noise : Nat) → Bool

/-- The membership report, or leave, that the firmware sends (R321): leave, port, VLAN, group, mode (1 INCLUDE), sources.  The spec names the protocols,
IGMPv3 and MLDv2, and gives no frame. -/
opaque Config.membershipFrame : (leave : Bool) → (port vlan group mode : Nat) → (sources : List Nat) → List (BitVec 8)

/-- The areas the firmware reserves for itself in set 0 (R544): where they begin, and their bytes, of which at most 64 MiB count. -/
opaque Config.firmwareStart : Nat
opaque Config.firmwareBytes : Nat

/-- The set of a pixel engine's reference cache that a block belongs to (R206), by channel, picture, plane and place: the spec gives none. -/
opaque Config.refSet : (chn pic frame plane bx byy : Nat) → Nat

/-- The Kelovoim default parse program (R327), of which the spec gives the behaviour and not the words: the digest of its image; the words it
executes for a frame; the CODE of its lookups; and what it leaves in the marks (0 to 3) of a malformed frame and in key byte 0 (4) of a frame
without a lookup, with the word at which it is stopped where it may not take so many (5). -/
opaque Config.kelovoimDigest : List Byte
opaque Config.kelovoimWords : (frame : List Byte) → Nat
opaque Config.kelovoimCode : (profile : Nat) → Nat
opaque Config.kelovoimLeft : (frame : List Byte) → (k : Nat) → Nat

/-- The settings store (R470, R502): the TYPE of the margin plan's record, an image's default records by generation, and how it converts
the body of a record of another generation.  The spec states none of them. -/
opaque Config.planType : Nat
opaque Config.settingsDefaults : (gen : Nat) → List (Nat × List Byte)
opaque Config.convertRecord : (source target type : Nat) → List Byte → List Byte

/-- Frames a Herd punt queue holds before it is full (R332): the spec states no number. -/
opaque Config.puntDepth : Nat

/-- What a unit's OTP holds (R40, R485, R486, R499, R504, R505): unit ID, lifecycle (0 DEVELOPMENT, 1 FIELD), anti-rollback count at
power-on, image-key digests and which are revoked, image key, and the digests of the debug password and the debug key. -/
opaque Config.otpUnitId : Nat
opaque Config.otpLifecycle : Nat
opaque Config.otpArb : Nat
opaque Config.otpKeyDigest : (i : Nat) → List Byte
opaque Config.otpKeyRevoked : (i : Nat) → Bool
opaque Config.otpImageKey : List Byte
opaque Config.otpPassword : List Byte
opaque Config.otpDebugKey : List Byte

/-- The slack the firmware's delay model predicts at another voltage step for a domain measured at one (R476): the spec gives no
model. -/
opaque Config.delayModel : (dom slack vset vsetNew : Nat) → Int

/-- The frequency in kHz that CLK_FMEAS measures in a domain at a time (R524), and the whole MHz shown for a nominal frequency in kHz
that is none (R526). -/
opaque Config.freqMeasured : (dom now : Nat) → Nat
opaque Config.wholeMHz : (khz : Nat) → Nat

/-- The SD card clock that Fawn sets, in kHz (R511). -/
opaque Config.sdKHz : Nat

/-- The reset vector that Fawn writes (R491): the spec states no value. -/
opaque Config.herdVector : Nat

end Sys2Proof
end

