-- ==== Sys2Proof/Machine/Blocks.lean ====
section
/-!
DEFINITION. The state of the blocks around the media core beside their registers: HBM controllers and arbiters, Ethernet
ports, parse engines, classifier, switch, egress and the DMA rings.
-/

namespace Sys2Proof.Machine

/-- An entry of a bank queue (R289): its requester, its unit, what its data is for, and whether the data is to return
poisoned (R291) or marked failed (R299). -/
structure BankEntry where
  req : Nat
  use : HbmUse
  addr : Nat
  op : HbmOp
  poisoned : Bool
  failed : Bool
  /-- What a read or atomic access returns, and the first poisoned word it meets (R288, R291). -/
  data : List Byte := []
  sick : Option Nat := none
  deriving DecidableEq, Repr

/-- An HBM channel: the arbiter's waiting requests in order of arrival, its grant or lock, and the controller's queues. -/
structure Hbc where
  waiting : List HbmReq
  /-- The grant in progress with the units not yet admitted, and the base priority it was made at (R301). -/
  holder : Option HbmReq
  holderBase : Nat
  /-- Units admitted under the lock (R314). -/
  lockUnits : Nat
  /-- The watchdog's limit for the lock, as it stood at the grant (R314). -/
  lockLimit : Nat
  /-- The last requester granted (R296). -/
  last : Nat
  /-- Bank queues of both pseudo-channels, entries in order of arrival. -/
  queue : List BankEntry
  /-- Reads issued to the stack whose data has not returned. -/
  inflight : List BankEntry
  /-- The bank group each pseudo-channel visited last (R289). -/
  rot0 : Nat
  rot1 : Nat
  /-- Grants that go on, but were no candidates in a round that another requester won, with their base priorities (R295). -/
  parked : List (HbmReq × Nat) := []
  /-- Banks not refreshed in their interval yet, and banks whose forced refresh waits for the burst in progress (R290); 32 times the
  pseudo-channel plus the bank. -/
  unrefreshed : List Nat := []
  forced : List Nat := []
  /-- The units that training bursts wrote, with the write trims of the five lanes (R293, R306). -/
  trained : List (Nat × List Nat) := []
  /-- Rows, as 8 KiB of the address map, in which an uncorrectable error was captured since boot (R292). -/
  badRows : List Nat := []
  deriving DecidableEq, Repr

def Hbc.reset : Hbc :=
  { waiting := [], holder := none, holderBase := 0, lockUnits := 0, lockLimit := 0, last := 1023, queue := [], inflight := [], rot0 := 3, rot1 := 3 }

/-! The network path (R315 to R390). -/

/-- A frame in a receive queue (R317, R319): its bytes without FCS, its time stamp, and whether its FCS failed. -/
structure RxFrame where
  bytes : List Byte
  time : Nat
  fcsBad : Bool
  deriving DecidableEq, Repr

/-- How a parse engine ended a frame (R325, R337). -/
inductive ParseEnd where
  | lookup
  | punt (queue code : Nat)
  | host (queue code : Nat)
  | drop
  | malformed (reason : Nat)
  deriving DecidableEq, Repr

/-- A frame whose parsing has ended, with its key, marked offsets and END code. -/
structure Parsed where
  frame : RxFrame
  result : ParseEnd
  key : List Byte
  ofs : List Nat
  code : Nat
  deriving DecidableEq, Repr

/-- An Ethernet port: receive queue, parsed frames in order of arrival, transmit time stamps (tag, time), and whether PFC was sent
for every priority because of RXQ XOFF (R354). -/
structure Eth where
  rxq : List RxFrame
  parsed : List Parsed
  txts : List (Nat × Nat)
  xoffAll : Bool
  deriving DecidableEq, Repr

def Eth.reset : Eth := { rxq := [], parsed := [], txts := [], xoffAll := false }

/-- A parse engine: its program and match tables (R323 to R326), the load (1) or check (2) in progress, and whether the program is the
Kelovoim default (R327). -/
structure Pse where
  words : List Nat
  tables : List Nat
  op : Nat
  kelovoim : Bool := false
  deriving DecidableEq, Repr

def Pse.reset : Pse := { words := [], tables := [], op := 0 }

/-- The classifier: the command in progress (R334), the bucket cache, most recently used first in each set (R329), and the punt
queues' token buckets in 10^-9 packets with the time of their last update (R332). -/
structure Cls where
  op : Nat
  cache : List (Nat × List (Nat × List Byte))
  punt : List (Nat × (Int × Nat))
  /-- The bucket the ager visits next, and when, in 1/32768 ns of device time; none where ageing has not begun (R336). -/
  ageNext : Nat
  ageAt : Option Int
  deriving DecidableEq, Repr

def Cls.reset : Cls := { op := 0, cache := [], punt := [], ageNext := 0, ageAt := none }

/-- A packet in the switch: its action (R331; 7 an injection, 8 a packetiser's packet), the channel, flow or queue it is for, the
one replication entry it is for or the LINK of its classifier entry, its bytes, and its size in the switch without FCS. -/
structure SwPkt where
  act : Nat
  arg : Nat
  link : Option Nat
  outs : List Nat
  /-- Receive header (R333) of packets to outputs 10 and 11. -/
  hdr : List Byte
  bytes : List Byte
  size : Nat
  stamp : TxStamp
  /-- The PKT buffer of a packetiser's packet, with its group: given back, or kept in the window, once the switch has taken it. -/
  buf : Option (Nat × Nat)
  /-- The switch priority of a forwarded frame (R331). -/
  prio : Option Nat := none
  deriving DecidableEq, Repr

/-- A switch input (R350, R352): its packets, the cells of the first already sent, the outputs that have yet to take the cell in
the staging slot (none where none is staged), and its accept pointer. -/
structure SwIn where
  packets : List SwPkt
  sent : Nat
  staged : Option (List Nat)
  aptr : Nat
  deriving DecidableEq, Repr

def SwIn.reset : SwIn := { packets := [], sent := 0, staged := none, aptr := 0 }

/-- A packet arriving at an output: from which input, whether its cells are discarded, and whether the flush counts have it already
(R356). -/
structure Arriving where
  input : Nat
  pkt : SwPkt
  discard : Bool
  counted : Bool := false
  deriving DecidableEq, Repr

/-- A complete packet in an output buffer: its number, whether its walk has begun with the entries still to be queued, each with its queue as the walk
found it (R380, R381), and the copies not yet sent. -/
structure OutPkt where
  id : Nat
  pkt : SwPkt
  walk : Option (List (Nat × Nat))
  copies : Nat
  deriving DecidableEq, Repr

/-- A switch output (R351, R352): grant pointer, packets arriving and complete. -/
structure SwOut where
  gptr : Nat
  arriving : List Arriving
  packets : List OutPkt
  nextId : Nat
  deriving DecidableEq, Repr

def SwOut.reset : SwOut := { gptr := 0, arriving := [], packets := [], nextId := 0 }

/-- A frame handed to a sink of the Herd or the host, with its PKT buffer. -/
structure SinkFrame where
  pkt : SwPkt
  buf : Nat
  deriving DecidableEq, Repr

/-- A replication entry (R379): its bytes 0 to 30, whether it is valid, and the copies queued under it. -/
structure Repl where
  bytes : List Byte
  valid : Bool
  queued : Nat
  deriving DecidableEq, Repr

def Repl.reset : Repl := { bytes := List.replicate 31 0, valid := false, queued := 0 }

/-- A copy or frame queued for transmission: its packet in the port's output buffer, and its replication entry (R380). -/
structure TxDesc where
  pkt : Nat
  entry : Option Nat
  deriving DecidableEq, Repr

/-- An egress queue (R382 to R384): tokens in units of 2^-24 byte. -/
structure EgsQ where
  port : Option Nat
  descs : List TxDesc
  inTurn : Bool
  tokens : Nat
  deriving DecidableEq, Repr

def EgsQ.reset : EgsQ := { port := none, descs := [], inTurn := false, tokens := 0 }

/-- The active list of a port (R383): queues still to be served in the round, and those served. -/
structure EgsPort where
  todo : List Nat
  served : List Nat
  deriving DecidableEq, Repr

def EgsPort.reset : EgsPort := { todo := [], served := [] }

/-- The network path. -/
structure Net where
  eths : List (Nat × Eth)
  /-- The device time at which PPS_OUT falls (R320). -/
  ppsEnd : Option Nat
  /-- The offset of PPS_OUT that a write replaced, and the second in which it is still in force (R343). -/
  ppsOld : Option (Nat × Nat)
  pses : List (Nat × Pse)
  cls : Cls
  ins : List (Nat × SwIn)
  outs : List (Nat × SwOut)
  /-- Herd punt queues, host delivery queues, and the frames the retransmission responders have yet to answer. -/
  punts : List (Nat × List SinkFrame)
  hostqs : List (Nat × List SinkFrame)
  rtxq : List SinkFrame
  repl : List (Nat × Repl)
  /-- Replication lists by 8 * channel + port, in order. -/
  lists : List (Nat × List Nat)
  queues : List (Nat × EgsQ)
  ports : List (Nat × EgsPort)
  deriving DecidableEq, Repr

def Net.reset : Net :=
  { eths := [], ppsEnd := none, ppsOld := none, pses := [], cls := Cls.reset, ins := [], outs := [], punts := [], hostqs := [], rtxq := [], repl := []
    lists := [], queues := [], ports := [] }

/-! The host interface (R391 to R413). -/

/-- A descriptor as read from host memory (R399). -/
structure Desc where
  host : Nat
  dev : Nat
  len : Nat
  kind : Nat
  irq : Bool
  picStart : Bool
  lmark : Bool
  auEnd : Bool
  port : Nat
  lines : Nat
  own : Bool
  tag : Nat
  deriving DecidableEq, Repr

/-- A descriptor ring (R397, R403, R408): base, size and next descriptor as loaded at enable; the doorbell value seen at the read in
flight and whether it is the second one; the descriptor fetched; the one in progress, with the status and residue it must end with
where those are decided at its start; whether the ring stops with it; whether its stream channel has stopped meanwhile (R404, R409). -/
structure Ring where
  base : Nat
  size : Nat
  ptr : Nat
  fetching : Option (Nat × Bool)
  fetched : Option Desc
  active : Option Desc
  forced : Option (Nat × Nat)
  stopping : Bool
  cut : Bool
  /-- What a SLICE or FRAME_OUT descriptor writes, and for SLICE the slice it comes from: picture, slice, first byte. -/
  outData : List Byte
  from_ : Nat × Nat × Nat
  deriving DecidableEq, Repr

def Ring.reset : Ring :=
  { base := 0, size := 2, ptr := 0, fetching := none, fetched := none, active := none, forced := none, stopping := false, cut := false
    outData := [], from_ := (0, 0, 0) }

/-- What configuration space and the link hold (R391, R413), and whether PERST_N is low. -/
structure PcieLink where
  perst : Bool
  maxPayload : Nat
  maxRead : Nat
  busMaster : Bool
  aspmL1 : Bool
  d3 : Bool
  deriving DecidableEq, Repr

def PcieLink.reset : PcieLink := { perst := true, maxPayload := 128, maxRead := 512, busMaster := false, aspmL1 := false, d3 := false }

/-- The DMA engines: rings by 2 * channel (H2D) and 2 * channel + 1 (D2H); ROLE and QIDX in force by channel (R398); the ring each
half served last, by 2 * engine + half. -/
structure Dma where
  rings : List (Nat × Ring)
  roles : List (Nat × (Nat × Nat))
  last : List (Nat × Nat)
  link : PcieLink
  deriving DecidableEq, Repr

def Dma.reset : Dma := { rings := [], roles := [], last := [], link := PcieLink.reset }

/-! The Herd (R414 to R434). -/

/-- The Herd's state beside its registers: the operation and sequence number of the host mailbox command in hand, the UART FIFOs, the
cores whose timer has not fired since it was written, and the external inputs whose filter count runs. -/
structure Herd where
  mbxOp : Option (Nat × Nat)
  txFifo : List Byte
  rxFifo : List Byte
  timers : List Nat
  counting : List Nat
  /-- Multicast memberships (port, VLAN, mode, group, sources) and port addresses (port, source index, VLAN, address) (R421). -/
  mcast : List (Nat × Nat × Nat × Nat × List Nat)
  /-- The multicast destinations (port, VLAN, group) that DECODE and INGEST entries name, one for each entry (R321). -/
  groups : List (Nat × Nat × Nat)
  addrs : List (Nat × Nat × Nat × Nat)
  /-- The state a core had before a debug halt (R418). -/
  halted : List (Nat × Nat)
  deriving DecidableEq, Repr

def Herd.reset : Herd :=
  { mbxOp := none, txFifo := [], rxFifo := [], timers := [], counting := [], mcast := [], groups := [], addrs := [], halted := [] }

/-! Watchdogs, background services, Antler monitors and clocks (R448 to R481, R511 to R527). -/

/-- A firmware watchdog counter: the device time at which it was last started, the LIMIT it counts from, and whether it stands at 0. -/
structure Wdt where
  since : Int
  limit : Nat
  zero : Bool
  deriving DecidableEq, Repr

def Wdt.reset : Wdt := { since := 0, limit := 0, zero := false }

/-- The firmware's plan of a clock domain (R476): smallest slack, voltage step, frequency in 10 MHz (0 for a fixed one), flags; what
the round waits for (0 nothing, 1 a measurement, 2 a change it asked for); the voltage step it left when it tried the one below;
whether it has raised the voltage in this round; and whether the engine left the working set with no spare to replace it (R251).  Of a
quarantined engine: whether its self-test has been asked for (R250), the device time at which a fault last quarantined one, and whether that
came within 24 h of the time before (R219). -/
structure Plan where
  slack : Nat
  vset : Nat
  freq : Nat
  flags : Nat
  phase : Nat
  tried : Option Nat
  raised : Bool
  short : Bool
  testing : Bool := false
  faultAt : Option Nat := none
  twice : Bool := false
  deriving DecidableEq, Repr

def Plan.reset : Plan := { slack := 0, vset := 0, freq := 0, flags := 0, phase := 0, tried := none, raised := false, short := false }

/-- Background services beside their registers: the PMBus operation in hand, the smallest eye width and the stack temperature of each
HMC's last accepted sweep, the HMC the firmware sweeps next in turn, those it sweeps out of turn, whether a sweep's trims are still to
be applied, and the plans. -/
structure Bgs where
  pmb : Nat
  accepted : List (Nat × (Nat × Nat))
  turn : Nat
  again : List Nat
  fresh : Bool
  plans : List (Nat × Plan)
  /-- The firmware has designated its spares since boot (R250). -/
  spared : Bool
  deriving DecidableEq, Repr

def Bgs.reset : Bgs := { pmb := 0, accepted := [], turn := 0, again := [], fresh := false, plans := [], spared := false }

/-- A clock domain: the voltage step a change in progress goes to, and the one a change that waits will go to (R513). -/
structure Clk where
  target : Option Nat
  waits : Option Nat
  deriving DecidableEq, Repr

def Clk.reset : Clk := { target := none, waits := none }

/-! The security core (R482 to R510). -/

/-- What Fawn is doing: not running, in recovery, looking for an image on the SD card before a recovery boot, waiting for the running
firmware to hand over, waiting for a started firmware's READY, or with a firmware running. -/
inductive SecPhase where
  | stopped | recovery | recoveryScan | handover | starting | running
  deriving DecidableEq, Repr

/-- A download in progress: the slot it goes to, and the file's header (R495). -/
structure Download where
  slot : Nat
  header : List Byte
  deriving DecidableEq, Repr

/-- An operation on the SPI NOR: an erase of the 64 KiB at an address, or a program of bytes (R471). -/
inductive FlashStep where
  | erase (a : Nat)
  | program (a : Nat) (bytes : List Byte)
  deriving DecidableEq, Repr

/-- A record that waits to be written to the settings store (R470). -/
structure StoreWrite where
  type : Nat
  gen : Nat
  body : List Byte
  deriving DecidableEq, Repr

/-- The security core beside its page. -/
structure Sec where
  /-- OTP: hardware type, and the anti-rollback count (R499). -/
  hwType : Nat
  arb : Nat
  /-- The reset in force: 0 none, 1 power-on, 2 device (R520). -/
  rst : Nat
  phase : SecPhase
  /-- The slot of the image that runs, the one a handover in progress goes to, and whether the start in progress is a boot. -/
  slot : Nat
  next : Nat
  boot : Bool
  /-- Device time of the last start of the image, and the staging area of its last READY, 0 where it named none (R496, R509). -/
  startAt : Int
  staging : Nat
  /-- The command in hand of each mailbox (0 host, 1 firmware): operation and sequence number (R508). -/
  cmds : List (Nat × (Nat × Nat))
  dl : Option Download
  nonce : Option (List Byte)
  /-- The running image's settings generation and the lowest it reads: GEN and AUX of its HERD_CORE entry (R487, R502). -/
  gen : Nat := 0
  aux : Nat := 0
  /-- Records that wait to be written to the settings store, the flash operations in hand, and whether these place the first record (R471). -/
  todo : List StoreWrite := []
  flash : List FlashStep := []
  placing : Bool := false
  deriving DecidableEq, Repr

/-- The security core right after a reset, with what OTP holds. -/
def Sec.reset (hwType arb : Nat) : Sec :=
  { hwType := hwType, arb := arb, rst := 0, phase := .stopped, slot := 0, next := 0, boot := false, startAt := 0, staging := 0, cmds := []
    dl := none, nonce := none }

end Sys2Proof.Machine
end

