-- ==== Sys2Proof/Machine/Media.lean ====
section
/-!
DEFINITION. The state of the media blocks beyond their registers: channels and their source pictures, coded pictures,
rate-control contexts, decode and hold state (chapters 3 to 6), entropy engines (chapter 7), pixel engines (chapter 8) and
the dispatcher's job table (chapter 9).  Plain data; times are device time in ns.
-/

namespace Sys2Proof.Machine

/-- The commands of CHN_CMD (R55, R70). -/
inductive ChOp where
  | configure | open_ | drain | abort | close
  deriving DecidableEq, Repr

/-- What a channel holds as its source from its accepted CONFIGURE to its CLOSE (R45). -/
inductive SrcHold where
  | none
  | flow (n : Nat)
  | decode (chn : Nat)
  deriving DecidableEq, Repr

/-- A picture in a leader's source frame stores (R84, R85). -/
structure SrcPic where
  idx : Nat
  /-- RTP time stamp (R374). -/
  ts : Nat
  /-- Luma lines stored, and those stored before any damage. -/
  lines : Nat
  good : Nat
  /-- The samples stored of each line that is not complete: line number, samples. -/
  partLines : List (Nat × Nat)
  /-- Device time at which the last line was stored. -/
  doneAt : Option Nat
  bad : Bool
  /-- The source frame store that holds the picture. -/
  store : Nat
  /-- The still picture of R165, and the exit picture of R166. -/
  still : Bool
  exit : Bool
  /-- Slices of the leader whose analysis job committed, what the analysis found for each block (R86), and the complexity of each row (R87). -/
  anaDone : List Nat
  vecs : List BlockCost := []
  rowCost : List (Nat × Nat)
  /-- Blocks with intra cost below inter cost, and blocks analysed (R87). -/
  intraWins : Nat
  blocks : Nat
  /-- CHN_SURF_MODE as it stood when the picture began, for its analysis picture (R277). -/
  mode : Word
  /-- Colour description and metadata of the decoded stream a surface link copied it from (R107). -/
  colour : Option (Nat × Nat × Nat × Bool) := none
  mastering : List Byte := []
  light : List Byte := []
  /-- Its deadline passed before its last line was stored (R161); the group has taken it for coding. -/
  late : Bool := false
  taken : Bool := false
  /-- How many lines were stored at which times, oldest first (R84, R238); its first line is stored, and its time stamp with it (R374); its
  deadline, once it is stored (R161). -/
  stored : List (Nat × Nat) := []
  dated : Bool := false
  due : Option Nat := none
  /-- CHN_SURF_MODE as it stood when the first block row of a surface link was written (R277). -/
  linkMode : Option Word := none
  deriving DecidableEq, Repr

/-- What happens at a deadline that is to come for a picture stored, dropped or discarded already: a hold picture takes its place
(R85, R162); only HOLDING starts (R163); or it counts as a miss where CHN_HOLD_CMD.ENTER is in force then, with the count of misses
before it (R161). -/
inductive Due where
  | cover
  | enter
  | judge (misses : Nat)
  deriving DecidableEq, Repr

/-- A slice of a picture being coded or reconstructed. -/
structure Slice where
  idx : Nat
  /-- When its jobs became ready (R84), none before; its deadline (R238). -/
  readyAt : Option Nat
  deadline : Nat
  scaled : Bool
  /-- Its first encode job was issued; its encode or reconstruct job committed. -/
  issued : Bool
  encoded : Bool
  /-- The seam job of the boundary above it committed, or there is none. -/
  seamed : Bool
  entropyMade : Bool
  /-- Bytes of its syntax in the ring: by the attempt that runs, and by any attempt (R185, R197). -/
  written : Nat
  reached : Nat
  done : Bool
  /-- Budget and hard allowance (R128); bytes produced so far and bytes committed. -/
  b : Nat
  h : Nat
  produced : Nat
  bytes : Nat
  /-- Row, quantiser in model units, starvation level and predicted complexity of each row given one (R127, R130). -/
  rowQ : List (Nat × Nat × Nat)
  /-- Bytes of the slice produced as each of them started. -/
  sofar : List (Nat × Nat)
  /-- SAO or CDEF parameters its encode job coded, for the seam jobs (R93). -/
  filter : List Nat
  /-- Rows found starved, by R130 or R131. -/
  starved : List Nat
  /-- Sums of R138 over its unstarved rows: fit in 16.16, and bytes. -/
  fit : Nat
  fitBytes : Nat
  reissued : Bool
  abandoned : Bool
  tries : Nat
  late : Bool
  lateUs : Nat
  /-- Luma samples of the segment (decode); lines whole with it and those before it; where its syntax starts in that of its unit, whose
  length is in `written` (R147, R188). -/
  area : Nat
  rows : Nat := 0
  synAt : Nat := 0
  deriving DecidableEq, Repr

/-- The sample aspect ratio a stream signals (R96). -/
inductive Sar where
  | absent
  | unspecified
  | ratio (w h : Nat)
  deriving DecidableEq, Repr

/-- What the parameter sets, or the sequence header, of a random-access picture say: profile, level and tier (R102, R106); size, coded size
and samples cropped at the right and bottom (R100); aspect ratio (R96); colour description and metadata (R107); bit rate in kbit/s, buffer in
bytes, constant rate (R121, R122); TMVP or reference MVs (R112); SAO enabled in the SPS (R103). -/
structure StreamHdr where
  profile : Profile
  level : Nat
  tier : Bool
  width : Nat
  height : Nat
  codedW : Nat
  codedH : Nat
  cropRight : Nat
  cropBottom : Nat
  sar : Sar
  colour : Option (Nat × Nat × Nat × Bool)
  mastering : List Byte
  light : List Byte
  hrdRate : Nat
  hrdSize : Nat
  cbr : Bool
  tmvp : Bool
  sao : Bool
  deriving DecidableEq, Repr

/-- Kinds of coded pictures (R98, R103, R160). -/
inductive PicKind where
  | idrNLp | idrWRadl | cra | keyFrame | idr | inter | trailR
  deriving DecidableEq, Repr

/-- How every block of a hold picture is coded (R160): skipped with merge index 0, GLOBALMV with identity global motion and no residual, or
P_Skip. -/
inductive BlockSkip where
  | merge0 | globalMv | pSkip
  deriving DecidableEq, Repr

/-- The headers of a coded picture: its kind; parameter sets, before every random-access picture (R106); a delimiter before it, and a frame
coded hidden (R104, R106); the hidden frames, by source index, that temporal units of show_existing_frame after it show (R104); its slices or
tile groups, references, TMVP or reference MVs, how a hold picture's blocks are coded, and that it refreshes the LAST slot (R160); loop filters
and deblocking offsets of its slices (R112, R160). -/
structure PicHdr where
  kind : PicKind
  params : Option StreamHdr
  delimiter : Bool
  hidden : Bool
  shows : List Nat
  slices : Nat
  refs : Nat
  tmvp : Bool
  skip : Option BlockSkip
  refreshLast : Bool
  deblock : Bool
  sao : Bool
  cdef : Bool
  across : Bool
  tcOff : Int
  betaOff : Int
  deriving DecidableEq, Repr

/-- A picture a channel is coding: an encode picture, a hold picture, or a decoded access unit's reconstruction. -/
structure Pic where
  idx : Nat
  /-- RTP time stamp (R374). -/
  ts : Nat
  /-- 0 random access, 1 P, 2 B, 3 hold (R138). -/
  ptype : Nat
  layer : Nat
  /-- Order of coding within the channel. -/
  order : Nat
  /-- An encode job of the picture was issued: it keeps its type (R99); a forcing cause was among its causes. -/
  decided : Bool
  forced : Bool
  /-- It is coded as a random-access picture (R98). -/
  due : Bool
  still : Bool
  gen : Nat
  /-- Orders of the pictures it refers to. -/
  refs : List Nat
  /-- First source picture of the mini-GOP it was taken with, and the leader's last random-access picture before that (R97, R98). -/
  gop : Nat
  prevRap : Option Nat
  /-- Pictures of its mini-GOP, or 1 (R238). -/
  unit : Nat
  /-- The first row that must be coded at level 2 (R162). -/
  level2From : Option Nat
  /-- Rate control began (R120, R124): overhead, P, nominal budget, instalments charged, hard cap, B_start. -/
  rcStarted : Bool
  rcDone : Bool
  overhead : Nat
  budget : Nat
  nominal : Nat
  instal : Nat
  cap : Nat
  capClip : Bool
  bStart : Nat
  filler : Nat
  /-- It is coded as a hidden frame; a delimiter precedes it (R104, R106); its headers, from its first encode job on. -/
  hidden : Bool := false
  delimiter : Bool := true
  /-- Other pictures refer to it (R97). -/
  isRef : Bool := true
  /-- Hidden frames shown right after it, by source index (R104); CHN_ENC_TOOLS as the picture latched it (R112). -/
  shows : List Nat := []
  /-- Time stamps of the temporal unit it belongs to and of those that show hidden frames after it (R372, R373). -/
  tuTs : List Nat := []
  tools : Word := 0
  hdr : Option PicHdr := none
  slices : List Slice
  deriving DecidableEq, Repr

/-- A picture given to a channel to code: source index, type and layer, place in the coding order, mini-GOP with its length, the leader's
last random-access picture before it, why it is random access, and the orders it refers to. -/
structure Take where
  idx : Nat
  ptype : Nat
  layer : Nat
  order : Nat
  gop : Nat
  unit : Nat
  prevRap : Option Nat
  due : Bool
  forced : Bool
  still : Bool
  refs : List Nat
  hidden : Bool := false
  delimiter : Bool := true
  shows : List Nat := []
  isRef : Bool := true
  /-- The picture, by source index, with which the temporal unit of a hidden frame ends. -/
  shown : Option Nat := none
  deriving DecidableEq, Repr

/-- The rate-control context of a channel (R120 to R139). -/
structure Rc where
  /-- Occupancy B in bytes, and the fractions of a byte carried for the drain and for the nominal budget, over the picture
  rate's numerator (R120, R124). -/
  occ : Nat
  drainFrac : Nat
  nomFrac : Nat
  /-- Buffer size and drain rate in force since the last random-access picture (R121). -/
  bmax : Nat
  drainRate : Nat
  /-- Instalments due at each of the next pictures (R132). -/
  debt : List Nat
  /-- The model in force (R126, R137): M_P, M_I, layer weights; and the committed set that waits, with its sequence number. -/
  mP : Nat
  mI : Nat
  bw : Nat
  staged : Option (Nat × Nat × Nat × Nat)
  /-- The fit of the picture at which a scene change was found, for the next picture (R135). -/
  sceneFit : Option Nat
  /-- Row complexities of the previous picture, picture complexities of the last 32 pictures, nearest first (R124). -/
  prevCost : List (Nat × Nat)
  history : List Nat
  /-- Quantiser of the first row of the last picture of each type (R127). -/
  lastQ : List (Nat × Nat)
  /-- Pictures begun since the model last changed, the first that uses it included (R137). -/
  age : Nat
  deriving DecidableEq, Repr

/-- A 188-byte MPEG-TS packet (R148): PID, continuity counter and whether it counts, transport_error_indicator, whether a PES packet starts
in it, with its PTS and the stream bytes it has where it gives them, and the stream bytes in this packet. -/
structure TsPkt where
  pid : Nat
  cc : Nat
  counts : Bool
  err : Bool
  start : Bool
  pts : Nat
  total : Option Nat
  bytes : Nat
  deriving DecidableEq, Repr

/-- A packet in a jitter buffer (R149). -/
structure JbPkt where
  seq : Nat
  ts : Nat
  marker : Bool
  payload : List Byte
  arrival : Nat
  /-- The wait for a missing packet that held when it arrived, in ms. -/
  wait : Nat
  deriving DecidableEq, Repr

/-- An access unit released from the jitter buffer. -/
structure Au where
  /-- Its number since OPEN. -/
  idx : Nat
  ts : Nat
  bytes : Nat
  pkts : Nat
  readyAt : Nat
  gapBefore : Bool
  /-- The syntax-ring claim was granted and the entropy job made; the frames begun; the syntax committed; the entropy job ended. -/
  queued : Bool
  frames : Nat
  syn : Nat
  whole : Bool
  deriving DecidableEq, Repr

/-- A picture of a decode channel, from its headers to its last use (R150). -/
structure DecPic where
  poc : Int
  /-- Its access unit, and its place among the unit's frames. -/
  idx : Nat
  frame : Nat
  ts : Nat
  info : AuInfo
  gap : Bool
  /-- Its frame store, once a reconstruct job was issued; its reconstruction is complete. -/
  store : Option Nat
  ready : Bool
  isRef : Bool
  /-- Still to be output; claimed a host output store at issue (R150). -/
  toOut : Bool
  claimed : Bool
  /-- Outputs that follow the one in progress: AV1 frames shown again (R152). -/
  again : Nat
  /-- The copy to the leader that the surface link feeds was begun, with the leader's source index; it is still to be finished. -/
  linkIdx : Option Nat
  linkWait : Bool
  /-- Lines of it in place from the top; those copied to its host output store (R274). -/
  lines : Nat
  outLines : Nat := 0
  deriving DecidableEq, Repr

/-- The damage at which a decode channel stops once the units before it are done (R157): unit number, code, AUX, POS word
without POC_VALID, and the order count where it is the picture's own. -/
structure Stop where
  au : Nat
  code : Nat
  aux : Nat
  ctu : Nat
  frameNum : Bool
  poc : Option Int
  deriving DecidableEq, Repr

/-- The state of a decode channel (R147 to R158). -/
structure Dec where
  jb : List JbPkt
  /-- The next RTP sequence number to release, none before the first packet. -/
  nextSeq : Option Nat
  /-- Time stamp and marker of the last packet released. -/
  lastTs : Nat
  lastMarker : Bool
  /-- The host byte stream's bytes of the unit being received (R148), and MPEG-TS bytes of the PES packet being received. -/
  part : Nat
  partPkts : Nat
  /-- Arrival and wait of the unit's first packet. -/
  partAt : Nat
  partWait : Nat
  /-- When the last of the packets taken so far had arrived (R149, R238). -/
  partDone : Nat := 0
  /-- A fragmented NAL unit or OBU goes on in the next packet (R148). -/
  frag : Bool
  tsCc : Option Nat
  tsCount : Nat
  tsTs : Nat
  /-- A PES packet has begun; bytes of it still to come, where its header gives its length. -/
  tsOn : Bool
  tsLeft : Option Nat
  /-- A boundary gap was accepted before the next unit. -/
  gapNext : Bool
  aus : List Au
  nextAu : Nat
  dpb : List DecPic
  /-- Order count of the last picture decoded correctly (R156). -/
  lastPoc : Int
  stop : Option Stop
  /-- Units are discarded until a random-access point is released (R154); decoding started at this unit, and the last
  random-access point is this unit. -/
  skipping : Bool
  rapAu : Nat
  lastRap : Nat
  /-- The pictures released for output and not yet output, in output order: unit and frame. -/
  outQ : List (Nat × Nat)
  /-- Number and bytes of the units released, newest first, from 7 before the oldest still to be decoded (R153). -/
  recent : List (Nat × Nat)
  deriving DecidableEq, Repr

/-- The hold concealment state of an encode leader (R161 to R166). -/
structure Hold where
  /-- The expected time of the next source picture; none while the group has no picture clock. -/
  expected : Option Nat
  misses : Nat
  /-- Deadlines to come of pictures stored or dropped already, with the picture's index. -/
  dues : List (Nat × Nat × Due)
  /-- HOLDING starts at the next deadline (R163), with this cause. -/
  enterNext : Option Nat
  since : Nat
  stillDue : Bool
  stillDone : Bool
  /-- The address latched for the still picture. -/
  stillAddr : Nat
  deriving DecidableEq, Repr

/-- Coded bytes of a slice or hold picture on their way to the sinks (R185, R372, R401). -/
structure SliceOut where
  pic : Nat
  slice : Nat
  bytes : List Byte
  /-- The headers of the picture, in its first slice. -/
  hdr : Option PicHdr
  /-- The slice is complete, with its status word; a picture ends with it. -/
  ended : Bool
  last : Bool
  status : Nat
  /-- Bytes taken by the packetiser, and by the host ring: there one more once the last descriptor is written back. -/
  toNet : Nat
  toHost : Nat
  rap : Bool
  ts : Nat
  /-- Of its picture: coded hidden; a temporal delimiter precedes it; the time stamps of its temporal units (R104). -/
  hidden : Bool := false
  delimiter : Bool := true
  tuTs : List Nat := []
  deriving DecidableEq, Repr

/-- An SLC buffer a channel holds (R371, R401): the picture and slice whose coded bytes it has, its owner group and its address. -/
structure SlcBuf where
  pic : Nat
  slice : Nat
  group : Nat
  addr : Nat
  deriving DecidableEq, Repr

/-- One packet of a channel's retransmission window (R377). -/
structure WinPkt where
  seq : Nat
  group : Nat
  buf : Nat
  size : Nat
  sentAt : Nat
  /-- The RTP packet, and whether the switch has taken it. -/
  bytes : List Byte
  taken : Bool
  /-- Replication entries answered, with the time of the last answer, for the hold-off (R378). -/
  answered : List (Nat × Nat)
  deriving DecidableEq, Repr

/-- A claim on the syntax ring (R188): picture and slice, or access unit; where it starts, in bytes since OPEN, and its length;
and the chunks of it given back before the rest. -/
structure Claim where
  pic : Nat
  slice : Nat
  start : Nat
  len : Nat
  gone : List Nat := []
  deriving DecidableEq, Repr

/-- The state of a channel that is not a register of its page. -/
structure Chan where
  /-- The posted command BUSY stands for, and whether it waits for FRZ to return to 0 or for READY (R55, R56). -/
  posted : Option ChOp
  /-- The capacity reservation of R49, and whether it is a live one (R63); HBM address of its frame stores and their size; the source held
  (R45). -/
  reserved : Bool
  resLive : Bool
  memory : Option (Nat × Nat)
  synChunks : Nat
  /-- SYN chunks held from CONFIGURE to CLOSE: group and pointer (R365). -/
  syn : List (Nat × Nat)
  /-- Buffers reserved for the channel in the minima of its groups: pool, group, number (R365, R375). -/
  needs : List (Nat × Nat × Nat)
  held : SrcHold
  /-- Source pictures in the frame stores, the index of the next picture time, and the index of the picture being stored. -/
  src : List SrcPic
  nextIdx : Nat
  storing : Option Nat
  /-- The picture being received found no free store and is dropped (R85). -/
  dropping : Bool
  /-- The first source picture the channel codes: the first that begins after its change to RUNNING (R50), in a group with hierarchical B
  pictures the random-access picture a member waits for (R48). -/
  startIdx : Nat
  /-- The next extended RTP sequence number the ingest unpacker expects (R376). -/
  ingSeq : Option Nat
  /-- Pictures whose analysis is complete, last one's index (R86). -/
  lastRap : Option Nat
  coded : Bool
  force : Bool
  pics : List Pic
  /-- Indices of coded pictures that can be referred to, nearest first. -/
  refs : List Nat
  /-- Source index of the last pictures that can be referred to, by order. -/
  refIdx : List (Nat × Nat)
  nextOrder : Nat
  /-- The syntax ring: claims that some consumer has not finished with, and where the next one starts (R188). -/
  claims : List Claim
  ringHead : Nat
  rc : Rc
  dec : Dec
  hold : Hold
  out : List SliceOut
  /-- The packetiser: sequence numbers of media and retransmission, continuity counters, the retransmission window. -/
  pktSeq : Nat
  rtxSeq : Nat
  ccs : List (Nat × Nat)
  /-- Audio TS packets queued (R373): PID and payload bytes. -/
  audio : List (Nat × List Byte)
  /-- Device time at which the tables were last sent (R373), none before the first. -/
  psiAt : Option Nat
  /-- When the last PCR was sent (R373). -/
  pcrAt : Option Nat
  window : List WinPkt
  /-- SLC buffers held, those of a slice in byte order; jitter buffers held: group and pointer. -/
  slc : List SlcBuf
  jbBufs : List (Nat × Nat)
  /-- Reference frame stores held: picture order and store number. -/
  stores : List (Nat × Nat)
  /-- Scaled source stores held, likewise (R115); source pictures whose analysis pictures the stores hold (R86). -/
  scaled : List (Nat × Nat) := []
  anaPics : List Nat := []
  deriving DecidableEq, Repr

/-- An entropy job: an encode slice, a hold picture, or a decode access unit (R184). -/
structure EntJob where
  chn : Nat
  pic : Nat
  slice : Nat
  live : Bool
  deadline : Nat
  seq : Nat
  hold : Bool
  decode : Bool
  /-- Coded bytes produced so far in this attempt, and syntax bytes read (R185, R195). -/
  made : Nat
  read : Nat
  /-- It ran dry and waits for more syntax (R185); failed attempts of its slice by then (R197). -/
  dry : Bool
  tries : Nat
  /-- It has run (R183). -/
  begun : Bool := false
  deriving DecidableEq, Repr

/-- What is on its way out of an entropy engine (R189): coded bytes of a slice, or the syntax of a segment of a decode access unit, with its
frame and what that one's headers say. -/
structure Staged where
  chn : Nat
  pic : Nat
  slice : Nat
  bytes : List Byte
  seg : Option (Nat × AuInfo × Segment) := none
  deriving DecidableEq, Repr

/-- The state of an entropy engine. -/
structure Ene where
  queue : List EntJob
  running : Option EntJob
  /-- Suspended slices, at most 16 (R184, R185). -/
  suspended : List EntJob
  /-- The staging queues (R189): entries of 256 bits in the input queue, of the running slice only; what waits in the output queue. -/
  inq : Nat
  outq : List Staged
  /-- The control store: words of 48 bits by address (R191). -/
  ucode : List (Nat × Nat)
  /-- Channels with a pending move to this engine (R183). -/
  moves : List Nat
  deriving DecidableEq, Repr

/-- A control-store bank of a pixel engine (R209): the length it was loaded with, and its 8,192 words by address; validity and generation
are in the page. -/
structure UcBank where
  len : Nat
  words : List (Nat × Nat)
  deriving DecidableEq, Repr

/-- A pixel job (R235). -/
structure Job where
  chn : Nat
  stage : Nat
  pic : Nat
  slice : Nat
  live : Bool
  deadline : Nat
  gen : Nat
  attempts : Nat
  excluded : List Nat
  estimate : Nat
  /-- The order in which it entered the table. -/
  seq : Nat
  /-- The order in which its fault was taken, for a reissue that waits (R244). -/
  reissue : Option Nat
  engine : Option Nat
  /-- The coefficient set a scale job was issued with (R114). -/
  filter : Nat := 0
  /-- The order in which it became ready (R236), none before. -/
  ready : Option Nat := none
  deriving DecidableEq, Repr

/-- A step of an operating-point change (R221). -/
inductive OppStep where
  | voltage (vset : Nat)
  | frequency (freq : Nat)
  deriving DecidableEq, Repr

/-- The operation a pixel engine carries out outside jobs (R213, R219, R221). -/
inductive PxeOp where
  | none
  | load (bank : Nat)
  | check (bank : Nat)
  | selftest
  deriving DecidableEq, Repr

/-- A line of a reference cache (R206): a block of a picture, and its samples.  A picture is known by its order of coding, or its access unit
and frame. -/
structure RefLine where
  chn : Nat
  pic : Nat × Nat
  chroma : Bool
  bx : Nat
  byy : Nat
  samples : List Nat
  deriving DecidableEq, Repr

/-- The state of a pixel engine that is not a register of its page. -/
structure Pxe where
  bank0 : UcBank
  bank1 : UcBank
  /-- The word of the bank at which the last job or self-test started (R207, R219). -/
  entry : Nat
  op : PxeOp
  /-- QUAR was written during a job (R218). -/
  quarAfter : Bool
  /-- An operating point latched and waiting for an Antler measurement to end (R221): VSET, FREQ. -/
  oppWaits : Option (Nat × Nat)
  /-- The change being applied: its steps, in order. -/
  oppSteps : List OppStep
  /-- PXE_FLT_INFO may take the next job fault (R232). -/
  infoFree : Bool
  /-- A fault came during the self-test (R219). -/
  stFault : Bool
  /-- The lines of the reference cache, 4 in each of 192 sets (R206). -/
  cache : List RefLine := []
  deriving DecidableEq, Repr

/-- The state of the dispatcher. -/
structure Wdp where
  jobs : List Job
  seq : Nat
  /-- Credit of each scheduled channel in pc (R242). -/
  credit : List (Nat × Int)
  /-- A dispatch round is in progress (R242). -/
  round : Bool
  visit : Nat
  lastIssuer : Nat
  /-- Engine that committed the last job of a stage of a channel, keyed 8 * channel + stage (R237). -/
  warm : List (Nat × Nat)
  deriving DecidableEq, Repr

def Rc.reset : Rc :=
  { occ := 0, drainFrac := 0, nomFrac := 0, bmax := 0, drainRate := 0, debt := [], mP := 0, mI := 0, bw := 0, staged := none
    sceneFit := none, prevCost := [], history := [], lastQ := [], age := 0 }

def Dec.reset : Dec :=
  { jb := [], nextSeq := none, lastTs := 0, lastMarker := false, part := 0, partPkts := 0, partAt := 0, partWait := 0, frag := false, tsCc := none, tsCount := 0, tsTs := 0, tsOn := false, tsLeft := none, gapNext := false, aus := []
    nextAu := 0, dpb := [], lastPoc := 0, stop := none, skipping := true, rapAu := 0, lastRap := 0, outQ := [], recent := [] }

def Hold.reset : Hold :=
  { expected := none, misses := 0, dues := [], enterNext := none, since := 0, stillDue := false, stillDone := false, stillAddr := 0 }

/-- A channel at reset: nothing allocated, nothing in progress. -/
def Chan.reset : Chan :=
  { posted := none, reserved := false, resLive := false, memory := none, synChunks := 0, syn := [], needs := [], held := .none, src := [], nextIdx := 0
    storing := none, dropping := false, startIdx := 0, ingSeq := none, lastRap := none, coded := false, force := false, pics := [], refs := [], refIdx := []
    nextOrder := 0, claims := [], ringHead := 0, rc := Rc.reset, dec := Dec.reset, hold := Hold.reset, out := [], pktSeq := 0, rtxSeq := 0
    ccs := [], audio := [], psiAt := none, pcrAt := none, window := [], slc := [], jbBufs := [], stores := [] }

def Ene.reset : Ene := { queue := [], running := none, suspended := [], inq := 0, outq := [], ucode := [], moves := [] }

/-- The words read 0 before anything is loaded (DESIGN CHOICE, log entry 215: R230 gives no contents). -/
def UcBank.reset : UcBank := { len := 0, words := [] }

def Pxe.reset : Pxe :=
  { bank0 := UcBank.reset, bank1 := UcBank.reset, entry := 0, op := .none, quarAfter := false, oppWaits := none, oppSteps := []
    infoFree := true, stFault := false }

def Wdp.reset : Wdp := { jobs := [], seq := 0, credit := [], round := false, visit := 0, lastIssuer := 255, warm := [] }

end Sys2Proof.Machine
end

