-- ==== Sys2Proof/Machine/Dev.lean ====
section
/-!
DEFINITION. The state of the device but for its memories, its clock and the queue of commands: the registers of WIN0 under
their keys, what the pages hold beside them, what has left the device, and the state of each block.
-/

namespace Sys2Proof.Machine

/-- What leaves the device: messages, frames, writes into host memory, answers and pin levels. -/
inductive Output where
  /-- An MSI-X message: vector, address and data of its table entry (R410, R424). -/
  | msix (vector address data : Nat)
  /-- A frame handed to the MAC's transmitter, without its FCS; the FCS is inverted where `badFcs` holds (R358). -/
  | frame (port : Nat) (bytes : List Byte) (badFcs : Bool)
  /-- A PAUSE or PFC frame: port, quanta, and the PFC priorities it names, 0 for PAUSE (R354). -/
  | pause (port quanta prios : Nat)
  /-- A posted write into host memory. -/
  | hostWrite (addr : Nat) (bytes : List Byte)
  /-- The fault signalling of a port towards its partner begins or ends (R316). -/
  | lineFault (port : Nat) (on : Bool)
  /-- A read request into host memory. -/
  | hostRead (addr len : Nat)
  /-- Data of a completed read of WIN0, WIN2 or WIN4; poisoned data carries EP. -/
  | readData (bytes : List Byte) (poisoned : Bool)
  /-- PCIe messages: LTR, an L1 request, an Unsupported Request completion, an AER correctable message. -/
  | ltr (snoop nosnoop : Nat)
  | l1Request
  | unsupported
  | aer
  /-- Levels driven on pins. -/
  | faultN (low : Bool)
  | ppsOut (high : Bool)
  | balls (bits : List Bool)
  /-- A PMBus transaction: operation (R480), target, command code, data, PEC. -/
  | pmbus (op addr code data : Nat) (pec : Bool)
  /-- A requester's write entered a bank queue (R288); data of a read, or the old value of an atomic access, as good, poisoned or failed (R291,
  R299). -/
  | hbmAck (req addr : Nat)
  | hbmData (req addr : Nat) (bytes : List Byte) (poisoned failed : Bool)
  /-- A bus error exception of a Herd core, or of the security core, 4 (R292, R436). -/
  | busError (core : Nat)
  /-- The answer to a requester of a buffer: status, and the pointer where it is 0 (R364, R365). -/
  | bpmResult (status addr : Nat)
  /-- A byte on the console UART. -/
  | uart (byte : Byte)
  deriving DecidableEq, Repr

/-- A memory of the device. -/
inductive MemId where
  | hbm | sram | nor
  deriving DecidableEq, Repr

/-- A write posted to a memory by the command in progress. -/
inductive MemOp where
  | bytes (m : MemId) (addr : Nat) (data : List Byte)
  | clear (m : MemId) (addr len : Nat)
  deriving DecidableEq, Repr

/-- The PCIe endpoint beyond its page: MSI-X table and pending bits (R392, R410), function mask. -/
structure Pci where
  /-- Words of the MSI-X table by word number: address low, address high, data, vector control. -/
  msixTable : List (Nat × Nat)
  /-- Vectors with their pending bit set. -/
  pba : List Nat
  funcMask : Bool
  deriving DecidableEq, Repr

/-- A word of the MSI-X table at reset: vector control masks the vector, the other words are 0. -/
def msixReset (k : Nat) : Nat := if k % 4 = 3 then 1 else 0

/-- The free store of a buffer pool (R363): the on-chip cache of indices; the ring, head first, as runs of rising indices (first, length); the
buffers lost until device reset; and whether an INIT is in progress. -/
structure Pool where
  cache : List Nat
  ring : List (Nat × Nat)
  lost : List Nat
  initialising : Bool
  deriving DecidableEq, Repr

def Pool.reset : Pool := { cache := [], ring := [], lost := [], initialising := false }

/-- A request to the buffer pools that waits while the block is disabled or frozen (R368). -/
inductive BpmReq where
  | alloc (pool group : Nat)
  | allocReq (pool group : Nat)
  | free (req pool group addr : Nat)
  deriving DecidableEq, Repr

/-- A manifest entry: generation, length in words, SHA-384 digest (R212). -/
structure ManEntry where
  gen : Nat
  len : Nat
  digest : List Byte
  deriving DecidableEq, Repr

/-- The device. -/
structure Dev where
  /-- Register words by key (Machine/Regs.lean): the value in force. -/
  regs : List (Nat × Word)
  /-- Pending -W writes by key: mask of the bits written, and the bits (R29). -/
  wpend : List (Nat × (Word × Word))
  /-- Live writes that wait for a stopped clock, by key: mask of the bits written, the bits, and the W1C bits to clear (R28). -/
  liveHeld : List (Nat × (Word × Word × Word))
  /-- The latched high word of a 64-bit register whose low word was read, and held low words, by key (R34). -/
  readHeld : List (Nat × Word)
  lowHeld : List (Nat × Word)
  /-- Free values used so far (the model's own field). -/
  free : Nat
  /-- What has left the device, newest first. -/
  out : List Output
  /-- Memory writes of the command in progress, oldest first; empty between commands. -/
  posted : List MemOp
  chans : List (Nat × Chan)
  enes : List (Nat × Ene)
  pxes : List (Nat × Pxe)
  wdp : Wdp
  /-- Entropy jobs of channels that no engine is bound to (R197). -/
  unbound : List EntJob
  pci : Pci
  /-- The manifests: entries of pixel-engine microcode and of parse programs (R212, R326). -/
  pxeMan : List ManEntry
  pseMan : List ManEntry
  pools : List (Nat × Pool)
  bpmWaits : List BpmReq
  /-- HBM channels, and the 8-byte words of HBM whose check bits decode as uncorrectable, by address in rising order (R291). -/
  hbcs : List (Nat × Hbc)
  poison : List Nat
  net : Net
  dma : Dma
  herd : Herd
  wdgs : List (Nat × Wdt)
  bgs : Bgs
  /-- Clock domains, and those whose Antler measurement waits for a change of the operating point (R475). -/
  clks : List (Nat × Clk)
  antWaits : List Nat
  sec : Sec
  deriving DecidableEq, Repr

end Sys2Proof.Machine
end

