-- ==== Sys2Proof/Machine/Bits.lean ====
section
/-!
DEFINITION. Bit fields of register words, signed readings, little-endian byte order, and the sparse stores in which
the state keeps everything that is indexed by a number (registers, memory bytes, channels, queues).
A store lists (key, value) pairs with keys strictly rising and no value equal to what an unlisted key reads as, so
that equal stores are equal data.
-/

namespace Sys2Proof.Machine

/-- The `width` bits of `w` from bit `lsb` upwards, as a number. -/
def bitsOf (w : Word) (lsb width : Nat) : Nat := w.toNat / 2 ^ lsb % 2 ^ width

/-- `w` with its `width` bits from bit `lsb` upwards replaced by `v` (modulo 2^width). -/
def bitsPut (w : Word) (lsb width v : Nat) : Word :=
  BitVec.ofNat 32 (w.toNat - bitsOf w lsb width * 2 ^ lsb + v % 2 ^ width * 2 ^ lsb)

/-- Bit `k` of a number. -/
def bitAt (v k : Nat) : Bool := v / 2 ^ k % 2 == 1

/-- The mask with bits `hi` down to `lo` set. -/
def maskOf (hi lo : Nat) : Word := BitVec.ofNat 32 ((2 ^ (hi + 1 - lo) - 1) * 2 ^ lo)

/-- A Boolean as a one-bit field value. -/
def ofBool (b : Bool) : Nat := if b then 1 else 0

/-- The `n`-bit number `v` read as two's complement. -/
def signedOf (n v : Nat) : Int := if v % 2 ^ n < 2 ^ (n - 1) then (v % 2 ^ n : Nat) else ((v % 2 ^ n : Nat) : Int) - (2 ^ n : Nat)

/-- An integer as an `n`-bit two's complement number. -/
def toSigned (n : Nat) (v : Int) : Nat := (v % ((2 ^ n : Nat) : Int)).toNat

/-- Ceiling division; 0 where the divisor is 0. -/
def cdiv (a b : Nat) : Nat := if b = 0 then 0 else (a + b - 1) / b

/-- `v` held between `lo` and `hi`. -/
def clampNat (lo hi v : Nat) : Nat := min hi (max lo v)

/-- `v` held between `lo` and `hi`, on integers. -/
def clampInt (lo hi v : Int) : Int := min hi (max lo v)

/-- Bytes, least significant first, as a number. -/
def leNat : List Byte → Nat
  | [] => 0
  | b :: bs => b.toNat + 256 * leNat bs

/-- A number as `n` bytes, least significant first. -/
def natLE : Nat → Nat → List Byte
  | 0, _ => []
  | n + 1, v => BitVec.ofNat 8 v :: natLE n (v / 256)

/-- Bytes, most significant first, as a number. -/
def beNat (bs : List Byte) : Nat := leNat bs.reverse

/-- A number as `n` bytes, most significant first. -/
def natBE (n v : Nat) : List Byte := (natLE n v).reverse

/-- `n` bytes of a list, from the one at `a` on. -/
def slice (bs : List Byte) (a n : Nat) : List Byte := (bs.drop a).take n

/-- What a store lists at key `k`. -/
def storeFind {α : Type} (m : List (Nat × α)) (k : Nat) : Option α :=
  match m with
  | [] => none
  | (j, v) :: r => if j = k then some v else storeFind r k

/-- The value of a store at key `k`, `d k` where it lists none. -/
def storeGet {α : Type} (d : Nat → α) (m : List (Nat × α)) (k : Nat) : α := (storeFind m k).getD (d k)

/-- A store with key `k` listed with value `v`. -/
def storeIns {α : Type} (k : Nat) (v : α) : List (Nat × α) → List (Nat × α)
  | [] => [(k, v)]
  | (j, x) :: r => if k < j then (k, v) :: (j, x) :: r else if k = j then (k, v) :: r else (j, x) :: storeIns k v r

/-- A store with key `k` unlisted. -/
def storeDel {α : Type} (k : Nat) (m : List (Nat × α)) : List (Nat × α) := m.filter (fun e => e.1 != k)

/-- The store after writing `v` at key `k`: a value equal to the default unlists the key. -/
def storeSet {α : Type} [DecidableEq α] (d : Nat → α) (m : List (Nat × α)) (k : Nat) (v : α) : List (Nat × α) :=
  if v = d k then storeDel k m else storeIns k v m

/-- The canonical form: keys strictly rising, no listed value equal to the default of its key. -/
abbrev storeWf {α : Type} (d : Nat → α) (m : List (Nat × α)) : Prop :=
  m.Pairwise (fun a b => a.1 < b.1) ∧ ∀ e ∈ m, e.2 ≠ d e.1

/-- The store without the keys that satisfy `p`: they read as their defaults again. -/
def storeDrop {α : Type} (p : Nat → Bool) (m : List (Nat × α)) : List (Nat × α) := m.filter (fun e => !p e.1)

/-- A named field of a register: the WIN0 address of its word in the block's first page, its lowest bit and its width.
`wide` marks a field that runs from the low word of a 64-bit register into the high word. -/
structure Field where
  base : Nat
  lsb : Nat
  width : Nat
  wide : Bool
  deriving DecidableEq, Repr

/-- The kinds of register page of R19: one for each block, and one for each page of a block whose pages differ. -/
inductive Pg where
  | GLB | CHN | RCT | ENE | PXE | WDP | HMC | ARB | ETH | PSEC | PSE | CLS0 | CLS1 | CLS2 | CLS3 | SWC | BPM | EGS
  | DMA | PCI | INT0 | INT1 | INT2 | INT3 | HCCC | HCC | FLT0 | FLT1 | WDG | BGS | ANT | CLK | SEC
  deriving DecidableEq, Repr

/-- The access code and qualifier of a writable field, with its highest and lowest bit (R27 to R31).  `own` marks a
field that a row of its own in the table of operations writes. -/
inductive FieldAcc where
  | rwL (hi lo : Nat)
  | rwW (hi lo : Nat)
  | rwI (hi lo : Nat)
  | w1c (hi lo : Nat)
  | own (hi lo : Nat)
  deriving DecidableEq, Repr

/-- Whether a register is one word, or the low or high word of a 64-bit register (R34). -/
inductive Half where
  | single | low | high
  deriving DecidableEq, Repr

/-- The select register through which a register is addressed, if any. -/
inductive Bank where
  | none | arbreqsel | arbslotsel | bgscalsel | bpmmapsel | bpmpoolsel | egsingsel | egsqsel | egssrcsel | fltsrcsel
  | grp | intsrcsel | rctctxsel | swcoutsel | swcportsel | wdpchnsel
  deriving DecidableEq, Repr

/-- One register, or an array of `count` registers `stride` bytes apart, of a page kind. -/
structure RegDesc where
  off : Nat
  count : Nat
  stride : Nat
  half : Half
  bank : Bank
  /-- The one instance whose page has the register, where not every page of the block has it. -/
  only : Option Nat
  reset : Nat
  fields : List FieldAcc
  deriving DecidableEq, Repr

/-- The sum of `f` over a list. -/
def sumBy {α : Type} (l : List α) (f : α → Nat) : Nat := (l.map f).sum

end Sys2Proof.Machine
end

