-- ==== Sys2Proof/Machine/Fields.lean ====
section
/-!
DEFINITION. The named register fields of the WIN0 pages, with the offsets and bit places the field tables of spec/
give them (the rule of each register stands before its fields).  A field of a page with several instances names
instance 0; the accessors add 0x1000 for each further instance (R19).  A register array takes its index.
-/

namespace Sys2Proof.Machine

/-! GLB page, base 0x0, 1 page(s). -/

-- R40
def GLB_DEV_ID.DEVICE : Field := ⟨0x40, 16, 16, false⟩
def GLB_DEV_ID.FAMILY : Field := ⟨0x40, 8, 8, false⟩
def GLB_DEV_ID.REV : Field := ⟨0x40, 0, 8, false⟩
-- R40
def GLB_HW_TYPE.VALUE : Field := ⟨0x44, 0, 32, false⟩
-- R39
def GLB_UNIT_ID.WORD (k : Nat) : Field := ⟨0x48 + 4 * k, 0, 32, false⟩
-- R41
def GLB_STRAP.RSVD_STRAP : Field := ⟨0x58, 2, 2, false⟩
def GLB_STRAP.SD_RECOVERY : Field := ⟨0x58, 1, 1, false⟩
def GLB_STRAP.PCIE_X8 : Field := ⟨0x58, 0, 1, false⟩
-- R39
def GLB_TIME.TIME : Field := ⟨0x60, 0, 64, true⟩
-- R42
def GLB_TIME_INC.INC : Field := ⟨0x68, 0, 32, false⟩
-- R39
def GLB_TIME_SET.SET : Field := ⟨0x70, 0, 64, true⟩
-- R42
def GLB_TIME_CMD.STEP : Field := ⟨0x78, 1, 1, false⟩
def GLB_TIME_CMD.LOAD : Field := ⟨0x78, 0, 1, false⟩
-- R42
def GLB_ACC_STS.PARTIAL : Field := ⟨0x80, 1, 1, false⟩
def GLB_ACC_STS.HOLE : Field := ⟨0x80, 0, 1, false⟩
-- R42
def GLB_ACC_ADDR.OFFSET : Field := ⟨0x84, 0, 32, false⟩

/-! CHN page, base 0x400000, 256 page(s). -/

def CHN_EVT.CMD_DONE : Field := ⟨0x400010, 0, 1, false⟩
def CHN_EVT.STATE_CHG : Field := ⟨0x400010, 1, 1, false⟩
def CHN_EVT.DRAINED : Field := ⟨0x400010, 2, 1, false⟩
def CHN_EVT.STOPPED : Field := ⟨0x400010, 3, 1, false⟩
def CHN_EVT.HOLD_ENTER : Field := ⟨0x400010, 4, 1, false⟩
def CHN_EVT.HOLD_EXIT : Field := ⟨0x400010, 5, 1, false⟩
def CHN_EVT.IRAP_FORCED : Field := ⟨0x400010, 6, 1, false⟩
def CHN_EVT.RESYNC : Field := ⟨0x400010, 7, 1, false⟩
def CHN_EVT.LATE : Field := ⟨0x400010, 8, 1, false⟩
def CHN_EVT.REISSUED : Field := ⟨0x400010, 9, 1, false⟩
def CHN_EVT.STARVED : Field := ⟨0x400010, 10, 1, false⟩

-- R70
def CHN_CMD.OP : Field := ⟨0x400040, 0, 3, false⟩
-- R71
def CHN_CMD_STS.DETAIL : Field := ⟨0x400044, 8, 12, false⟩
def CHN_CMD_STS.RESULT : Field := ⟨0x400044, 4, 4, false⟩
def CHN_CMD_STS.REJECT : Field := ⟨0x400044, 3, 1, false⟩
def CHN_CMD_STS.BUSY : Field := ⟨0x400044, 0, 1, false⟩
-- R72
def CHN_STATE.STALE : Field := ⟨0x400048, 16, 1, false⟩
def CHN_STATE.ERR : Field := ⟨0x400048, 8, 8, false⟩
def CHN_STATE.STATE : Field := ⟨0x400048, 0, 3, false⟩
-- R73
def CHN_MODE.PRESET : Field := ⟨0x40004c, 5, 1, false⟩
def CHN_MODE.CODEC : Field := ⟨0x40004c, 2, 3, false⟩
def CHN_MODE.CLASS : Field := ⟨0x40004c, 1, 1, false⟩
def CHN_MODE.KIND : Field := ⟨0x40004c, 0, 1, false⟩
-- R74
def CHN_SRC.IDX : Field := ⟨0x400050, 8, 8, false⟩
def CHN_SRC.KIND : Field := ⟨0x400050, 0, 3, false⟩
-- R75
def CHN_SINK.SURFACE : Field := ⟨0x400054, 2, 1, false⟩
def CHN_SINK.HOST : Field := ⟨0x400054, 1, 1, false⟩
def CHN_SINK.EGRESS : Field := ⟨0x400054, 0, 1, false⟩
-- R76
def CHN_GROUP.DIV : Field := ⟨0x400058, 8, 4, false⟩
def CHN_GROUP.LEADER : Field := ⟨0x400058, 0, 8, false⟩
-- R77
def CHN_PIC_SIZE.HEIGHT : Field := ⟨0x40005c, 16, 16, false⟩
def CHN_PIC_SIZE.WIDTH : Field := ⟨0x40005c, 0, 16, false⟩
-- R78
def CHN_FRATE.NUM : Field := ⟨0x400060, 16, 16, false⟩
def CHN_FRATE.DEN : Field := ⟨0x400060, 0, 16, false⟩
-- R79
def CHN_FORMAT.CHROMA : Field := ⟨0x400064, 1, 1, false⟩
def CHN_FORMAT.DEPTH : Field := ⟨0x400064, 0, 1, false⟩
-- R80
def CHN_DEC_LIMITS.REFS : Field := ⟨0x400068, 24, 4, false⟩
def CHN_DEC_LIMITS.PEAK : Field := ⟨0x400068, 0, 20, false⟩
-- R81
def CHN_SCHED_WEIGHT.WEIGHT : Field := ⟨0x40006c, 0, 8, false⟩
-- R82
def CHN_COST_PC.COST : Field := ⟨0x400070, 0, 32, false⟩
-- R82
def CHN_COST_EC.COST : Field := ⟨0x400074, 0, 32, false⟩
-- R82
def CHN_COST_HBM.COST : Field := ⟨0x400078, 0, 32, false⟩
-- R205
def CHN_ENE_BIND.VALID : Field := ⟨0x40007c, 31, 1, false⟩
def CHN_ENE_BIND.MOVES : Field := ⟨0x40007c, 16, 8, false⟩
def CHN_ENE_BIND.ENE : Field := ⟨0x40007c, 0, 5, false⟩
-- R109
def CHN_ENC_STRUCT.PAR : Field := ⟨0x400080, 16, 4, false⟩
def CHN_ENC_STRUCT.SLICE_ROWS : Field := ⟨0x400080, 4, 8, false⟩
def CHN_ENC_STRUCT.CTU : Field := ⟨0x400080, 0, 1, false⟩
-- R110
def CHN_ENC_GOP.IRAP_LEN : Field := ⟨0x400084, 16, 16, false⟩
def CHN_ENC_GOP.SCENE_IRAP : Field := ⟨0x400084, 5, 1, false⟩
def CHN_ENC_GOP.IRAP_TYPE : Field := ⟨0x400084, 4, 1, false⟩
def CHN_ENC_GOP.BLEN : Field := ⟨0x400084, 2, 2, false⟩
def CHN_ENC_GOP.STRUCT : Field := ⟨0x400084, 0, 2, false⟩
-- R111
def CHN_ENC_REFS.NREF : Field := ⟨0x400088, 0, 3, false⟩
-- R112
def CHN_ENC_TOOLS.TC_OFF : Field := ⟨0x40008c, 20, 4, false⟩
def CHN_ENC_TOOLS.BETA_OFF : Field := ⟨0x40008c, 16, 4, false⟩
def CHN_ENC_TOOLS.AQ : Field := ⟨0x40008c, 8, 4, false⟩
def CHN_ENC_TOOLS.DBK_EN : Field := ⟨0x40008c, 5, 1, false⟩
def CHN_ENC_TOOLS.XSLICE_LF : Field := ⟨0x40008c, 4, 1, false⟩
def CHN_ENC_TOOLS.CDEF_EN : Field := ⟨0x40008c, 3, 1, false⟩
def CHN_ENC_TOOLS.RDOQ_EN : Field := ⟨0x40008c, 2, 1, false⟩
def CHN_ENC_TOOLS.TMVP_EN : Field := ⟨0x40008c, 1, 1, false⟩
def CHN_ENC_TOOLS.SAO_EN : Field := ⟨0x40008c, 0, 1, false⟩
-- R113
def CHN_ENC_COLOUR.FROM_SRC : Field := ⟨0x400090, 31, 1, false⟩
def CHN_ENC_COLOUR.FULL_RANGE : Field := ⟨0x400090, 24, 1, false⟩
def CHN_ENC_COLOUR.MATRIX : Field := ⟨0x400090, 16, 8, false⟩
def CHN_ENC_COLOUR.TRANSFER : Field := ⟨0x400090, 8, 8, false⟩
def CHN_ENC_COLOUR.PRIMARIES : Field := ⟨0x400090, 0, 8, false⟩
-- R114
def CHN_ENC_SCALE.CLOC : Field := ⟨0x400094, 4, 1, false⟩
def CHN_ENC_SCALE.FILTER : Field := ⟨0x400094, 0, 2, false⟩
-- R115
def CHN_ENC_SRC_BUFS.NBUF : Field := ⟨0x400098, 0, 4, false⟩
-- R116
def CHN_ENC_FORCE.IRAP : Field := ⟨0x40009c, 0, 1, false⟩
-- R117
def CHN_ENC_STS.SCENE : Field := ⟨0x4000a0, 18, 1, false⟩
def CHN_ENC_STS.LAST_TYPE : Field := ⟨0x4000a0, 16, 2, false⟩
def CHN_ENC_STS.GOP_POS : Field := ⟨0x4000a0, 0, 16, false⟩
-- R118
def CHN_ENC_LEVEL.TIER : Field := ⟨0x4000a4, 8, 1, false⟩
def CHN_ENC_LEVEL.LEVEL : Field := ⟨0x4000a4, 0, 8, false⟩
-- R119
def CHN_ENC_SRC_LINE.PIC : Field := ⟨0x4000a8, 16, 16, false⟩
def CHN_ENC_SRC_LINE.LINES : Field := ⟨0x4000a8, 0, 16, false⟩
-- R119
def CHN_ENC_SRC_DROP.COUNT : Field := ⟨0x4000ac, 0, 32, false⟩
-- R119
def CHN_ENC_SCENE_CNT.COUNT : Field := ⟨0x4000b0, 0, 32, false⟩
-- R141
def CHN_RC_MODE.IRAP_MULT : Field := ⟨0x400100, 16, 5, false⟩
def CHN_RC_MODE.QSTEP : Field := ⟨0x400100, 8, 4, false⟩
def CHN_RC_MODE.FILL : Field := ⟨0x400100, 4, 1, false⟩
def CHN_RC_MODE.MODE : Field := ⟨0x400100, 0, 2, false⟩
-- R142
def CHN_RC_TARGET.RATE : Field := ⟨0x400104, 0, 20, false⟩
-- R142
def CHN_RC_PEAK.RATE : Field := ⟨0x400108, 0, 20, false⟩
-- R143
def CHN_RC_BUF.INIT_PCT : Field := ⟨0x40010c, 16, 7, false⟩
def CHN_RC_BUF.BUF_MS : Field := ⟨0x40010c, 0, 14, false⟩
-- R144
def CHN_RC_QP.QI : Field := ⟨0x400110, 16, 8, false⟩
def CHN_RC_QP.QMAX : Field := ⟨0x400110, 8, 8, false⟩
def CHN_RC_QP.QMIN : Field := ⟨0x400110, 0, 8, false⟩
-- R145
def CHN_RC_STS.QAVG : Field := ⟨0x400114, 24, 8, false⟩
def CHN_RC_STS.CAP_CLIP : Field := ⟨0x400114, 18, 1, false⟩
def CHN_RC_STS.PEAK_CLIP : Field := ⟨0x400114, 17, 1, false⟩
def CHN_RC_STS.FILLED : Field := ⟨0x400114, 16, 1, false⟩
def CHN_RC_STS.LEVEL : Field := ⟨0x400114, 8, 2, false⟩
def CHN_RC_STS.STARVED : Field := ⟨0x400114, 0, 8, false⟩
-- R145
def CHN_RC_LAST_BYTES.VALUE : Field := ⟨0x400118, 0, 32, false⟩
-- R145
def CHN_RC_OCC.VALUE : Field := ⟨0x40011c, 0, 32, false⟩
-- R145
def CHN_RC_DEBT.VALUE : Field := ⟨0x400120, 0, 32, false⟩
-- R145
def CHN_RC_MODEL_AGE.VALUE : Field := ⟨0x400124, 0, 32, false⟩
-- R169
def CHN_DEC_CFG.PT : Field := ⟨0x400140, 16, 8, false⟩
def CHN_DEC_CFG.NOUT : Field := ⟨0x400140, 8, 4, false⟩
def CHN_DEC_CFG.XPORT : Field := ⟨0x400140, 0, 3, false⟩
-- R170
def CHN_DEC_JB.PKTS : Field := ⟨0x400144, 16, 16, false⟩
def CHN_DEC_JB.JB_MS : Field := ⟨0x400144, 0, 10, false⟩
-- R171
def CHN_DEC_TS.PID : Field := ⟨0x400148, 0, 13, false⟩
-- R172
def CHN_DEC_STS.GAP : Field := ⟨0x40014c, 3, 1, false⟩
def CHN_DEC_STS.RESYNC : Field := ⟨0x40014c, 2, 1, false⟩
def CHN_DEC_STS.STREAM : Field := ⟨0x40014c, 1, 1, false⟩
def CHN_DEC_STS.WAIT_RAP : Field := ⟨0x40014c, 0, 1, false⟩
-- R173
def CHN_DEC_OUT_WR.WRAP : Field := ⟨0x400150, 4, 1, false⟩
def CHN_DEC_OUT_WR.IDX : Field := ⟨0x400150, 0, 4, false⟩
-- R173
def CHN_DEC_OUT_RD.WRAP : Field := ⟨0x400154, 4, 1, false⟩
def CHN_DEC_OUT_RD.IDX : Field := ⟨0x400154, 0, 4, false⟩
-- R168
def CHN_DEC_OUT_BASE.ADDR : Field := ⟨0x400158, 0, 64, true⟩
-- R168
def CHN_DEC_OUT_PITCH.BYTES : Field := ⟨0x400160, 0, 32, false⟩
-- R168
def CHN_DEC_DMG_POC.POC : Field := ⟨0x400164, 0, 32, false⟩
-- R174
def CHN_DEC_DMG_POS.POC_VALID : Field := ⟨0x400168, 31, 1, false⟩
def CHN_DEC_DMG_POS.FRAME_NUM : Field := ⟨0x400168, 30, 1, false⟩
def CHN_DEC_DMG_POS.CTU : Field := ⟨0x400168, 0, 20, false⟩
-- R168
def CHN_DEC_DMG_AUX.AUX : Field := ⟨0x40016c, 0, 32, false⟩
-- R168
def CHN_DEC_DMG_TIME.TIME : Field := ⟨0x400170, 0, 64, true⟩
-- R168
def CHN_DEC_SKIP_AU.COUNT : Field := ⟨0x400178, 0, 32, false⟩
-- R168
def CHN_DEC_PKT_DISC.COUNT : Field := ⟨0x40017c, 0, 32, false⟩
-- R176
def CHN_HOLD_CFG.STILL_EN : Field := ⟨0x400180, 16, 1, false⟩
def CHN_HOLD_CFG.LOSS_EN : Field := ⟨0x400180, 12, 1, false⟩
def CHN_HOLD_CFG.ENTER_N : Field := ⟨0x400180, 8, 4, false⟩
def CHN_HOLD_CFG.GRACE : Field := ⟨0x400180, 0, 8, false⟩
-- R177
def CHN_HOLD_STILL_MS.MS : Field := ⟨0x400184, 0, 32, false⟩
-- R177
def CHN_HOLD_STILL_ADDR.ADDR : Field := ⟨0x400188, 12, 23, true⟩
-- R178
def CHN_HOLD_CMD.STILL_NOW : Field := ⟨0x400190, 2, 1, false⟩
def CHN_HOLD_CMD.RELEASE : Field := ⟨0x400190, 1, 1, false⟩
def CHN_HOLD_CMD.ENTER : Field := ⟨0x400190, 0, 1, false⟩
-- R179
def CHN_HOLD_STS.PICS : Field := ⟨0x400194, 16, 16, false⟩
def CHN_HOLD_STS.STILL_SHOWN : Field := ⟨0x400194, 4, 1, false⟩
def CHN_HOLD_STS.FORCED : Field := ⟨0x400194, 3, 1, false⟩
def CHN_HOLD_STS.CAUSE : Field := ⟨0x400194, 0, 3, false⟩
-- R179
def CHN_HOLD_MISS.COUNT : Field := ⟨0x400198, 0, 32, false⟩
-- R388
def CHN_PKT_CFG.MAXDG : Field := ⟨0x4001c0, 16, 11, false⟩
def CHN_PKT_CFG.FEED : Field := ⟨0x4001c0, 4, 2, false⟩
def CHN_PKT_CFG.XPORT : Field := ⟨0x4001c0, 0, 2, false⟩
-- R388
def CHN_PKT_RTP.RTX_PT : Field := ⟨0x4001c4, 16, 7, false⟩
def CHN_PKT_RTP.PT : Field := ⟨0x4001c4, 0, 7, false⟩
-- R388
def CHN_PKT_SSRC.SSRC : Field := ⟨0x4001c8, 0, 32, false⟩
-- R388
def CHN_PKT_RTX_SSRC.SSRC : Field := ⟨0x4001cc, 0, 32, false⟩
-- R388
def CHN_PKT_IP.UDP_SRC : Field := ⟨0x4001d0, 16, 16, false⟩
def CHN_PKT_IP.TTL : Field := ⟨0x4001d0, 8, 8, false⟩
def CHN_PKT_IP.DSCP : Field := ⟨0x4001d0, 0, 6, false⟩
-- R388
def CHN_PKT_TS.PMT_PID : Field := ⟨0x4001d4, 16, 13, false⟩
def CHN_PKT_TS.VID_PID : Field := ⟨0x4001d4, 0, 13, false⟩
-- R388
def CHN_PKT_AUD.EN (k : Nat) : Field := ⟨0x4001d8 + 4 * k, 31, 1, false⟩
def CHN_PKT_AUD.PID (k : Nat) : Field := ⟨0x4001d8 + 4 * k, 16, 13, false⟩
def CHN_PKT_AUD.STREAM_TYPE (k : Nat) : Field := ⟨0x4001d8 + 4 * k, 0, 8, false⟩
-- R388
def CHN_RTX_CFG.EN : Field := ⟨0x4001e0, 31, 1, false⟩
def CHN_RTX_CFG.HOLDOFF : Field := ⟨0x4001e0, 16, 8, false⟩
def CHN_RTX_CFG.RTX_MS : Field := ⟨0x4001e0, 0, 9, false⟩
-- R387
def CHN_REPL_STS.PORTS : Field := ⟨0x4001e4, 24, 8, false⟩
def CHN_REPL_STS.ENTRIES : Field := ⟨0x4001e4, 0, 17, false⟩
-- R387
def CHN_CNT_PKTS.COUNT : Field := ⟨0x4001e8, 0, 32, false⟩
-- R387
def CHN_CNT_NACK.COUNT : Field := ⟨0x4001ec, 0, 32, false⟩
-- R387
def CHN_CNT_RTX.COUNT : Field := ⟨0x4001f0, 0, 32, false⟩
-- R387
def CHN_CNT_RTX_MISS.COUNT : Field := ⟨0x4001f4, 0, 32, false⟩
-- R68
def CHN_CNT_PIC.COUNT : Field := ⟨0x400200, 0, 64, true⟩
-- R68
def CHN_CNT_BYTES.COUNT : Field := ⟨0x400208, 0, 64, true⟩
-- R68
def CHN_CNT_REISSUED.COUNT : Field := ⟨0x400210, 0, 32, false⟩
-- R68
def CHN_CNT_LATE.COUNT : Field := ⟨0x400214, 0, 32, false⟩
-- R68
def CHN_CNT_STARVED.COUNT : Field := ⟨0x400218, 0, 32, false⟩
-- R68
def CHN_CNT_HOLD.COUNT : Field := ⟨0x40021c, 0, 32, false⟩
-- R68
def CHN_CNT_IRAP_FORCED.COUNT : Field := ⟨0x400220, 0, 32, false⟩
-- R279
def CHN_SURF_MODE.ANA_TGT : Field := ⟨0x400240, 24, 3, false⟩
def CHN_SURF_MODE.ANA_TMAX : Field := ⟨0x400240, 20, 3, false⟩
def CHN_SURF_MODE.ANA_LOSSY : Field := ⟨0x400240, 16, 1, false⟩
def CHN_SURF_MODE.SRC_TGT : Field := ⟨0x400240, 8, 3, false⟩
def CHN_SURF_MODE.SRC_TMAX : Field := ⟨0x400240, 4, 3, false⟩
def CHN_SURF_MODE.SRC_LOSSY : Field := ⟨0x400240, 0, 1, false⟩
-- R280
def CHN_SURF_HSTS.SRC_PIC : Field := ⟨0x400244, 16, 16, false⟩
def CHN_SURF_HSTS.ANA_PIC : Field := ⟨0x400244, 0, 16, false⟩
-- R281
def CHN_SURF_HSRC.BLOCKS (k : Nat) : Field := ⟨0x400248 + 4 * k, 0, 20, false⟩
-- R281
def CHN_SURF_HANA.BLOCKS (k : Nat) : Field := ⟨0x400264 + 4 * k, 0, 20, false⟩
-- R282
def CHN_SURF_OVER_CNT.COUNT : Field := ⟨0x400280, 0, 32, false⟩
-- R282
def CHN_SURF_REF_FILL.PERMILLE : Field := ⟨0x400284, 0, 11, false⟩

/-! RCT page, base 0x1e0000, 1 page(s). -/

def RCT_EVT.REC_AVAIL : Field := ⟨0x1e0010, 0, 1, false⟩
def RCT_EVT.REC_DROP : Field := ⟨0x1e0010, 1, 1, false⟩
def RCT_FLT.CTX_PAR : Field := ⟨0x1e001c, 0, 1, false⟩

-- R146
def RCT_CTX_SEL.CTX : Field := ⟨0x1e0040, 0, 8, false⟩
-- R146
def RCT_CTX_M_P.M : Field := ⟨0x1e0044, 0, 32, false⟩
-- R146
def RCT_CTX_M_I.M : Field := ⟨0x1e0048, 0, 32, false⟩
-- R146
def RCT_CTX_BW.W3 : Field := ⟨0x1e004c, 24, 8, false⟩
def RCT_CTX_BW.W2 : Field := ⟨0x1e004c, 16, 8, false⟩
def RCT_CTX_BW.W1 : Field := ⟨0x1e004c, 8, 8, false⟩
def RCT_CTX_BW.W0 : Field := ⟨0x1e004c, 0, 8, false⟩
-- R146
def RCT_CTX_COMMIT.SEQ : Field := ⟨0x1e0050, 0, 16, false⟩
-- R146
def RCT_CTX_SEQ.SEQ : Field := ⟨0x1e0054, 0, 16, false⟩
-- R146
def RCT_REC_BASE.OFF : Field := ⟨0x1e0058, 0, 32, false⟩
-- R146
def RCT_REC_SIZE.N : Field := ⟨0x1e005c, 0, 32, false⟩
-- R146
def RCT_REC_WR.IDX : Field := ⟨0x1e0060, 0, 32, false⟩
-- R146
def RCT_REC_RD.IDX : Field := ⟨0x1e0064, 0, 32, false⟩
-- R146
def RCT_REC_DROP.COUNT : Field := ⟨0x1e0068, 0, 32, false⟩

/-! ENE page, base 0x180000, 32 page(s). -/

def ENE_EVT.MCHK : Field := ⟨0x180010, 0, 1, false⟩
def ENE_EVT.REBIND : Field := ⟨0x180010, 1, 1, false⟩
def ENE_EVT.MOVE_DONE : Field := ⟨0x180010, 2, 1, false⟩
def ENE_EVT.MOVE_REFUSED : Field := ⟨0x180010, 3, 1, false⟩
def ENE_EVT.OVERCOMMIT : Field := ⟨0x180010, 4, 1, false⟩
def ENE_EVT.SELFTEST_DONE : Field := ⟨0x180010, 5, 1, false⟩
def ENE_FLT.UC_PAR : Field := ⟨0x18001c, 0, 1, false⟩
def ENE_FLT.UC_ILL : Field := ⟨0x18001c, 1, 1, false⟩
def ENE_FLT.STG_PAR : Field := ⟨0x18001c, 2, 1, false⟩

-- R199
def ENE_CTL.RETIRE : Field := ⟨0x180040, 3, 1, false⟩
def ENE_CTL.RELEASE : Field := ⟨0x180040, 2, 1, false⟩
def ENE_CTL.SELFTEST : Field := ⟨0x180040, 1, 1, false⟩
def ENE_CTL.BIND_EN : Field := ⟨0x180040, 0, 1, false⟩
-- R200
def ENE_STS.ST_RESULT : Field := ⟨0x180044, 28, 2, false⟩
def ENE_STS.SUSP : Field := ⟨0x180044, 16, 5, false⟩
def ENE_STS.SERVICE : Field := ⟨0x180044, 0, 3, false⟩
-- R201
def ENE_LOAD.NBOUND : Field := ⟨0x180048, 16, 9, false⟩
def ENE_LOAD.LOAD : Field := ⟨0x180048, 0, 16, false⟩
-- R202
def ENE_MOVE.GO : Field := ⟨0x18004c, 31, 1, false⟩
def ENE_MOVE.CHN : Field := ⟨0x18004c, 0, 8, false⟩
-- R203
def ENE_UC_ADDR.ADDR : Field := ⟨0x180050, 0, 12, false⟩
-- R203
def ENE_UC_LO.DATA : Field := ⟨0x180054, 0, 32, false⟩
-- R203
def ENE_UC_HI.DATA : Field := ⟨0x180058, 0, 16, false⟩
-- R203
def ENE_UC_GEN.GEN : Field := ⟨0x18005c, 0, 16, false⟩
-- R204
def ENE_MC_INFO.VALID : Field := ⟨0x180060, 31, 1, false⟩
def ENE_MC_INFO.KIND : Field := ⟨0x180060, 28, 2, false⟩
def ENE_MC_INFO.CHN : Field := ⟨0x180060, 20, 8, false⟩
def ENE_MC_INFO.ADDR : Field := ⟨0x180060, 0, 12, false⟩
-- R198
def ENE_CNT_MC.COUNT : Field := ⟨0x180064, 0, 32, false⟩
-- R198
def ENE_CNT_SLICES.COUNT : Field := ⟨0x180068, 0, 32, false⟩
-- R198
def ENE_CNT_SUSPEND.COUNT : Field := ⟨0x18006c, 0, 32, false⟩
-- R198
def ENE_CNT_BINS.COUNT : Field := ⟨0x180070, 0, 64, true⟩
-- R198
def ENE_CNT_BUSY.COUNT : Field := ⟨0x180078, 0, 64, true⟩

/-! PXE page, base 0x100000, 128 page(s). -/

def PXE_EVT.FAULT : Field := ⟨0x100010, 0, 1, false⟩
def PXE_EVT.QUARANTINED : Field := ⟨0x100010, 1, 1, false⟩
def PXE_EVT.UC_DONE : Field := ⟨0x100010, 2, 1, false⟩
def PXE_EVT.SELFTEST_DONE : Field := ⟨0x100010, 3, 1, false⟩
def PXE_EVT.OPP_DONE : Field := ⟨0x100010, 4, 1, false⟩
def PXE_FLT.SRAM_CE : Field := ⟨0x10001c, 0, 1, false⟩
def PXE_FLT.SRAM_UE : Field := ⟨0x10001c, 1, 1, false⟩
def PXE_FLT.UC_ILL : Field := ⟨0x10001c, 2, 1, false⟩
def PXE_FLT.JOB_TIMEOUT : Field := ⟨0x10001c, 3, 1, false⟩
def PXE_FLT.HBM_POISON : Field := ⟨0x10001c, 4, 1, false⟩
def PXE_FLT.ARB_WDOG : Field := ⟨0x10001c, 5, 1, false⟩
def PXE_FLT.DP_PAR : Field := ⟨0x10001c, 6, 1, false⟩
def PXE_FLT.UC_DIGEST : Field := ⟨0x10001c, 7, 1, false⟩

-- R224
def PXE_CTL.SPARE : Field := ⟨0x100040, 4, 1, false⟩
def PXE_CTL.RETIRE : Field := ⟨0x100040, 3, 1, false⟩
def PXE_CTL.RELEASE : Field := ⟨0x100040, 2, 1, false⟩
def PXE_CTL.SELFTEST : Field := ⟨0x100040, 1, 1, false⟩
def PXE_CTL.QUAR : Field := ⟨0x100040, 0, 1, false⟩
-- R225
def PXE_STS.ST_RESULT : Field := ⟨0x100044, 28, 2, false⟩
def PXE_STS.SPARE_ACT : Field := ⟨0x100044, 8, 1, false⟩
def PXE_STS.SERVICE : Field := ⟨0x100044, 0, 3, false⟩
-- R226
def PXE_OPP.VSET : Field := ⟨0x100048, 16, 6, false⟩
def PXE_OPP.FREQ : Field := ⟨0x100048, 0, 8, false⟩
-- R226
def PXE_OPP_STS.CHANGING : Field := ⟨0x10004c, 31, 1, false⟩
def PXE_OPP_STS.VSET : Field := ⟨0x10004c, 16, 6, false⟩
def PXE_OPP_STS.FREQ : Field := ⟨0x10004c, 0, 8, false⟩
-- R227
def PXE_UC_CMD.BANK : Field := ⟨0x100050, 8, 1, false⟩
def PXE_UC_CMD.OP : Field := ⟨0x100050, 0, 2, false⟩
-- R228
def PXE_UC_LOADCFG.GEN : Field := ⟨0x100054, 16, 16, false⟩
def PXE_UC_LOADCFG.LEN : Field := ⟨0x100054, 0, 14, false⟩
-- R228
def PXE_UC_SRC.ADDR : Field := ⟨0x100058, 6, 29, true⟩
-- R229
def PXE_UC_STS.RESULT : Field := ⟨0x100060, 24, 3, false⟩
def PXE_UC_STS.LAST_BANK : Field := ⟨0x100060, 20, 1, false⟩
def PXE_UC_STS.VALID1 : Field := ⟨0x100060, 1, 1, false⟩
def PXE_UC_STS.VALID0 : Field := ⟨0x100060, 0, 1, false⟩
-- R229
def PXE_UC_GEN.GEN1 : Field := ⟨0x100064, 16, 16, false⟩
def PXE_UC_GEN.GEN0 : Field := ⟨0x100064, 0, 16, false⟩
-- R230
def PXE_UC_RADDR.ADDR : Field := ⟨0x100068, 0, 14, false⟩
-- R230
def PXE_UC_RDATA_LO.DATA : Field := ⟨0x10006c, 0, 32, false⟩
-- R230
def PXE_UC_RDATA_HI.DATA : Field := ⟨0x100070, 0, 8, false⟩
-- R231
def PXE_WDOG.LIMIT : Field := ⟨0x100074, 0, 8, false⟩
-- R232
def PXE_FLT_INFO.VALID : Field := ⟨0x100078, 31, 1, false⟩
def PXE_FLT_INFO.KIND : Field := ⟨0x100078, 28, 3, false⟩
def PXE_FLT_INFO.CHN : Field := ⟨0x100078, 20, 8, false⟩
def PXE_FLT_INFO.STAGE : Field := ⟨0x100078, 17, 3, false⟩
def PXE_FLT_INFO.CTU : Field := ⟨0x100078, 0, 16, false⟩
-- R233
def PXE_JOB.ACTIVE : Field := ⟨0x10007c, 31, 1, false⟩
def PXE_JOB.STAGE : Field := ⟨0x10007c, 28, 3, false⟩
def PXE_JOB.CHN : Field := ⟨0x10007c, 20, 8, false⟩
def PXE_JOB.BANK : Field := ⟨0x10007c, 19, 1, false⟩
def PXE_JOB.PIC : Field := ⟨0x10007c, 0, 16, false⟩
-- R233
def PXE_CNT_JOBS.COUNT : Field := ⟨0x100080, 0, 32, false⟩
-- R233
def PXE_CNT_FAULTS.COUNT : Field := ⟨0x100084, 0, 32, false⟩
-- R223
def PXE_CNT_SRAM_CE.COUNT : Field := ⟨0x100088, 0, 32, false⟩
-- R223
def PXE_CNT_REF_MISS.COUNT : Field := ⟨0x10008c, 0, 32, false⟩
-- R223
def PXE_CNT_BUSY.COUNT : Field := ⟨0x100090, 0, 64, true⟩

/-! WDP page, base 0x1d0000, 1 page(s). -/

def WDP_EVT.OVERCOMMIT : Field := ⟨0x1d0010, 0, 1, false⟩
def WDP_EVT.REISSUE : Field := ⟨0x1d0010, 1, 1, false⟩
def WDP_EVT.LATE : Field := ⟨0x1d0010, 2, 1, false⟩
def WDP_EVT.ABANDON : Field := ⟨0x1d0010, 3, 1, false⟩
def WDP_EVT.NO_ENGINE : Field := ⟨0x1d0010, 4, 1, false⟩
def WDP_FLT.TBL_PAR : Field := ⟨0x1d001c, 0, 1, false⟩
def WDP_FLT.JOB_ABANDON : Field := ⟨0x1d001c, 1, 1, false⟩

-- R254
def WDP_CTL.MAX_TRY : Field := ⟨0x1d0040, 16, 3, false⟩
def WDP_CTL.AFFINITY : Field := ⟨0x1d0040, 0, 1, false⟩
-- R255
def WDP_STS.OVERCOMMIT : Field := ⟨0x1d0044, 31, 1, false⟩
def WDP_STS.GEN_DEFAULT : Field := ⟨0x1d0044, 0, 16, false⟩
-- R256
def WDP_ADMIT_BUDGET.MPCS : Field := ⟨0x1d0048, 0, 20, false⟩
-- R256
def WDP_LIVE_RSV.MPCS : Field := ⟨0x1d004c, 0, 20, false⟩
-- R257
def WDP_LIVE_ENG.N : Field := ⟨0x1d0050, 0, 8, false⟩
-- R258
def WDP_RR_QUANTUM.Q : Field := ⟨0x1d0054, 0, 16, false⟩
-- R259
def WDP_GEN_CMD.ALL : Field := ⟨0x1d0058, 31, 1, false⟩
def WDP_GEN_CMD.CHN : Field := ⟨0x1d0058, 16, 8, false⟩
def WDP_GEN_CMD.GEN : Field := ⟨0x1d0058, 0, 16, false⟩
-- R260
def WDP_CHN_SEL.CHN : Field := ⟨0x1d005c, 0, 8, false⟩
-- R260
def WDP_CHN_GEN.PEND : Field := ⟨0x1d0060, 16, 16, false⟩
def WDP_CHN_GEN.GEN : Field := ⟨0x1d0060, 0, 16, false⟩
-- R260
def WDP_CHN_JOBS.INFLIGHT : Field := ⟨0x1d0064, 24, 4, false⟩
def WDP_CHN_JOBS.READY : Field := ⟨0x1d0064, 0, 16, false⟩
-- R261
def WDP_ENG_STS.BUSY_SCHED : Field := ⟨0x1d0068, 16, 8, false⟩
def WDP_ENG_STS.BUSY_LIVE : Field := ⟨0x1d0068, 8, 8, false⟩
def WDP_ENG_STS.WORKING : Field := ⟨0x1d0068, 0, 8, false⟩
-- R253
def WDP_LAST_FLAG.WORD : Field := ⟨0x1d0070, 0, 64, true⟩
-- R253
def WDP_CNT_ISSUED.COUNT : Field := ⟨0x1d0078, 0, 64, true⟩
-- R253
def WDP_CNT_REISSUED.COUNT : Field := ⟨0x1d0080, 0, 32, false⟩
-- R253
def WDP_CNT_LATE.COUNT : Field := ⟨0x1d0084, 0, 32, false⟩
-- R253
def WDP_CNT_ABANDONED.COUNT : Field := ⟨0x1d0088, 0, 32, false⟩
-- R253
def WDP_CNT_ROUNDS.COUNT : Field := ⟨0x1d008c, 0, 32, false⟩

/-! HMC page, base 0x600000, 32 page(s). -/

def HMC_EVT.TRIM_APPLIED : Field := ⟨0x600010, 0, 1, false⟩
def HMC_EVT.REF_2X : Field := ⟨0x600010, 1, 1, false⟩
def HMC_EVT.UE : Field := ⟨0x600010, 2, 1, false⟩
def HMC_FLT.CE : Field := ⟨0x60001c, 0, 1, false⟩
def HMC_FLT.UE : Field := ⟨0x60001c, 1, 1, false⟩
def HMC_FLT.CA_PAR : Field := ⟨0x60001c, 2, 1, false⟩
def HMC_FLT.Q_PAR : Field := ⟨0x60001c, 3, 1, false⟩

-- R303
def HMC_CTL.FORCE_2X : Field := ⟨0x600040, 2, 1, false⟩
def HMC_CTL.TEMP_AUTO : Field := ⟨0x600040, 1, 1, false⟩
def HMC_CTL.SVC : Field := ⟨0x600040, 0, 1, false⟩
-- R304
def HMC_STS.TEMP : Field := ⟨0x600044, 16, 8, false⟩
def HMC_STS.REF_2X : Field := ⟨0x600044, 8, 1, false⟩
def HMC_STS.QEMPTY : Field := ⟨0x600044, 1, 1, false⟩
def HMC_STS.TRIM_PEND : Field := ⟨0x600044, 0, 1, false⟩
-- R305
def HMC_TRIM_CMD.APPLY : Field := ⟨0x600048, 0, 1, false⟩
-- R305
def HMC_TRIM_RD.LANE3 (k : Nat) : Field := ⟨0x600050 + 4 * k, 24, 7, false⟩
def HMC_TRIM_RD.LANE2 (k : Nat) : Field := ⟨0x600050 + 4 * k, 16, 7, false⟩
def HMC_TRIM_RD.LANE1 (k : Nat) : Field := ⟨0x600050 + 4 * k, 8, 7, false⟩
def HMC_TRIM_RD.LANE0 (k : Nat) : Field := ⟨0x600050 + 4 * k, 0, 7, false⟩
-- R305
def HMC_TRIM_RD_2.LANE1 : Field := ⟨0x600058, 8, 7, false⟩
def HMC_TRIM_RD_2.LANE0 : Field := ⟨0x600058, 0, 7, false⟩
-- R305
def HMC_TRIM_WR.LANE3 (k : Nat) : Field := ⟨0x60005c + 4 * k, 24, 7, false⟩
def HMC_TRIM_WR.LANE2 (k : Nat) : Field := ⟨0x60005c + 4 * k, 16, 7, false⟩
def HMC_TRIM_WR.LANE1 (k : Nat) : Field := ⟨0x60005c + 4 * k, 8, 7, false⟩
def HMC_TRIM_WR.LANE0 (k : Nat) : Field := ⟨0x60005c + 4 * k, 0, 7, false⟩
-- R305
def HMC_TRIM_WR_2.LANE1 : Field := ⟨0x600064, 8, 7, false⟩
def HMC_TRIM_WR_2.LANE0 : Field := ⟨0x600064, 0, 7, false⟩
-- R305
def HMC_TRIM_RD_ACT.LANE3 (k : Nat) : Field := ⟨0x600068 + 4 * k, 24, 7, false⟩
def HMC_TRIM_RD_ACT.LANE2 (k : Nat) : Field := ⟨0x600068 + 4 * k, 16, 7, false⟩
def HMC_TRIM_RD_ACT.LANE1 (k : Nat) : Field := ⟨0x600068 + 4 * k, 8, 7, false⟩
def HMC_TRIM_RD_ACT.LANE0 (k : Nat) : Field := ⟨0x600068 + 4 * k, 0, 7, false⟩
-- R305
def HMC_TRIM_RD_ACT_2.LANE1 : Field := ⟨0x600070, 8, 7, false⟩
def HMC_TRIM_RD_ACT_2.LANE0 : Field := ⟨0x600070, 0, 7, false⟩
-- R305
def HMC_TRIM_WR_ACT.LANE3 (k : Nat) : Field := ⟨0x600074 + 4 * k, 24, 7, false⟩
def HMC_TRIM_WR_ACT.LANE2 (k : Nat) : Field := ⟨0x600074 + 4 * k, 16, 7, false⟩
def HMC_TRIM_WR_ACT.LANE1 (k : Nat) : Field := ⟨0x600074 + 4 * k, 8, 7, false⟩
def HMC_TRIM_WR_ACT.LANE0 (k : Nat) : Field := ⟨0x600074 + 4 * k, 0, 7, false⟩
-- R305
def HMC_TRIM_WR_ACT_2.LANE1 : Field := ⟨0x60007c, 8, 7, false⟩
def HMC_TRIM_WR_ACT_2.LANE0 : Field := ⟨0x60007c, 0, 7, false⟩
-- R306
def HMC_TRIM_TRAIN.WR_OFF : Field := ⟨0x600080, 8, 7, false⟩
def HMC_TRIM_TRAIN.RD_OFF : Field := ⟨0x600080, 0, 7, false⟩
-- R306
def HMC_TRAIN_ERR.LANE_ERR : Field := ⟨0x600084, 0, 10, false⟩
-- R307
def HMC_ECC_CE_ADDR.VALID : Field := ⟨0x60008c, 31, 1, false⟩
def HMC_ECC_CE_ADDR.REQ : Field := ⟨0x60008c, 16, 10, false⟩
def HMC_ECC_CE_ADDR.ADDR : Field := ⟨0x600088, 0, 35, true⟩
-- R307
def HMC_ECC_UE_ADDR.VALID : Field := ⟨0x600094, 31, 1, false⟩
def HMC_ECC_UE_ADDR.REQ : Field := ⟨0x600094, 16, 10, false⟩
def HMC_ECC_UE_ADDR.ADDR : Field := ⟨0x600090, 0, 35, true⟩
-- R302
def HMC_CNT_CE.COUNT : Field := ⟨0x600098, 0, 32, false⟩
-- R302
def HMC_CNT_UE.COUNT : Field := ⟨0x60009c, 0, 32, false⟩
-- R302
def HMC_CNT_FORCED_REF.COUNT : Field := ⟨0x6000a0, 0, 32, false⟩
-- R302
def HMC_CNT_RAW_WAIT.COUNT : Field := ⟨0x6000a4, 0, 32, false⟩
-- R302
def HMC_CNT_RD.COUNT : Field := ⟨0x6000a8, 0, 64, true⟩
-- R302
def HMC_CNT_WR.COUNT : Field := ⟨0x6000b0, 0, 64, true⟩

/-! ARB page, base 0x620000, 32 page(s). -/

def ARB_EVT.SWAPPED : Field := ⟨0x620010, 0, 1, false⟩
def ARB_EVT.WDOG : Field := ⟨0x620010, 1, 1, false⟩
def ARB_EVT.DRAINED : Field := ⟨0x620010, 2, 1, false⟩
def ARB_FLT.WDOG_RELEASE : Field := ⟨0x62001c, 0, 1, false⟩
def ARB_FLT.TBL_PAR : Field := ⟨0x62001c, 1, 1, false⟩

-- R309
def ARB_STS.LOCKED : Field := ⟨0x620040, 31, 1, false⟩
def ARB_STS.HOLDER : Field := ⟨0x620040, 16, 10, false⟩
def ARB_STS.ACTIVE : Field := ⟨0x620040, 8, 1, false⟩
def ARB_STS.SLOT : Field := ⟨0x620040, 0, 6, false⟩
-- R310
def ARB_REQ_SEL.REQ : Field := ⟨0x620044, 0, 10, false⟩
-- R310
def ARB_REQ_CFG.IDLE_ONLY : Field := ⟨0x620048, 8, 1, false⟩
def ARB_REQ_CFG.CLASS : Field := ⟨0x620048, 4, 3, false⟩
def ARB_REQ_CFG.PRIO : Field := ⟨0x620048, 0, 4, false⟩
-- R311
def ARB_REQ_STS.COUNT : Field := ⟨0x62004c, 16, 16, false⟩
def ARB_REQ_STS.GRANTED : Field := ⟨0x62004c, 6, 1, false⟩
def ARB_REQ_STS.MASKED : Field := ⟨0x62004c, 5, 1, false⟩
def ARB_REQ_STS.WAITING : Field := ⟨0x62004c, 4, 1, false⟩
def ARB_REQ_STS.AGE : Field := ⟨0x62004c, 0, 4, false⟩
-- R312
def ARB_QUOTA.W : Field := ⟨0x620050, 16, 16, false⟩
def ARB_QUOTA.Q : Field := ⟨0x620050, 0, 16, false⟩
-- R313
def ARB_SLOT_SEL.BANK : Field := ⟨0x620054, 8, 1, false⟩
def ARB_SLOT_SEL.SLOT : Field := ⟨0x620054, 0, 6, false⟩
-- R313
def ARB_SLOT_ENTRY.VALID : Field := ⟨0x620058, 3, 1, false⟩
def ARB_SLOT_ENTRY.CLASS : Field := ⟨0x620058, 0, 3, false⟩
-- R313
def ARB_SLOT_CTL.SWAP : Field := ⟨0x62005c, 0, 1, false⟩
-- R314
def ARB_WDOG.LIMIT : Field := ⟨0x620060, 0, 16, false⟩
-- R314
def ARB_WDOG_INFO.VALID : Field := ⟨0x620064, 31, 1, false⟩
def ARB_WDOG_INFO.REQ : Field := ⟨0x620064, 16, 10, false⟩
def ARB_WDOG_INFO.UNITS : Field := ⟨0x620064, 0, 16, false⟩
-- R308
def ARB_CNT_UNITS.COUNT : Field := ⟨0x620068, 0, 64, true⟩
-- R308
def ARB_CNT_SLOT_USED.COUNT : Field := ⟨0x620070, 0, 32, false⟩
-- R308
def ARB_CNT_SLOT_FELL.COUNT : Field := ⟨0x620074, 0, 32, false⟩
-- R308
def ARB_CNT_PREEMPT.COUNT : Field := ⟨0x620078, 0, 32, false⟩
-- R308
def ARB_CNT_WDOG.COUNT : Field := ⟨0x62007c, 0, 32, false⟩

/-! ETH page, base 0x510000, 8 page(s). -/

def ETH_EVT.LINK_UP : Field := ⟨0x510010, 0, 1, false⟩
def ETH_EVT.LINK_DOWN : Field := ⟨0x510010, 1, 1, false⟩
def ETH_EVT.TXTS_AVAIL : Field := ⟨0x510010, 2, 1, false⟩
def ETH_EVT.TXTS_OVF : Field := ⟨0x510010, 3, 1, false⟩
def ETH_EVT.PPS_IN : Field := ⟨0x510010, 4, 1, false⟩
def ETH_FLT.Q_PAR : Field := ⟨0x51001c, 0, 1, false⟩

-- R340
def ETH_CTL.LPBK : Field := ⟨0x510040, 8, 1, false⟩
def ETH_CTL.SPEED : Field := ⟨0x510040, 4, 1, false⟩
def ETH_CTL.TX_EN : Field := ⟨0x510040, 1, 1, false⟩
def ETH_CTL.RX_EN : Field := ⟨0x510040, 0, 1, false⟩
-- R341
def ETH_STS.PFC_PAUSED : Field := ⟨0x510044, 16, 8, false⟩
def ETH_STS.PAUSED : Field := ⟨0x510044, 8, 1, false⟩
def ETH_STS.REMOTE_FAULT : Field := ⟨0x510044, 4, 1, false⟩
def ETH_STS.LOCAL_FAULT : Field := ⟨0x510044, 3, 1, false⟩
def ETH_STS.FEC_ALIGN : Field := ⟨0x510044, 2, 1, false⟩
def ETH_STS.BLOCK_LOCK : Field := ⟨0x510044, 1, 1, false⟩
def ETH_STS.LINK : Field := ⟨0x510044, 0, 1, false⟩
-- R341
def ETH_MAXFRM.LEN : Field := ⟨0x510048, 0, 14, false⟩
-- R342
def ETH_FC.PFC_EN : Field := ⟨0x51004c, 8, 8, false⟩
def ETH_FC.MODE : Field := ⟨0x51004c, 0, 2, false⟩
-- R343
def ETH_SERDES_TX.POST : Field := ⟨0x510050, 16, 6, false⟩
def ETH_SERDES_TX.MAIN : Field := ⟨0x510050, 8, 6, false⟩
def ETH_SERDES_TX.PRE : Field := ⟨0x510050, 0, 6, false⟩
-- R343
def ETH_PTP_CFG.ONESTEP_EN : Field := ⟨0x510054, 0, 1, false⟩
-- R343
def ETH_TS_LAT.TX : Field := ⟨0x510058, 16, 16, false⟩
def ETH_TS_LAT.RX : Field := ⟨0x510058, 0, 16, false⟩
-- R343
def ETH_TXTS_TAG.COUNT : Field := ⟨0x51005c, 16, 3, false⟩
def ETH_TXTS_TAG.TAG : Field := ⟨0x51005c, 0, 16, false⟩
-- R339
def ETH_TXTS.TIME : Field := ⟨0x510060, 0, 64, true⟩
-- R343
def ETH_TXTS_POP.POP : Field := ⟨0x510068, 0, 1, false⟩
-- R343
def ETH_PPS_CFG.WIDTH : Field := ⟨0x51006c, 8, 8, false⟩
def ETH_PPS_CFG.IN_EN : Field := ⟨0x51006c, 1, 1, false⟩
def ETH_PPS_CFG.OUT_EN : Field := ⟨0x51006c, 0, 1, false⟩
-- R339
def ETH_PPS_IN_TS.TIME : Field := ⟨0x510070, 0, 64, true⟩
-- R343
def ETH_PPS_OFS.OFS : Field := ⟨0x510078, 0, 32, false⟩
-- R339
def ETH_CNT_RX_FRAMES.COUNT : Field := ⟨0x510080, 0, 64, true⟩
-- R339
def ETH_CNT_RX_BYTES.COUNT : Field := ⟨0x510088, 0, 64, true⟩
-- R339
def ETH_CNT_TX_FRAMES.COUNT : Field := ⟨0x510090, 0, 64, true⟩
-- R339
def ETH_CNT_TX_BYTES.COUNT : Field := ⟨0x510098, 0, 64, true⟩
-- R339
def ETH_CNT_RX_FCS.COUNT : Field := ⟨0x5100a0, 0, 32, false⟩
-- R339
def ETH_CNT_RX_RUNT.COUNT : Field := ⟨0x5100a4, 0, 32, false⟩
-- R339
def ETH_CNT_RX_OVERSIZE.COUNT : Field := ⟨0x5100a8, 0, 32, false⟩
-- R339
def ETH_CNT_PAUSE_RX.COUNT : Field := ⟨0x5100ac, 0, 32, false⟩
-- R339
def ETH_CNT_PAUSE_TX.COUNT : Field := ⟨0x5100b0, 0, 32, false⟩
-- R339
def ETH_CNT_FEC_CORR.COUNT : Field := ⟨0x5100b4, 0, 32, false⟩
-- R339
def ETH_CNT_FEC_UNCORR.COUNT : Field := ⟨0x5100b8, 0, 32, false⟩
-- R339
def ETH_CNT_MACCTL_DISC.COUNT : Field := ⟨0x5100bc, 0, 32, false⟩
-- R339
def ETH_CNT_LINK_DOWN.COUNT : Field := ⟨0x5100c0, 0, 32, false⟩

/-! PSEC page, base 0x1f0000, 1 page(s). -/

-- R344
def PSE_CFG.STEPS : Field := ⟨0x1f0040, 8, 8, false⟩
def PSE_CFG.DEPTH : Field := ⟨0x1f0040, 0, 8, false⟩
-- R344
def PSE_SVC.MASK : Field := ⟨0x1f0044, 0, 16, false⟩

/-! PSE page, base 0x1f1000, 16 page(s). -/

def PSE_EVT.LOAD_DONE : Field := ⟨0x1f1010, 0, 1, false⟩
def PSE_FLT.ST_PAR : Field := ⟨0x1f101c, 0, 1, false⟩

-- R345
def PSE_UC_CMD.CHECK : Field := ⟨0x1f1040, 1, 1, false⟩
def PSE_UC_CMD.LOAD : Field := ⟨0x1f1040, 0, 1, false⟩
-- R345
def PSE_UC_LOADCFG.GEN : Field := ⟨0x1f1044, 16, 16, false⟩
def PSE_UC_LOADCFG.LEN : Field := ⟨0x1f1044, 0, 10, false⟩
-- R345
def PSE_UC_SRC.ADDR : Field := ⟨0x1f1048, 6, 29, true⟩
-- R345
def PSE_STS.RESULT : Field := ⟨0x1f1050, 24, 3, false⟩
def PSE_STS.SERVICE : Field := ⟨0x1f1050, 0, 2, false⟩
-- R345
def PSE_UC_GEN.GEN : Field := ⟨0x1f1054, 0, 16, false⟩
-- R345
def PSE_CNT_PKTS.COUNT : Field := ⟨0x1f1058, 0, 32, false⟩
-- R345
def PSE_CNT_PROG.COUNT : Field := ⟨0x1f105c, 0, 32, false⟩
-- R345
def PSE_CNT_INSTR.COUNT : Field := ⟨0x1f1060, 0, 64, true⟩
-- R345
def PSE_LAST_PROG.VALID : Field := ⟨0x1f1068, 31, 1, false⟩
def PSE_LAST_PROG.CAUSE : Field := ⟨0x1f1068, 16, 3, false⟩
def PSE_LAST_PROG.WORD : Field := ⟨0x1f1068, 0, 9, false⟩

/-! CLS0 page, base 0x1a0000, 1 page(s). -/

def CLS0_EVT.CMD_DONE : Field := ⟨0x1a0010, 0, 1, false⟩
def CLS0_FLT.CACHE_PAR : Field := ⟨0x1a001c, 0, 1, false⟩

-- R346
def CLS_CFG.MOVES : Field := ⟨0x1a0040, 0, 5, false⟩
-- R346
def CLS_TBL_BASE.BASE : Field := ⟨0x1a0044, 20, 12, false⟩
-- R346
def CLS_HASH_SEED0.SEED : Field := ⟨0x1a0048, 0, 32, false⟩
-- R346
def CLS_HASH_SEED1.SEED : Field := ⟨0x1a004c, 0, 32, false⟩
-- R347
def CLS_CMD.OP : Field := ⟨0x1a0050, 0, 3, false⟩
-- R347
def CLS_CMD_STS.WAY : Field := ⟨0x1a0054, 30, 2, false⟩
def CLS_CMD_STS.TBL : Field := ⟨0x1a0054, 29, 1, false⟩
def CLS_CMD_STS.IDX : Field := ⟨0x1a0054, 15, 14, false⟩
def CLS_CMD_STS.MOVES : Field := ⟨0x1a0054, 10, 5, false⟩
def CLS_CMD_STS.RESULT : Field := ⟨0x1a0054, 4, 4, false⟩
def CLS_CMD_STS.REJECT : Field := ⟨0x1a0054, 3, 1, false⟩
def CLS_CMD_STS.BUSY : Field := ⟨0x1a0054, 0, 1, false⟩
-- R346
def CLS_OCC.ENTRIES : Field := ⟨0x1a0058, 0, 18, false⟩
-- R346
def CLS_AT.TBL : Field := ⟨0x1a005c, 16, 1, false⟩
def CLS_AT.IDX : Field := ⟨0x1a005c, 2, 14, false⟩
def CLS_AT.WAY : Field := ⟨0x1a005c, 0, 2, false⟩
-- R346
def CLS_DATA.BYTES (k : Nat) : Field := ⟨0x1a0080 + 4 * k, 0, 32, false⟩

/-! CLS1 page, base 0x1a1000, 1 page(s). -/

def CLS1_EVT.PUNT_DROP : Field := ⟨0x1a1010, 0, 1, false⟩

-- R346
def CLS_MISS_ACT.ACT : Field := ⟨0x1a1040, 2, 2, false⟩
def CLS_MISS_ACT.QUEUE : Field := ⟨0x1a1040, 0, 2, false⟩
-- R346
def CLS_MAL_ACT.ACTS (k : Nat) : Field := ⟨0x1a1044 + 4 * k, 0, 32, false⟩
-- R346
def CLS_PUNT_RATE.RATE (k : Nat) : Field := ⟨0x1a1050 + 4 * k, 12, 20, false⟩
def CLS_PUNT_RATE.BURST (k : Nat) : Field := ⟨0x1a1050 + 4 * k, 0, 12, false⟩

/-! CLS2 page, base 0x1a2000, 1 page(s). -/

-- R346
def CLS_CNT_LOOKUP.COUNT : Field := ⟨0x1a2040, 0, 64, true⟩
-- R346
def CLS_CNT_HIT.COUNT : Field := ⟨0x1a2048, 0, 64, true⟩
-- R346
def CLS_CNT_MISS.COUNT : Field := ⟨0x1a2050, 0, 32, false⟩
-- R346
def CLS_CNT_CACHE_MISS.COUNT : Field := ⟨0x1a2054, 0, 32, false⟩
-- R346
def CLS_CNT_NOSINK.COUNT : Field := ⟨0x1a2058, 0, 32, false⟩
-- R346
def CLS_CNT_AGED.COUNT : Field := ⟨0x1a205c, 0, 32, false⟩
-- R346
def CLS_CNT_PUNT_DROP.COUNT (k : Nat) : Field := ⟨0x1a2060 + 4 * k, 0, 32, false⟩
-- R346
def CLS_CNT_DIRECT.COUNT : Field := ⟨0x1a2070, 0, 32, false⟩
-- R346
def CLS_CNT_MAL.COUNT (k : Nat) : Field := ⟨0x1a2080 + 4 * k, 0, 32, false⟩

/-! CLS3 page, base 0x1a3000, 1 page(s). -/

def CLS3_EVT.AGED : Field := ⟨0x1a3010, 0, 1, false⟩
def CLS3_EVT.REC_DROP : Field := ⟨0x1a3010, 1, 1, false⟩

-- R348
def CLS_AGE_CFG.PERIOD : Field := ⟨0x1a3040, 16, 16, false⟩
def CLS_AGE_CFG.EN : Field := ⟨0x1a3040, 0, 1, false⟩
-- R346
def CLS_AGE_REC_BASE.OFF : Field := ⟨0x1a3044, 0, 32, false⟩
-- R346
def CLS_AGE_REC_SIZE.N : Field := ⟨0x1a3048, 0, 32, false⟩
-- R346
def CLS_AGE_REC_WR.IDX : Field := ⟨0x1a304c, 0, 32, false⟩
-- R346
def CLS_AGE_REC_RD.IDX : Field := ⟨0x1a3050, 0, 32, false⟩
-- R346
def CLS_AGE_REC_DROP.COUNT : Field := ⟨0x1a3054, 0, 32, false⟩

/-! SWC page, base 0x1b0000, 1 page(s). -/

def SWC_EVT.FLUSH : Field := ⟨0x1b0010, 0, 1, false⟩
def SWC_EVT.XOFF_SENT : Field := ⟨0x1b0010, 1, 1, false⟩
def SWC_EVT.RXQ_DROP : Field := ⟨0x1b0010, 2, 1, false⟩
def SWC_EVT.SINK_DISC : Field := ⟨0x1b0010, 3, 1, false⟩
def SWC_FLT.OBUF_CE : Field := ⟨0x1b001c, 0, 1, false⟩
def SWC_FLT.OBUF_UE : Field := ⟨0x1b001c, 1, 1, false⟩

-- R360
def SWC_PORT_SEL.PORT : Field := ⟨0x1b0040, 0, 3, false⟩
-- R361
def SWC_RXQ_THR.XON : Field := ⟨0x1b0044, 16, 9, false⟩
def SWC_RXQ_THR.XOFF : Field := ⟨0x1b0044, 0, 9, false⟩
-- R361
def SWC_PFC_THR.XON : Field := ⟨0x1b0048, 16, 9, false⟩
def SWC_PFC_THR.XOFF : Field := ⟨0x1b0048, 0, 9, false⟩
-- R361
def SWC_PAUSE_CFG.QUANTA : Field := ⟨0x1b004c, 16, 16, false⟩
def SWC_PAUSE_CFG.REFRESH : Field := ⟨0x1b004c, 0, 16, false⟩
-- R361
def SWC_RXQ_STS.PFC_SENT : Field := ⟨0x1b0050, 24, 8, false⟩
def SWC_RXQ_STS.PAUSE_SENT : Field := ⟨0x1b0050, 16, 1, false⟩
def SWC_RXQ_STS.FILL : Field := ⟨0x1b0050, 0, 9, false⟩
-- R360
def SWC_CNT_XOFF.COUNT : Field := ⟨0x1b0054, 0, 32, false⟩
-- R360
def SWC_CNT_RXQ_DROP.COUNT : Field := ⟨0x1b0058, 0, 32, false⟩
-- R360
def SWC_OUT_SEL.OUT : Field := ⟨0x1b0060, 0, 4, false⟩
-- R361
def SWC_OUT_STS.DOWN : Field := ⟨0x1b0064, 31, 1, false⟩
def SWC_OUT_STS.FULL : Field := ⟨0x1b0064, 30, 1, false⟩
def SWC_OUT_STS.CELLS : Field := ⟨0x1b0064, 0, 13, false⟩
-- R360
def SWC_CNT_FLUSH_BYTES.COUNT : Field := ⟨0x1b0068, 0, 64, true⟩
-- R360
def SWC_CNT_FLUSH_PKTS.COUNT : Field := ⟨0x1b0070, 0, 32, false⟩
-- R360
def SWC_CNT_SINK_DISC.COUNT : Field := ⟨0x1b0074, 0, 32, false⟩
-- R360
def SWC_CNT_STALL.COUNT : Field := ⟨0x1b0078, 0, 32, false⟩
-- R360
def SWC_CNT_CELLS.COUNT : Field := ⟨0x1b0080, 0, 64, true⟩
-- R360
def SWC_CNT_OBUF_CE.COUNT : Field := ⟨0x1b0088, 0, 32, false⟩

/-! BPM page, base 0x1c0000, 1 page(s). -/

def BPM_EVT.ALLOC_FAIL : Field := ⟨0x1c0010, 0, 1, false⟩
def BPM_EVT.MIN_REFUSED : Field := ⟨0x1c0010, 1, 1, false⟩
def BPM_EVT.INIT_DONE : Field := ⟨0x1c0010, 2, 1, false⟩
def BPM_FLT.BAD_FREE : Field := ⟨0x1c001c, 0, 1, false⟩
def BPM_FLT.CACHE_PAR : Field := ⟨0x1c001c, 1, 1, false⟩

-- R369
def BPM_POOL_SEL.POOL : Field := ⟨0x1c0040, 0, 2, false⟩
-- R370
def BPM_POOL_CFG.BASE : Field := ⟨0x1c0044, 20, 12, false⟩
-- R370
def BPM_RING_BASE.ADDR : Field := ⟨0x1c0048, 12, 23, true⟩
-- R369
def BPM_POOL_CMD.INIT : Field := ⟨0x1c0050, 0, 1, false⟩
-- R370
def BPM_POOL_STS.READY : Field := ⟨0x1c0054, 31, 1, false⟩
def BPM_POOL_STS.CFG_ERR : Field := ⟨0x1c0054, 30, 1, false⟩
def BPM_POOL_STS.FREE : Field := ⟨0x1c0054, 0, 21, false⟩
-- R369
def BPM_POOL_SHARED.FREE : Field := ⟨0x1c0058, 0, 21, false⟩
-- R369
def BPM_CNT_ALLOC.COUNT : Field := ⟨0x1c005c, 0, 32, false⟩
-- R369
def BPM_CNT_FAIL.COUNT : Field := ⟨0x1c0060, 0, 32, false⟩
-- R369
def BPM_CNT_BAD_FREE.COUNT : Field := ⟨0x1c0064, 0, 32, false⟩
-- R369
def BPM_GRP_SEL.GROUP : Field := ⟨0x1c0068, 0, 6, false⟩
-- R370
def BPM_GRP_MIN.MIN : Field := ⟨0x1c006c, 0, 21, false⟩
-- R370
def BPM_GRP_MAX.MAX : Field := ⟨0x1c0070, 0, 21, false⟩
-- R370
def BPM_GRP_STS.REFUSED : Field := ⟨0x1c0074, 31, 1, false⟩
def BPM_GRP_STS.USED : Field := ⟨0x1c0074, 0, 21, false⟩
-- R369
def BPM_GRP_FAILS.COUNT : Field := ⟨0x1c0078, 0, 32, false⟩
-- R369
def BPM_MAP_SEL.CHN : Field := ⟨0x1c007c, 0, 8, false⟩
-- R370
def BPM_MAP.SYN : Field := ⟨0x1c0080, 16, 6, false⟩
def BPM_MAP.SLC : Field := ⟨0x1c0080, 8, 6, false⟩
def BPM_MAP.PKT : Field := ⟨0x1c0080, 0, 6, false⟩
-- R370
def BPM_ALLOC_REQ.GO : Field := ⟨0x1c0084, 31, 1, false⟩
def BPM_ALLOC_REQ.POOL : Field := ⟨0x1c0084, 8, 2, false⟩
def BPM_ALLOC_REQ.GROUP : Field := ⟨0x1c0084, 0, 6, false⟩
-- R370
def BPM_ALLOC_RES.DONE : Field := ⟨0x1c008c, 31, 1, false⟩
def BPM_ALLOC_RES.STATUS : Field := ⟨0x1c008c, 28, 3, false⟩
def BPM_ALLOC_RES.ADDR : Field := ⟨0x1c0088, 0, 35, true⟩
-- R370
def BPM_FREE.POOL : Field := ⟨0x1c0094, 24, 2, false⟩
def BPM_FREE.GROUP : Field := ⟨0x1c0094, 16, 6, false⟩
def BPM_FREE.ADDR : Field := ⟨0x1c0090, 0, 35, true⟩
-- R370
def BPM_BAD_PTR.VALID : Field := ⟨0x1c009c, 31, 1, false⟩
def BPM_BAD_PTR.REASON : Field := ⟨0x1c009c, 29, 2, false⟩
def BPM_BAD_PTR.POOL : Field := ⟨0x1c009c, 24, 2, false⟩
def BPM_BAD_PTR.REQ : Field := ⟨0x1c009c, 8, 10, false⟩
def BPM_BAD_PTR.ADDR : Field := ⟨0x1c0098, 0, 35, true⟩

/-! EGS page, base 0x500000, 8 page(s). -/

def EGS_EVT.Q_DROP : Field := ⟨0x500010, 0, 1, false⟩
def EGS_EVT.DISC : Field := ⟨0x500010, 1, 1, false⟩
def EGS_EVT.REPL_DONE : Field := ⟨0x500010, 2, 1, false⟩
def EGS_EVT.ING_BAD : Field := ⟨0x500010, 3, 1, false⟩
def EGS_FLT.REPL_CE : Field := ⟨0x50001c, 0, 1, false⟩
def EGS_FLT.REPL_UE : Field := ⟨0x50001c, 1, 1, false⟩
def EGS_FLT.DESC_PAR : Field := ⟨0x50001c, 2, 1, false⟩

-- R389
def EGS_PORT_CFG.INJ_Q : Field := ⟨0x500040, 16, 12, false⟩
def EGS_PORT_CFG.FWD_Q : Field := ⟨0x500040, 0, 12, false⟩
-- R389
def EGS_SRC_MAC.MAC : Field := ⟨0x500044, 0, 48, true⟩
-- R389
def EGS_SRC_SEL.SRC : Field := ⟨0x50004c, 0, 4, false⟩
-- R389
def EGS_SRC_IP.BYTES (k : Nat) : Field := ⟨0x500050 + 4 * k, 0, 32, false⟩
-- R389
def EGS_Q_SEL.QUEUE : Field := ⟨0x500060, 0, 12, false⟩
-- R389
def EGS_Q_CMD.OP : Field := ⟨0x500064, 0, 2, false⟩
-- R390
def EGS_Q_CFG.DROP : Field := ⟨0x500068, 31, 1, false⟩
def EGS_Q_CFG.QUANTUM : Field := ⟨0x500068, 0, 11, false⟩
-- R389
def EGS_Q_LIMIT.DESCS : Field := ⟨0x50006c, 0, 16, false⟩
-- R390
def EGS_Q_SHAPER.BURST : Field := ⟨0x500074, 0, 19, false⟩
def EGS_Q_SHAPER.RATE : Field := ⟨0x500070, 0, 25, false⟩
-- R389
def EGS_Q_STS.BOUND : Field := ⟨0x500078, 31, 1, false⟩
def EGS_Q_STS.ACTIVE : Field := ⟨0x500078, 30, 1, false⟩
def EGS_Q_STS.PORT : Field := ⟨0x500078, 27, 3, false⟩
def EGS_Q_STS.RESULT : Field := ⟨0x500078, 24, 3, false⟩
def EGS_Q_STS.DEPTH : Field := ⟨0x500078, 0, 16, false⟩
-- R389
def EGS_Q_TOKENS.BYTES : Field := ⟨0x50007c, 0, 25, false⟩
-- R389
def EGS_Q_DEFICIT.BYTES : Field := ⟨0x500080, 0, 18, false⟩
-- R389
def EGS_CNT_Q_FRAMES.COUNT : Field := ⟨0x500084, 0, 32, false⟩
-- R389
def EGS_CNT_Q_DROP.COUNT : Field := ⟨0x500088, 0, 32, false⟩
-- R389
def EGS_STS.BOUND : Field := ⟨0x50008c, 16, 11, false⟩
def EGS_STS.DESCS : Field := ⟨0x50008c, 0, 16, false⟩
-- R389
def EGS_CNT_COPIES.COUNT : Field := ⟨0x500090, 0, 64, true⟩
-- R389
def EGS_CNT_DISC.COUNT : Field := ⟨0x500098, 0, 32, false⟩
-- R389
def EGS_CNT_ROUNDS.COUNT : Field := ⟨0x50009c, 0, 32, false⟩
-- R389
def EGS_REPL_CMD.OP : Field := ⟨0x500100, 16, 3, false⟩
def EGS_REPL_CMD.IDX : Field := ⟨0x500100, 0, 16, false⟩
-- R389
def EGS_REPL_STS.RESULT : Field := ⟨0x500104, 4, 4, false⟩
def EGS_REPL_STS.REJECT : Field := ⟨0x500104, 3, 1, false⟩
def EGS_REPL_STS.BUSY : Field := ⟨0x500104, 0, 1, false⟩
-- R389
def EGS_REPL_DATA.BYTES (k : Nat) : Field := ⟨0x500140 + 4 * k, 0, 32, false⟩
-- R389
def EGS_ING_SEL.FLOW : Field := ⟨0x500170, 0, 3, false⟩
-- R389
def EGS_ING_STS.ACTIVE : Field := ⟨0x500174, 31, 1, false⟩
def EGS_ING_STS.CHN : Field := ⟨0x500174, 0, 8, false⟩
-- R389
def EGS_CNT_ING_PKTS.COUNT : Field := ⟨0x500178, 0, 32, false⟩
-- R389
def EGS_CNT_ING_BAD.COUNT : Field := ⟨0x50017c, 0, 32, false⟩

/-! DMA page, base 0x700000, 8 page(s). -/

def DMA_FLT.BUF_PAR : Field := ⟨0x70001c, 0, 1, false⟩

-- R411
def DMA_ENG_STS.OUT_CH : Field := ⟨0x700040, 16, 5, false⟩
def DMA_ENG_STS.IN_CH : Field := ⟨0x700040, 8, 5, false⟩
def DMA_ENG_STS.OUT_BUSY : Field := ⟨0x700040, 1, 1, false⟩
def DMA_ENG_STS.IN_BUSY : Field := ⟨0x700040, 0, 1, false⟩
-- R411
def DMA_CNT_BYTES_IN.COUNT : Field := ⟨0x700048, 0, 64, true⟩
-- R411
def DMA_CNT_BYTES_OUT.COUNT : Field := ⟨0x700050, 0, 64, true⟩
-- R412
def DMA_CH_CFG.QIDX (k : Nat) : Field := ⟨0x700100 + 64 * k, 4, 3, false⟩
def DMA_CH_CFG.ROLE (k : Nat) : Field := ⟨0x700100 + 64 * k, 0, 2, false⟩
-- R412
def DMA_CH_CTL.D2H_ABORT (k : Nat) : Field := ⟨0x700104 + 64 * k, 9, 1, false⟩
def DMA_CH_CTL.H2D_ABORT (k : Nat) : Field := ⟨0x700104 + 64 * k, 8, 1, false⟩
def DMA_CH_CTL.D2H_EN (k : Nat) : Field := ⟨0x700104 + 64 * k, 1, 1, false⟩
def DMA_CH_CTL.H2D_EN (k : Nat) : Field := ⟨0x700104 + 64 * k, 0, 1, false⟩
-- R412
def DMA_CH_STS.H2D_LAST (k : Nat) : Field := ⟨0x700108 + 64 * k, 28, 4, false⟩
def DMA_CH_STS.D2H_LAST (k : Nat) : Field := ⟨0x700108 + 64 * k, 24, 4, false⟩
def DMA_CH_STS.D2H_WAIT (k : Nat) : Field := ⟨0x700108 + 64 * k, 9, 1, false⟩
def DMA_CH_STS.H2D_WAIT (k : Nat) : Field := ⟨0x700108 + 64 * k, 8, 1, false⟩
def DMA_CH_STS.D2H_ABORT_DONE (k : Nat) : Field := ⟨0x700108 + 64 * k, 5, 1, false⟩
def DMA_CH_STS.H2D_ABORT_DONE (k : Nat) : Field := ⟨0x700108 + 64 * k, 4, 1, false⟩
def DMA_CH_STS.D2H_IRQ (k : Nat) : Field := ⟨0x700108 + 64 * k, 1, 1, false⟩
def DMA_CH_STS.H2D_IRQ (k : Nat) : Field := ⟨0x700108 + 64 * k, 0, 1, false⟩
-- R412
def DMA_H2D_BASE.ADDR (k : Nat) : Field := ⟨0x700110 + 64 * k, 6, 58, true⟩
-- R412
def DMA_H2D_SIZE.N (k : Nat) : Field := ⟨0x700118 + 64 * k, 0, 17, false⟩
-- R412
def DMA_H2D_DB.COUNT (k : Nat) : Field := ⟨0x70011c + 64 * k, 0, 32, false⟩
-- R412
def DMA_D2H_BASE.ADDR (k : Nat) : Field := ⟨0x700120 + 64 * k, 6, 58, true⟩
-- R412
def DMA_D2H_SIZE.N (k : Nat) : Field := ⟨0x700128 + 64 * k, 0, 17, false⟩
-- R412
def DMA_D2H_DB.COUNT (k : Nat) : Field := ⟨0x70012c + 64 * k, 0, 32, false⟩
-- R411
def DMA_H2D_PTR.IDX (k : Nat) : Field := ⟨0x700130 + 64 * k, 0, 16, false⟩
-- R411
def DMA_D2H_PTR.IDX (k : Nat) : Field := ⟨0x700134 + 64 * k, 0, 16, false⟩
-- R411
def DMA_CH_CNT_DESC.COUNT (k : Nat) : Field := ⟨0x700138 + 64 * k, 0, 32, false⟩
-- R411
def DMA_CH_CNT_ERR.COUNT (k : Nat) : Field := ⟨0x70013c + 64 * k, 0, 32, false⟩

/-! PCI page, base 0x710000, 1 page(s). -/

def PCI_EVT.CPL_TO : Field := ⟨0x710010, 0, 1, false⟩
def PCI_EVT.POISON_RX : Field := ⟨0x710010, 1, 1, false⟩
def PCI_EVT.UR_RX : Field := ⟨0x710010, 2, 1, false⟩
def PCI_EVT.UNEXP_CPL : Field := ⟨0x710010, 3, 1, false⟩
def PCI_EVT.MALFORMED : Field := ⟨0x710010, 4, 1, false⟩
def PCI_FLT.RAM_PAR : Field := ⟨0x71001c, 0, 1, false⟩

-- R413
def PCI_LINK_STS.WIDTH : Field := ⟨0x710040, 16, 6, false⟩
def PCI_LINK_STS.UP : Field := ⟨0x710040, 9, 1, false⟩
def PCI_LINK_STS.L1 : Field := ⟨0x710040, 8, 1, false⟩
def PCI_LINK_STS.SPEED : Field := ⟨0x710040, 0, 4, false⟩
-- R413
def PCI_WIN2_POS.POS : Field := ⟨0x710044, 0, 7, false⟩
-- R413
def PCI_LTR.NOSNOOP : Field := ⟨0x710048, 16, 16, false⟩
def PCI_LTR.SNOOP : Field := ⟨0x710048, 0, 16, false⟩
-- R413
def PCI_L1_IDLE.US : Field := ⟨0x71004c, 0, 16, false⟩
-- R413
def PCI_ERR_STS.MALFORMED : Field := ⟨0x710050, 4, 1, false⟩
def PCI_ERR_STS.UNEXP_CPL : Field := ⟨0x710050, 3, 1, false⟩
def PCI_ERR_STS.UR_RX : Field := ⟨0x710050, 2, 1, false⟩
def PCI_ERR_STS.POISON_RX : Field := ⟨0x710050, 1, 1, false⟩
def PCI_ERR_STS.CPL_TO : Field := ⟨0x710050, 0, 1, false⟩
-- R413
def PCI_CNT_CORR.COUNT : Field := ⟨0x710054, 0, 32, false⟩
-- R413
def PCI_CNT_CPL_TO.COUNT : Field := ⟨0x710058, 0, 32, false⟩

/-! INT0 page, base 0x800000, 1 page(s). -/

def INT0_EVT.STRANDED : Field := ⟨0x800010, 0, 1, false⟩
def INT0_FLT.RT_PAR : Field := ⟨0x80001c, 0, 1, false⟩

-- R431
def INT_SRC_SEL.SRC : Field := ⟨0x800040, 0, 10, false⟩
-- R432
def INT_ROUTE.EDGE : Field := ⟨0x800044, 31, 1, false⟩
def INT_ROUTE.KIND : Field := ⟨0x800044, 16, 3, false⟩
def INT_ROUTE.VECTOR : Field := ⟨0x800044, 0, 11, false⟩
-- R431
def INT_STRANDED.SRCS (k : Nat) : Field := ⟨0x800080 + 4 * k, 0, 32, false⟩
-- R431
def INT_PEND.SRCS (k : Nat) : Field := ⟨0x800100 + 4 * k, 0, 32, false⟩
-- R431
def INT_MASK.SRCS (k : Nat) : Field := ⟨0x800180 + 4 * k, 0, 32, false⟩

/-! INT1 page, base 0x801000, 1 page(s). -/

-- R432
def INT_EXT_CFG.FILT (k : Nat) : Field := ⟨0x801040 + 4 * k, 16, 16, false⟩
def INT_EXT_CFG.INV (k : Nat) : Field := ⟨0x801040 + 4 * k, 2, 1, false⟩
def INT_EXT_CFG.MODE (k : Nat) : Field := ⟨0x801040 + 4 * k, 0, 2, false⟩
-- R431
def INT_EXT_LEVEL.SYNC : Field := ⟨0x801080, 16, 16, false⟩
def INT_EXT_LEVEL.FILTERED : Field := ⟨0x801080, 0, 16, false⟩
-- R431
def INT_EXT_EDGE.LATCH : Field := ⟨0x801084, 0, 16, false⟩

/-! INT2 page, base 0x802000, 1 page(s). -/


/-! INT3 page, base 0x803000, 1 page(s). -/


/-! HCCC page, base 0xd00000, 1 page(s). -/

def HCCC_EVT.MBX_DONE : Field := ⟨0xd00010, 0, 1, false⟩
def HCCC_EVT.NTF_AVAIL : Field := ⟨0xd00010, 1, 1, false⟩

-- R433
def HCC_MBX_CFG.CORE : Field := ⟨0xd00040, 0, 2, false⟩
-- R433
def HCC_MBX_CMD.SEQ : Field := ⟨0xd00044, 16, 16, false⟩
def HCC_MBX_CMD.OP : Field := ⟨0xd00044, 0, 8, false⟩
-- R433
def HCC_MBX_STS.SEQ : Field := ⟨0xd00048, 16, 16, false⟩
def HCC_MBX_STS.RESULT : Field := ⟨0xd00048, 4, 4, false⟩
def HCC_MBX_STS.REJECT : Field := ⟨0xd00048, 3, 1, false⟩
def HCC_MBX_STS.BUSY : Field := ⟨0xd00048, 0, 1, false⟩
-- R433
def HCC_MBX_DONE.RESULT : Field := ⟨0xd0004c, 4, 4, false⟩
-- R433
def HCC_NTF_POST.POST : Field := ⟨0xd00050, 0, 1, false⟩
-- R433
def HCC_NTF_STS.VALID : Field := ⟨0xd00054, 0, 1, false⟩
-- R433
def HCC_UART_CFG.EN : Field := ⟨0xd00060, 16, 1, false⟩
def HCC_UART_CFG.DIV : Field := ⟨0xd00060, 0, 16, false⟩
-- R433
def HCC_UART_DATA.VALID : Field := ⟨0xd00064, 8, 1, false⟩
def HCC_UART_DATA.BYTE : Field := ⟨0xd00064, 0, 8, false⟩
-- R433
def HCC_UART_STS.RX_COUNT : Field := ⟨0xd00068, 16, 5, false⟩
def HCC_UART_STS.TX_COUNT : Field := ⟨0xd00068, 8, 5, false⟩
def HCC_UART_STS.RX_OVF : Field := ⟨0xd00068, 1, 1, false⟩
def HCC_UART_STS.TX_OVF : Field := ⟨0xd00068, 0, 1, false⟩
-- R433
def HCC_MBX_DATA.BYTES (k : Nat) : Field := ⟨0xd00080 + 4 * k, 0, 32, false⟩
-- R433
def HCC_NTF_DATA.BYTES (k : Nat) : Field := ⟨0xd000c0 + 4 * k, 0, 32, false⟩

/-! HCC page, base 0xd01000, 4 page(s). -/

def HCC_FLT.SRAM_UE : Field := ⟨0xd0101c, 0, 1, false⟩

-- R433
def HCC_CTL.OFFLINE : Field := ⟨0xd01040, 0, 1, false⟩
-- R433
def HCC_STS.STATE : Field := ⟨0xd01044, 0, 2, false⟩
-- R433
def HCC_IPEND.SRCS : Field := ⟨0xd01048, 0, 32, false⟩
-- R433
def HCC_IMASK.SRCS : Field := ⟨0xd0104c, 0, 32, false⟩
-- R433
def HCC_DBELL.RING : Field := ⟨0xd01050, 0, 1, false⟩
-- R433
def HCC_DBELL_LATCH.LATCH : Field := ⟨0xd01054, 0, 6, false⟩
-- R433
def HCC_TIMER.COMPARE : Field := ⟨0xd01058, 0, 64, true⟩
-- R433
def HCC_CMO_ADDR.ADDR : Field := ⟨0xd01060, 6, 34, true⟩
-- R433
def HCC_CMO_LEN.BYTES : Field := ⟨0xd01068, 0, 24, false⟩
-- R433
def HCC_CMO_CMD.OP : Field := ⟨0xd0106c, 0, 3, false⟩
-- R433
def HCC_CMO_STS.BUSY : Field := ⟨0xd01070, 0, 1, false⟩

/-! FLT0 page, base 0x810000, 1 page(s). -/

def FLT0_EVT.C_NEW : Field := ⟨0x810010, 0, 1, false⟩
def FLT0_EVT.U_NEW : Field := ⟨0x810010, 1, 1, false⟩
def FLT0_FLT.COL_PAR : Field := ⟨0x81001c, 0, 1, false⟩
def FLT0_FLT.FAB_CE : Field := ⟨0x81001c, 1, 1, false⟩
def FLT0_FLT.FAB_UE : Field := ⟨0x81001c, 2, 1, false⟩

-- R451
def FLT_PEND.SAFE : Field := ⟨0x810040, 8, 1, false⟩
def FLT_PEND.F : Field := ⟨0x810040, 2, 1, false⟩
def FLT_PEND.U : Field := ⟨0x810040, 1, 1, false⟩
def FLT_PEND.C : Field := ⟨0x810040, 0, 1, false⟩
-- R451
def FLT_ACK.F : Field := ⟨0x810044, 2, 1, false⟩
def FLT_ACK.U : Field := ⟨0x810044, 1, 1, false⟩
def FLT_ACK.C : Field := ⟨0x810044, 0, 1, false⟩
-- R450
def FLT_CNT.COUNT (k : Nat) : Field := ⟨0x810048 + 4 * k, 0, 32, false⟩
-- R451
def FLT_INJECT.GO : Field := ⟨0x810058, 31, 1, false⟩
def FLT_INJECT.SRC : Field := ⟨0x810058, 0, 9, false⟩
-- R452
def FLT_CAP_ADDR.ADDR (k : Nat) : Field := ⟨0x810060 + 32 * k, 0, 48, true⟩
-- R452
def FLT_CAP_INFO.VALID (k : Nat) : Field := ⟨0x810068 + 32 * k, 31, 1, false⟩
def FLT_CAP_INFO.ESC (k : Nat) : Field := ⟨0x810068 + 32 * k, 30, 1, false⟩
def FLT_CAP_INFO.ACC (k : Nat) : Field := ⟨0x810068 + 32 * k, 27, 3, false⟩
def FLT_CAP_INFO.SRC (k : Nat) : Field := ⟨0x810068 + 32 * k, 16, 9, false⟩
def FLT_CAP_INFO.MASTER (k : Nat) : Field := ⟨0x810068 + 32 * k, 0, 10, false⟩
-- R452
def FLT_CAP_TIME.TIME (k : Nat) : Field := ⟨0x810070 + 32 * k, 0, 64, true⟩

/-! FLT1 page, base 0x811000, 1 page(s). -/

def FLT1_EVT.F_NEW : Field := ⟨0x811010, 0, 1, false⟩
def FLT1_EVT.ESC : Field := ⟨0x811010, 1, 1, false⟩

-- R450
def FLT_SRC_SEL.SRC : Field := ⟨0x811040, 0, 9, false⟩
-- R453
def FLT_SRC_CFG.CLASS : Field := ⟨0x811044, 30, 2, false⟩
def FLT_SRC_CFG.REACT : Field := ⟨0x811044, 16, 3, false⟩
def FLT_SRC_CFG.COLLECT : Field := ⟨0x811044, 0, 1, false⟩
-- R450
def FLT_SRC_LIVE.SRCS (k : Nat) : Field := ⟨0x811080 + 4 * k, 0, 32, false⟩

/-! WDG page, base 0x820000, 1 page(s). -/

def WDG_EVT.EXP0 : Field := ⟨0x820010, 0, 1, false⟩
def WDG_EVT.EXP1 : Field := ⟨0x820010, 1, 1, false⟩
def WDG_EVT.EXP2 : Field := ⟨0x820010, 2, 1, false⟩
def WDG_EVT.EXP3 : Field := ⟨0x820010, 3, 1, false⟩
def WDG_EVT.EXP4 : Field := ⟨0x820010, 4, 1, false⟩
def WDG_FLT.HERD_EXP : Field := ⟨0x82001c, 0, 1, false⟩
def WDG_FLT.SEC_EXP : Field := ⟨0x82001c, 1, 1, false⟩

-- R454
def WDG_CFG.EN (k : Nat) : Field := ⟨0x820040 + 16 * k, 31, 1, false⟩
def WDG_CFG.LIMIT (k : Nat) : Field := ⟨0x820040 + 16 * k, 0, 24, false⟩
-- R454
def WDG_KICK.KEY (k : Nat) : Field := ⟨0x820044 + 16 * k, 0, 16, false⟩
-- R454
def WDG_STS.EXPIRED (k : Nat) : Field := ⟨0x820048 + 16 * k, 31, 1, false⟩
def WDG_STS.REMAIN (k : Nat) : Field := ⟨0x820048 + 16 * k, 0, 24, false⟩

/-! BGS page, base 0x900000, 1 page(s). -/

def BGS_EVT.CAL_DONE : Field := ⟨0x900010, 0, 1, false⟩
def BGS_EVT.CAL_ABORT : Field := ⟨0x900010, 1, 1, false⟩
def BGS_EVT.TLM : Field := ⟨0x900010, 2, 1, false⟩
def BGS_EVT.TEMP_HIGH : Field := ⟨0x900010, 3, 1, false⟩
def BGS_EVT.PMB_DONE : Field := ⟨0x900010, 4, 1, false⟩
def BGS_EVT.SCRUB_PASS : Field := ⟨0x900010, 5, 1, false⟩
def BGS_FLT.SCRUB_CE : Field := ⟨0x90001c, 0, 1, false⟩
def BGS_FLT.SCRUB_UE : Field := ⟨0x90001c, 1, 1, false⟩
def BGS_FLT.STORE_ERR : Field := ⟨0x90001c, 2, 1, false⟩

-- R480
def BGS_SCRUB_CFG.HOURS : Field := ⟨0x900040, 16, 8, false⟩
def BGS_SCRUB_CFG.EN : Field := ⟨0x900040, 0, 1, false⟩
-- R479
def BGS_SCRUB_POS.UNIT : Field := ⟨0x900044, 0, 25, false⟩
-- R480
def BGS_SSCRUB_CFG.SEC : Field := ⟨0x900048, 16, 16, false⟩
def BGS_SSCRUB_CFG.EN : Field := ⟨0x900048, 0, 1, false⟩
-- R480
def BGS_CAL_CMD.ABORT : Field := ⟨0x90004c, 9, 1, false⟩
def BGS_CAL_CMD.START : Field := ⟨0x90004c, 8, 1, false⟩
def BGS_CAL_CMD.HMC : Field := ⟨0x90004c, 0, 5, false⟩
-- R480
def BGS_CAL_STS.BUSY : Field := ⟨0x900050, 31, 1, false⟩
def BGS_CAL_STS.OUTCOME : Field := ⟨0x900050, 28, 3, false⟩
def BGS_CAL_STS.OPP_MOVED : Field := ⟨0x900050, 27, 1, false⟩
def BGS_CAL_STS.REJECT : Field := ⟨0x900050, 8, 1, false⟩
def BGS_CAL_STS.HMC : Field := ⟨0x900050, 0, 5, false⟩
-- R480
def BGS_CAL_LIMITS.MIN_WIDTH : Field := ⟨0x900054, 8, 7, false⟩
def BGS_CAL_LIMITS.MAX_SHIFT : Field := ⟨0x900054, 0, 4, false⟩
-- R480
def BGS_CAL_TMO.MS : Field := ⟨0x900058, 0, 16, false⟩
-- R479
def BGS_CAL_SEL.TRIM : Field := ⟨0x90005c, 0, 5, false⟩
-- R480
def BGS_CAL_MASK.MASK : Field := ⟨0x900060, 0, 64, true⟩
-- R480
def BGS_CAL_RES.ACCEPT : Field := ⟨0x900068, 31, 1, false⟩
def BGS_CAL_RES.NEW : Field := ⟨0x900068, 24, 7, false⟩
def BGS_CAL_RES.WIDTH : Field := ⟨0x900068, 16, 7, false⟩
def BGS_CAL_RES.SHIFT : Field := ⟨0x900068, 0, 7, false⟩
-- R480
def BGS_TLM_CFG.SLOTS : Field := ⟨0x900070, 16, 6, false⟩
def BGS_TLM_CFG.EN : Field := ⟨0x900070, 0, 1, false⟩
-- R480
def BGS_TLM_BASE.ADDR : Field := ⟨0x900074, 12, 52, true⟩
-- R479
def BGS_TLM_SEQ.SEQ : Field := ⟨0x90007c, 0, 32, false⟩
-- R479
def BGS_TEMP.HI (k : Nat) : Field := ⟨0x900080 + 4 * k, 16, 16, false⟩
def BGS_TEMP.LO (k : Nat) : Field := ⟨0x900080 + 4 * k, 0, 16, false⟩
-- R479
def BGS_TEMP_ALARM.LIMIT : Field := ⟨0x9000a0, 0, 16, false⟩
-- R479
def BGS_RAIL.HI (k : Nat) : Field := ⟨0x9000a4 + 4 * k, 16, 16, false⟩
def BGS_RAIL.LO (k : Nat) : Field := ⟨0x9000a4 + 4 * k, 0, 16, false⟩
-- R480
def BGS_PMB_CMD.GO : Field := ⟨0x9000c0, 31, 1, false⟩
def BGS_PMB_CMD.OP : Field := ⟨0x9000c0, 24, 3, false⟩
def BGS_PMB_CMD.PEC : Field := ⟨0x9000c0, 23, 1, false⟩
def BGS_PMB_CMD.ADDR : Field := ⟨0x9000c0, 16, 7, false⟩
def BGS_PMB_CMD.CODE : Field := ⟨0x9000c0, 8, 8, false⟩
-- R479
def BGS_PMB_DATA.DATA : Field := ⟨0x9000c4, 0, 16, false⟩
-- R480
def BGS_PMB_STS.BUSY : Field := ⟨0x9000c8, 31, 1, false⟩
def BGS_PMB_STS.TIMEOUT : Field := ⟨0x9000c8, 3, 1, false⟩
def BGS_PMB_STS.PEC_ERR : Field := ⟨0x9000c8, 2, 1, false⟩
def BGS_PMB_STS.NACK : Field := ⟨0x9000c8, 1, 1, false⟩
def BGS_PMB_STS.DONE : Field := ⟨0x9000c8, 0, 1, false⟩
-- R479
def BGS_CNT_SCRUB_PASS.COUNT : Field := ⟨0x9000d0, 0, 32, false⟩
-- R479
def BGS_CNT_SSCRUB_CE.COUNT : Field := ⟨0x9000d4, 0, 32, false⟩
-- R479
def BGS_CNT_CAL_ABORT.COUNT : Field := ⟨0x9000d8, 0, 32, false⟩
-- R479
def BGS_CNT_TLM_SKIP.COUNT : Field := ⟨0x9000dc, 0, 32, false⟩

/-! ANT page, base 0x910000, 221 page(s). -/

def ANT_EVT.MEAS_DONE : Field := ⟨0x910010, 0, 1, false⟩

-- R481
def ANT_CMD.MEASURE : Field := ⟨0x910040, 0, 1, false⟩
-- R481
def ANT_STS.BUSY : Field := ⟨0x910044, 31, 1, false⟩
def ANT_STS.VALID : Field := ⟨0x910044, 30, 1, false⟩
def ANT_STS.NOCLK : Field := ⟨0x910044, 29, 1, false⟩
def ANT_STS.FAIL : Field := ⟨0x910044, 28, 1, false⟩
def ANT_STS.SLACK : Field := ⟨0x910044, 16, 8, false⟩
def ANT_STS.TINE : Field := ⟨0x910044, 8, 3, false⟩
-- R481
def ANT_SLACK.PS (k : Nat) : Field := ⟨0x910048 + 4 * k, 0, 32, false⟩
-- R481
def ANT_ROSC_S.COUNT : Field := ⟨0x910050, 0, 32, false⟩
-- R481
def ANT_ROSC_U.COUNT : Field := ⟨0x910054, 0, 32, false⟩
-- R481
def ANT_CFG.WINDOW : Field := ⟨0x910058, 0, 16, false⟩
-- R481
def ANT_TIME.TIME : Field := ⟨0x91005c, 0, 64, true⟩
-- R481
def ANT_CNT_MEAS.COUNT : Field := ⟨0x910064, 0, 32, false⟩

/-! CLK page, base 0xa00000, 221 page(s). -/

def CLK_EVT.OPP_DONE : Field := ⟨0xa00010, 0, 1, false⟩
def CLK_EVT.LOCK_LOSS : Field := ⟨0xa00010, 1, 1, false⟩
def CLK_EVT.UNDERRUN : Field := ⟨0xa00010, 2, 1, false⟩
def CLK_FLT.PX_LOCK_LOSS : Field := ⟨0xa0001c, 0, 1, false⟩
def CLK_FLT.LOCK_LOSS : Field := ⟨0xa0001c, 1, 1, false⟩

-- R525
def CLK_OPP.VSET : Field := ⟨0xa00040, 0, 6, false⟩
-- R526
def CLK_STS.LOCK : Field := ⟨0xa00044, 31, 1, false⟩
def CLK_STS.CHANGING : Field := ⟨0xa00044, 30, 1, false⟩
def CLK_STS.HELD : Field := ⟨0xa00044, 29, 1, false⟩
def CLK_STS.VSET : Field := ⟨0xa00044, 16, 6, false⟩
def CLK_STS.FREQ : Field := ⟨0xa00044, 0, 16, false⟩
-- R524
def CLK_FMEAS.KHZ : Field := ⟨0xa00048, 0, 24, false⟩
-- R524
def CLK_CNT_LOCK_LOSS.COUNT : Field := ⟨0xa0004c, 0, 32, false⟩
-- R524
def CLK_CNT_UNDERRUN.COUNT : Field := ⟨0xa00050, 0, 32, false⟩
-- R527
def CLK_RST_CMD.KEY : Field := ⟨0xa00080, 16, 16, false⟩
def CLK_RST_CMD.DEVICE : Field := ⟨0xa00080, 0, 1, false⟩
-- R527
def CLK_RST_CAUSE.SEC : Field := ⟨0xa00084, 2, 1, false⟩
def CLK_RST_CAUSE.HOST : Field := ⟨0xa00084, 1, 1, false⟩
def CLK_RST_CAUSE.PORST : Field := ⟨0xa00084, 0, 1, false⟩

/-! SEC page, base 0xc00000, 1 page(s). -/

def SEC_EVT.HMBX_DONE : Field := ⟨0xc00010, 0, 1, false⟩
def SEC_EVT.FMBX_DONE : Field := ⟨0xc00010, 1, 1, false⟩
def SEC_EVT.UPD_STATE : Field := ⟨0xc00010, 2, 1, false⟩
def SEC_FLT.SEC_FAULT : Field := ⟨0xc0001c, 0, 1, false⟩

-- R507
def SEC_BOOT_STS.READY : Field := ⟨0xc00040, 31, 1, false⟩
def SEC_BOOT_STS.ROM_ERR : Field := ⟨0xc00040, 30, 1, false⟩
def SEC_BOOT_STS.SKIPPED : Field := ⟨0xc00040, 20, 2, false⟩
def SEC_BOOT_STS.ATTEMPTS : Field := ⟨0xc00040, 16, 2, false⟩
def SEC_BOOT_STS.TRIAL : Field := ⟨0xc00040, 12, 1, false⟩
def SEC_BOOT_STS.SLOT : Field := ⟨0xc00040, 8, 1, false⟩
def SEC_BOOT_STS.RECOVERY : Field := ⟨0xc00040, 4, 1, false⟩
def SEC_BOOT_STS.FAWN_COPY : Field := ⟨0xc00040, 0, 1, false⟩
-- R507
def SEC_LC.LC : Field := ⟨0xc00044, 28, 4, false⟩
def SEC_LC.DBG : Field := ⟨0xc00044, 8, 2, false⟩
def SEC_LC.PW_FAILS : Field := ⟨0xc00044, 0, 3, false⟩
-- R506
def SEC_ARB_CNT.COUNT : Field := ⟨0xc00048, 0, 7, false⟩
-- R507
def SEC_UPD_STS.STATE : Field := ⟨0xc0004c, 28, 4, false⟩
def SEC_UPD_STS.REASON : Field := ⟨0xc0004c, 16, 8, false⟩
def SEC_UPD_STS.FILE : Field := ⟨0xc0004c, 0, 5, false⟩
-- R506
def SEC_UPD_PROG.NCHUNK : Field := ⟨0xc00050, 16, 16, false⟩
def SEC_UPD_PROG.WRITTEN : Field := ⟨0xc00050, 0, 16, false⟩
-- R506
def SEC_HERD_CTL.RESET : Field := ⟨0xc00060, 0, 4, false⟩
-- R506
def SEC_HERD_VEC.VEC : Field := ⟨0xc00064, 0, 64, true⟩
-- R508
def SEC_HMBX_CMD.SEQ : Field := ⟨0xc00080, 16, 16, false⟩
def SEC_HMBX_CMD.OP : Field := ⟨0xc00080, 0, 8, false⟩
-- R508
def SEC_HMBX_STS.SEQ : Field := ⟨0xc00084, 16, 16, false⟩
def SEC_HMBX_STS.DETAIL : Field := ⟨0xc00084, 8, 8, false⟩
def SEC_HMBX_STS.RESULT : Field := ⟨0xc00084, 4, 4, false⟩
def SEC_HMBX_STS.REJECT : Field := ⟨0xc00084, 3, 1, false⟩
def SEC_HMBX_STS.BUSY : Field := ⟨0xc00084, 0, 1, false⟩
-- R506
def SEC_HMBX_DATA.BYTES (k : Nat) : Field := ⟨0xc00100 + 4 * k, 0, 32, false⟩
-- R508
def SEC_FMBX_CMD.SEQ : Field := ⟨0xc00180, 16, 16, false⟩
def SEC_FMBX_CMD.OP : Field := ⟨0xc00180, 0, 8, false⟩
-- R508
def SEC_FMBX_STS.SEQ : Field := ⟨0xc00184, 16, 16, false⟩
def SEC_FMBX_STS.DETAIL : Field := ⟨0xc00184, 8, 8, false⟩
def SEC_FMBX_STS.RESULT : Field := ⟨0xc00184, 4, 4, false⟩
def SEC_FMBX_STS.REJECT : Field := ⟨0xc00184, 3, 1, false⟩
def SEC_FMBX_STS.BUSY : Field := ⟨0xc00184, 0, 1, false⟩
-- R506
def SEC_FMBX_DATA.BYTES (k : Nat) : Field := ⟨0xc00200 + 4 * k, 0, 32, false⟩
-- R506
def SEC_HMBX_DATA_HI.BYTES (k : Nat) : Field := ⟨0xc00280 + 4 * k, 0, 32, false⟩

end Sys2Proof.Machine
end

