-- ==== Sys2Proof/Machine/RegTable.lean ====
section
/-!
DEFINITION. The register table: for every page kind of R19 the registers at 0x040 and above that have a writable field
or a reset value other than 0, with the access code and qualifier of each writable field (R8, R27 to R31) and the
register's reset value.  A field that has a row of its own in the table of operations carries the code .own: the
general register write leaves it alone, its row writes it.
-/

namespace Sys2Proof.Machine

def regsGLB : List RegDesc := [
  ⟨0x40, 1, 0, .single, .none, none, 0x25601a1, []⟩,  -- GLB_DEV_ID
  ⟨0x44, 1, 0, .single, .none, none, 0x4b480256, []⟩,  -- GLB_HW_TYPE
  ⟨0x68, 1, 0, .single, .none, none, 0x4000000, [.rwL 31 0]⟩,  -- GLB_TIME_INC
  ⟨0x70, 1, 0, .low, .none, none, 0x0, [.rwL 31 0]⟩,  -- GLB_TIME_SET
  ⟨0x74, 1, 0, .high, .none, none, 0x0, [.rwL 31 0]⟩,  -- GLB_TIME_SET
  ⟨0x78, 1, 0, .single, .none, none, 0x0, [.own 1 1, .own 0 0]⟩,  -- GLB_TIME_CMD
  ⟨0x80, 1, 0, .single, .none, none, 0x0, [.w1c 1 1, .w1c 0 0]⟩  -- GLB_ACC_STS
  ]

def regsCHN_0 : List RegDesc := [
  ⟨0x40, 1, 0, .single, .none, none, 0x0, [.own 2 0]⟩,  -- CHN_CMD
  ⟨0x44, 1, 0, .single, .none, none, 0x0, [.w1c 3 3]⟩,  -- CHN_CMD_STS
  ⟨0x4c, 1, 0, .single, .none, none, 0x0, [.rwI 5 5, .rwI 4 2, .rwI 1 1, .rwI 0 0]⟩,  -- CHN_MODE
  ⟨0x50, 1, 0, .single, .none, none, 0x0, [.rwI 15 8, .rwI 2 0]⟩,  -- CHN_SRC
  ⟨0x54, 1, 0, .single, .none, none, 0x0, [.rwI 2 2, .rwI 1 1, .rwI 0 0]⟩,  -- CHN_SINK
  ⟨0x58, 1, 0, .single, .none, none, 0x100, [.rwI 11 8, .rwI 7 0]⟩,  -- CHN_GROUP
  ⟨0x5c, 1, 0, .single, .none, none, 0x4380780, [.rwI 31 16, .rwI 15 0]⟩,  -- CHN_PIC_SIZE
  ⟨0x60, 1, 0, .single, .none, none, 0x3c0001, [.rwI 31 16, .rwI 15 0]⟩,  -- CHN_FRATE
  ⟨0x64, 1, 0, .single, .none, none, 0x0, [.rwI 1 1, .rwI 0 0]⟩,  -- CHN_FORMAT
  ⟨0x68, 1, 0, .single, .none, none, 0x4004e20, [.rwI 27 24, .rwI 19 0]⟩,  -- CHN_DEC_LIMITS
  ⟨0x6c, 1, 0, .single, .none, none, 0x10, [.rwW 7 0]⟩,  -- CHN_SCHED_WEIGHT
  ⟨0x80, 1, 0, .single, .none, none, 0x10010, [.rwI 19 16, .rwI 11 4, .rwI 0 0]⟩,  -- CHN_ENC_STRUCT
  ⟨0x84, 1, 0, .single, .none, none, 0x3c0000, [.rwI 31 16, .rwW 5 5, .rwI 4 4, .rwI 3 2, .rwI 1 0]⟩,  -- CHN_ENC_GOP
  ⟨0x88, 1, 0, .single, .none, none, 0x2, [.rwI 2 0]⟩,  -- CHN_ENC_REFS
  ⟨0x8c, 1, 0, .single, .none, none, 0x43f, [.rwW 23 20, .rwW 19 16, .rwW 11 8, .rwW 5 5, .rwI 4 4, .rwW 3 3, .rwW 2 2, .rwI 1 1, .rwW 0 0]⟩,  -- CHN_ENC_TOOLS
  ⟨0x90, 1, 0, .single, .none, none, 0x10101, [.rwI 31 31, .rwI 24 24, .rwI 23 16, .rwI 15 8, .rwI 7 0]⟩,  -- CHN_ENC_COLOUR
  ⟨0x94, 1, 0, .single, .none, none, 0x0, [.rwI 4 4, .rwW 1 0]⟩,  -- CHN_ENC_SCALE
  ⟨0x98, 1, 0, .single, .none, none, 0x3, [.rwI 3 0]⟩,  -- CHN_ENC_SRC_BUFS
  ⟨0x9c, 1, 0, .single, .none, none, 0x0, [.own 0 0]⟩,  -- CHN_ENC_FORCE
  ⟨0x100, 1, 0, .single, .none, none, 0xc0300, [.rwW 20 16, .rwW 11 8, .rwI 4 4, .rwI 1 0]⟩,  -- CHN_RC_MODE
  ⟨0x104, 1, 0, .single, .none, none, 0x1f40, [.rwW 19 0]⟩,  -- CHN_RC_TARGET
  ⟨0x108, 1, 0, .single, .none, none, 0x2ee0, [.rwW 19 0]⟩,  -- CHN_RC_PEAK
  ⟨0x10c, 1, 0, .single, .none, none, 0x3201f4, [.rwI 22 16, .rwI 13 0]⟩,  -- CHN_RC_BUF
  ⟨0x110, 1, 0, .single, .none, none, 0x1e3300, [.rwW 23 16, .rwW 15 8, .rwW 7 0]⟩,  -- CHN_RC_QP
  ⟨0x140, 1, 0, .single, .none, none, 0xff0400, [.rwI 23 16, .rwI 11 8, .rwI 2 0]⟩,  -- CHN_DEC_CFG
  ⟨0x144, 1, 0, .single, .none, none, 0x8000014, [.rwI 31 16, .rwW 9 0]⟩,  -- CHN_DEC_JB
  ⟨0x148, 1, 0, .single, .none, none, 0x100, [.rwI 12 0]⟩,  -- CHN_DEC_TS
  ⟨0x14c, 1, 0, .single, .none, none, 0x0, [.w1c 3 3]⟩,  -- CHN_DEC_STS
  ⟨0x154, 1, 0, .single, .none, none, 0x0, [.own 4 4, .own 3 0]⟩,  -- CHN_DEC_OUT_RD
  ⟨0x180, 1, 0, .single, .none, none, 0x1214, [.rwW 16 16, .rwI 12 12, .rwW 11 8, .rwW 7 0]⟩,  -- CHN_HOLD_CFG
  ⟨0x184, 1, 0, .single, .none, none, 0x2710, [.rwW 31 0]⟩,  -- CHN_HOLD_STILL_MS
  ⟨0x188, 1, 0, .low, .none, none, 0x0, [.rwW 31 12]⟩,  -- CHN_HOLD_STILL_ADDR
  ⟨0x18c, 1, 0, .high, .none, none, 0x0, [.rwW 2 0]⟩,  -- CHN_HOLD_STILL_ADDR
  ⟨0x190, 1, 0, .single, .none, none, 0x0, [.own 2 2, .own 1 1, .own 0 0]⟩,  -- CHN_HOLD_CMD
  ⟨0x1c0, 1, 0, .single, .none, none, 0x5dc0000, [.rwI 26 16, .rwI 5 4, .rwI 1 0]⟩,  -- CHN_PKT_CFG
  ⟨0x1c4, 1, 0, .single, .none, none, 0x610060, [.rwI 22 16, .rwI 6 0]⟩,  -- CHN_PKT_RTP
  ⟨0x1c8, 1, 0, .single, .none, none, 0x0, [.rwI 31 0]⟩,  -- CHN_PKT_SSRC
  ⟨0x1cc, 1, 0, .single, .none, none, 0x0, [.rwI 31 0]⟩,  -- CHN_PKT_RTX_SSRC
  ⟨0x1d0, 1, 0, .single, .none, none, 0x138c4000, [.rwI 31 16, .rwW 15 8, .rwW 5 0]⟩,  -- CHN_PKT_IP
  ⟨0x1d4, 1, 0, .single, .none, none, 0x10000100, [.rwI 28 16, .rwI 12 0]⟩  -- CHN_PKT_TS
  ]

def regsCHN_1 : List RegDesc := [
  ⟨0x1d8, 2, 4, .single, .none, none, 0x0, [.rwI 31 31, .rwI 28 16, .rwI 7 0]⟩,  -- CHN_PKT_AUD
  ⟨0x1e0, 1, 0, .single, .none, none, 0x140064, [.rwI 31 31, .rwW 23 16, .rwI 8 0]⟩,  -- CHN_RTX_CFG
  ⟨0x240, 1, 0, .single, .none, none, 0x2200220, [.rwW 26 24, .rwW 22 20, .rwW 16 16, .rwW 10 8, .rwW 6 4, .rwW 0 0]⟩  -- CHN_SURF_MODE
  ]

def regsCHN : List RegDesc := regsCHN_0 ++ regsCHN_1

def regsRCT : List RegDesc := [
  ⟨0x40, 1, 0, .single, .none, none, 0x0, [.rwL 7 0]⟩,  -- RCT_CTX_SEL
  ⟨0x44, 1, 0, .single, .rctctxsel, none, 0x0, [.rwL 31 0]⟩,  -- RCT_CTX_M_P
  ⟨0x48, 1, 0, .single, .rctctxsel, none, 0x0, [.rwL 31 0]⟩,  -- RCT_CTX_M_I
  ⟨0x4c, 1, 0, .single, .rctctxsel, none, 0x0, [.rwL 31 24, .rwL 23 16, .rwL 15 8, .rwL 7 0]⟩,  -- RCT_CTX_BW
  ⟨0x50, 1, 0, .single, .rctctxsel, none, 0x0, [.own 15 0]⟩,  -- RCT_CTX_COMMIT
  ⟨0x54, 1, 0, .single, .rctctxsel, none, 0x0, []⟩,  -- RCT_CTX_SEQ
  ⟨0x58, 1, 0, .single, .none, none, 0x0, [.rwI 31 0]⟩,  -- RCT_REC_BASE
  ⟨0x5c, 1, 0, .single, .none, none, 0x0, [.rwI 31 0]⟩,  -- RCT_REC_SIZE
  ⟨0x64, 1, 0, .single, .none, none, 0x0, [.rwL 31 0]⟩  -- RCT_REC_RD
  ]

def regsENE : List RegDesc := [
  ⟨0x40, 1, 0, .single, .none, none, 0x1, [.own 3 3, .own 2 2, .own 1 1, .rwL 0 0]⟩,  -- ENE_CTL
  ⟨0x4c, 1, 0, .single, .none, none, 0x0, [.own 31 31, .own 7 0]⟩,  -- ENE_MOVE
  ⟨0x50, 1, 0, .single, .none, none, 0x0, [.rwI 11 0]⟩,  -- ENE_UC_ADDR
  ⟨0x54, 1, 0, .single, .none, none, 0x0, [.rwI 31 0]⟩,  -- ENE_UC_LO
  ⟨0x58, 1, 0, .single, .none, none, 0x0, [.own 15 0]⟩,  -- ENE_UC_HI
  ⟨0x5c, 1, 0, .single, .none, none, 0x0, [.rwI 15 0]⟩  -- ENE_UC_GEN
  ]

def regsPXE : List RegDesc := [
  ⟨0x40, 1, 0, .single, .none, none, 0x0, [.rwW 4 4, .own 3 3, .own 2 2, .own 1 1, .own 0 0]⟩,  -- PXE_CTL
  ⟨0x48, 1, 0, .single, .none, none, 0x14006e, [.rwW 21 16, .rwW 7 0]⟩,  -- PXE_OPP
  ⟨0x4c, 1, 0, .single, .none, none, 0x14006e, []⟩,  -- PXE_OPP_STS
  ⟨0x50, 1, 0, .single, .none, none, 0x0, [.own 8 8, .own 1 0]⟩,  -- PXE_UC_CMD
  ⟨0x54, 1, 0, .single, .none, none, 0x0, [.rwI 31 16, .rwI 13 0]⟩,  -- PXE_UC_LOADCFG
  ⟨0x58, 1, 0, .low, .none, none, 0x0, [.rwI 31 6]⟩,  -- PXE_UC_SRC
  ⟨0x5c, 1, 0, .high, .none, none, 0x0, [.rwI 2 0]⟩,  -- PXE_UC_SRC
  ⟨0x68, 1, 0, .single, .none, none, 0x0, [.rwI 13 0]⟩,  -- PXE_UC_RADDR
  ⟨0x74, 1, 0, .single, .none, none, 0x80, [.rwW 7 0]⟩  -- PXE_WDOG
  ]

def regsWDP : List RegDesc := [
  ⟨0x40, 1, 0, .single, .none, none, 0x30001, [.rwL 18 16, .rwL 0 0]⟩,  -- WDP_CTL
  ⟨0x48, 1, 0, .single, .none, none, 0x0, [.own 19 0]⟩,  -- WDP_ADMIT_BUDGET
  ⟨0x4c, 1, 0, .single, .none, none, 0x0, [.own 19 0]⟩,  -- WDP_LIVE_RSV
  ⟨0x50, 1, 0, .single, .none, none, 0x0, [.rwL 7 0]⟩,  -- WDP_LIVE_ENG
  ⟨0x54, 1, 0, .single, .none, none, 0x40, [.rwW 15 0]⟩,  -- WDP_RR_QUANTUM
  ⟨0x58, 1, 0, .single, .none, none, 0x0, [.own 31 31, .own 23 16, .own 15 0]⟩,  -- WDP_GEN_CMD
  ⟨0x5c, 1, 0, .single, .none, none, 0x0, [.rwL 7 0]⟩,  -- WDP_CHN_SEL
  ⟨0x60, 1, 0, .single, .wdpchnsel, none, 0x0, []⟩,  -- WDP_CHN_GEN
  ⟨0x64, 1, 0, .single, .wdpchnsel, none, 0x0, []⟩  -- WDP_CHN_JOBS
  ]

def regsHMC : List RegDesc := [
  ⟨0x40, 1, 0, .single, .none, none, 0x2, [.rwL 2 2, .rwL 1 1, .rwI 0 0]⟩,  -- HMC_CTL
  ⟨0x44, 1, 0, .single, .none, none, 0x2, []⟩,  -- HMC_STS
  ⟨0x48, 1, 0, .single, .none, none, 0x0, [.own 0 0]⟩,  -- HMC_TRIM_CMD
  ⟨0x50, 2, 4, .single, .none, none, 0x40404040, [.rwL 30 24, .rwL 22 16, .rwL 14 8, .rwL 6 0]⟩,  -- HMC_TRIM_RD
  ⟨0x58, 1, 0, .single, .none, none, 0x4040, [.rwL 14 8, .rwL 6 0]⟩,  -- HMC_TRIM_RD_2
  ⟨0x5c, 2, 4, .single, .none, none, 0x40404040, [.rwL 30 24, .rwL 22 16, .rwL 14 8, .rwL 6 0]⟩,  -- HMC_TRIM_WR
  ⟨0x64, 1, 0, .single, .none, none, 0x4040, [.rwL 14 8, .rwL 6 0]⟩,  -- HMC_TRIM_WR_2
  ⟨0x68, 2, 4, .single, .none, none, 0x40404040, []⟩,  -- HMC_TRIM_RD_ACT
  ⟨0x70, 1, 0, .single, .none, none, 0x4040, []⟩,  -- HMC_TRIM_RD_ACT_2
  ⟨0x74, 2, 4, .single, .none, none, 0x40404040, []⟩,  -- HMC_TRIM_WR_ACT
  ⟨0x7c, 1, 0, .single, .none, none, 0x4040, []⟩,  -- HMC_TRIM_WR_ACT_2
  ⟨0x80, 1, 0, .single, .none, none, 0x0, [.rwL 14 8, .rwL 6 0]⟩,  -- HMC_TRIM_TRAIN
  ⟨0x84, 1, 0, .single, .none, none, 0x0, [.w1c 9 0]⟩  -- HMC_TRAIN_ERR
  ]

def regsARB : List RegDesc := [
  ⟨0x44, 1, 0, .single, .none, none, 0x0, [.rwL 9 0]⟩,  -- ARB_REQ_SEL
  ⟨0x48, 1, 0, .single, .arbreqsel, none, 0x0, [.rwL 8 8, .rwL 6 4, .rwL 3 0]⟩,  -- ARB_REQ_CFG
  ⟨0x4c, 1, 0, .single, .arbreqsel, none, 0x0, []⟩,  -- ARB_REQ_STS
  ⟨0x50, 1, 0, .single, .none, none, 0x1000020, [.rwW 31 16, .rwW 15 0]⟩,  -- ARB_QUOTA
  ⟨0x54, 1, 0, .single, .none, none, 0x0, [.rwL 8 8, .rwL 5 0]⟩,  -- ARB_SLOT_SEL
  ⟨0x58, 1, 0, .single, .arbslotsel, none, 0x0, [.rwL 3 3, .rwL 2 0]⟩,  -- ARB_SLOT_ENTRY
  ⟨0x5c, 1, 0, .single, .none, none, 0x0, [.rwW 0 0]⟩,  -- ARB_SLOT_CTL
  ⟨0x60, 1, 0, .single, .none, none, 0x800, [.rwL 15 0]⟩  -- ARB_WDOG
  ]

def regsETH : List RegDesc := [
  ⟨0x40, 1, 0, .single, .none, none, 0x0, [.rwI 8 8, .rwI 4 4, .rwL 1 1, .rwL 0 0]⟩,  -- ETH_CTL
  ⟨0x48, 1, 0, .single, .none, none, 0x2400, [.rwL 13 0]⟩,  -- ETH_MAXFRM
  ⟨0x4c, 1, 0, .single, .none, none, 0xff00, [.rwL 15 8, .rwI 1 0]⟩,  -- ETH_FC
  ⟨0x50, 1, 0, .single, .none, none, 0x3400, [.rwL 21 16, .rwL 13 8, .rwL 5 0]⟩,  -- ETH_SERDES_TX
  ⟨0x54, 1, 0, .single, .none, none, 0x0, [.rwL 0 0]⟩,  -- ETH_PTP_CFG
  ⟨0x58, 1, 0, .single, .none, none, 0x0, [.rwL 31 16, .rwL 15 0]⟩,  -- ETH_TS_LAT
  ⟨0x68, 1, 0, .single, .none, none, 0x0, [.own 0 0]⟩,  -- ETH_TXTS_POP
  ⟨0x6c, 1, 0, .single, .none, (some 0), 0x6400, [.rwL 15 8, .rwL 1 1, .rwL 0 0]⟩,  -- ETH_PPS_CFG
  ⟨0x78, 1, 0, .single, .none, (some 0), 0x0, [.rwL 31 0]⟩  -- ETH_PPS_OFS
  ]

def regsPSEC : List RegDesc := [
  ⟨0x40, 1, 0, .single, .none, none, 0x8080, [.rwL 15 8, .rwL 7 0]⟩  -- PSE_CFG
  ]

def regsPSE : List RegDesc := [
  ⟨0x40, 1, 0, .single, .none, none, 0x0, [.own 1 1, .own 0 0]⟩,  -- PSE_UC_CMD
  ⟨0x44, 1, 0, .single, .none, none, 0x0, [.rwI 31 16, .rwI 9 0]⟩,  -- PSE_UC_LOADCFG
  ⟨0x48, 1, 0, .low, .none, none, 0x0, [.rwI 31 6]⟩,  -- PSE_UC_SRC
  ⟨0x4c, 1, 0, .high, .none, none, 0x0, [.rwI 2 0]⟩  -- PSE_UC_SRC
  ]

def regsCLS0 : List RegDesc := [
  ⟨0x40, 1, 0, .single, .none, none, 0x10, [.rwL 4 0]⟩,  -- CLS_CFG
  ⟨0x44, 1, 0, .single, .none, none, 0x0, [.rwI 31 20]⟩,  -- CLS_TBL_BASE
  ⟨0x48, 1, 0, .single, .none, none, 0xffffffff, [.rwI 31 0]⟩,  -- CLS_HASH_SEED0
  ⟨0x4c, 1, 0, .single, .none, none, 0x5a5a5a5a, [.rwI 31 0]⟩,  -- CLS_HASH_SEED1
  ⟨0x50, 1, 0, .single, .none, none, 0x0, [.own 2 0]⟩,  -- CLS_CMD
  ⟨0x54, 1, 0, .single, .none, none, 0x0, [.w1c 3 3]⟩,  -- CLS_CMD_STS
  ⟨0x5c, 1, 0, .single, .none, none, 0x0, [.rwL 16 16, .rwL 15 2, .rwL 1 0]⟩,  -- CLS_AT
  ⟨0x80, 16, 4, .single, .none, none, 0x0, [.rwL 31 0]⟩  -- CLS_DATA
  ]

def regsCLS1 : List RegDesc := [
  ⟨0x40, 1, 0, .single, .none, none, 0x0, [.rwL 3 2, .rwL 1 0]⟩,  -- CLS_MISS_ACT
  ⟨0x44, 1, 0, .single, .none, none, 0x0, [.rwL 31 16, .rwL 11 8, .rwL 3 0]⟩,  -- CLS_MAL_ACT_0: RUNT and OVERSIZE are RO 0
  ⟨0x48, 1, 0, .single, .none, none, 0x0, [.rwL 31 0]⟩,  -- CLS_MAL_ACT_1
  ⟨0x50, 4, 4, .single, .none, none, 0x186a0040, [.rwL 31 12, .rwL 11 0]⟩  -- CLS_PUNT_RATE
  ]

def regsCLS2 : List RegDesc := [
  ]

def regsCLS3 : List RegDesc := [
  ⟨0x40, 1, 0, .single, .none, none, 0x1e0000, [.rwL 31 16, .rwL 0 0]⟩,  -- CLS_AGE_CFG
  ⟨0x44, 1, 0, .single, .none, none, 0x0, [.rwI 31 0]⟩,  -- CLS_AGE_REC_BASE
  ⟨0x48, 1, 0, .single, .none, none, 0x0, [.rwI 31 0]⟩,  -- CLS_AGE_REC_SIZE
  ⟨0x50, 1, 0, .single, .none, none, 0x0, [.rwL 31 0]⟩  -- CLS_AGE_REC_RD
  ]

def regsSWC : List RegDesc := [
  ⟨0x40, 1, 0, .single, .none, none, 0x0, [.rwL 2 0]⟩,  -- SWC_PORT_SEL
  ⟨0x44, 1, 0, .single, .swcportsel, none, 0x6000a0, [.rwL 24 16, .rwL 8 0]⟩,  -- SWC_RXQ_THR
  ⟨0x48, 1, 0, .single, .swcportsel, none, 0x200040, [.rwL 24 16, .rwL 8 0]⟩,  -- SWC_PFC_THR
  ⟨0x4c, 1, 0, .single, .swcportsel, none, 0xffff8000, [.rwL 31 16, .rwL 15 0]⟩,  -- SWC_PAUSE_CFG
  ⟨0x50, 1, 0, .single, .swcportsel, none, 0x0, []⟩,  -- SWC_RXQ_STS
  ⟨0x54, 1, 0, .single, .swcportsel, none, 0x0, []⟩,  -- SWC_CNT_XOFF
  ⟨0x58, 1, 0, .single, .swcportsel, none, 0x0, []⟩,  -- SWC_CNT_RXQ_DROP
  ⟨0x60, 1, 0, .single, .none, none, 0x0, [.rwL 3 0]⟩,  -- SWC_OUT_SEL
  ⟨0x64, 1, 0, .single, .swcoutsel, none, 0x0, []⟩,  -- SWC_OUT_STS
  ⟨0x68, 1, 0, .low, .swcoutsel, none, 0x0, []⟩,  -- SWC_CNT_FLUSH_BYTES
  ⟨0x6c, 1, 0, .high, .swcoutsel, none, 0x0, []⟩,  -- SWC_CNT_FLUSH_BYTES
  ⟨0x70, 1, 0, .single, .swcoutsel, none, 0x0, []⟩,  -- SWC_CNT_FLUSH_PKTS
  ⟨0x74, 1, 0, .single, .swcoutsel, none, 0x0, []⟩,  -- SWC_CNT_SINK_DISC
  ⟨0x78, 1, 0, .single, .swcoutsel, none, 0x0, []⟩  -- SWC_CNT_STALL
  ]

def regsBPM : List RegDesc := [
  ⟨0x40, 1, 0, .single, .none, none, 0x0, [.rwL 1 0]⟩,  -- BPM_POOL_SEL
  ⟨0x44, 1, 0, .single, .bpmpoolsel, none, 0x0, [.rwI 31 20]⟩,  -- BPM_POOL_CFG
  ⟨0x48, 1, 0, .low, .bpmpoolsel, none, 0x0, [.rwI 31 12]⟩,  -- BPM_RING_BASE
  ⟨0x4c, 1, 0, .high, .bpmpoolsel, none, 0x0, [.rwI 2 0]⟩,  -- BPM_RING_BASE
  ⟨0x50, 1, 0, .single, .bpmpoolsel, none, 0x0, [.own 0 0]⟩,  -- BPM_POOL_CMD
  ⟨0x54, 1, 0, .single, .bpmpoolsel, none, 0x0, []⟩,  -- BPM_POOL_STS
  ⟨0x58, 1, 0, .single, .bpmpoolsel, none, 0x0, []⟩,  -- BPM_POOL_SHARED
  ⟨0x5c, 1, 0, .single, .bpmpoolsel, none, 0x0, []⟩,  -- BPM_CNT_ALLOC
  ⟨0x60, 1, 0, .single, .bpmpoolsel, none, 0x0, []⟩,  -- BPM_CNT_FAIL
  ⟨0x64, 1, 0, .single, .bpmpoolsel, none, 0x0, []⟩,  -- BPM_CNT_BAD_FREE
  ⟨0x68, 1, 0, .single, .none, none, 0x0, [.rwL 5 0]⟩,  -- BPM_GRP_SEL
  ⟨0x6c, 1, 0, .single, .grp, none, 0x0, [.own 20 0]⟩,  -- BPM_GRP_MIN
  ⟨0x70, 1, 0, .single, .grp, none, 0x100000, [.rwL 20 0]⟩,  -- BPM_GRP_MAX
  ⟨0x74, 1, 0, .single, .grp, none, 0x0, [.w1c 31 31]⟩,  -- BPM_GRP_STS
  ⟨0x78, 1, 0, .single, .grp, none, 0x0, []⟩,  -- BPM_GRP_FAILS
  ⟨0x7c, 1, 0, .single, .none, none, 0x0, [.rwL 7 0]⟩,  -- BPM_MAP_SEL
  ⟨0x80, 1, 0, .single, .bpmmapsel, none, 0x0, [.rwL 21 16, .rwL 13 8, .rwL 5 0]⟩,  -- BPM_MAP
  ⟨0x84, 1, 0, .single, .none, none, 0x0, [.own 31 31, .own 9 8, .own 5 0]⟩,  -- BPM_ALLOC_REQ
  ⟨0x90, 1, 0, .low, .none, none, 0x0, [.own 31 0]⟩,  -- BPM_FREE
  ⟨0x94, 1, 0, .high, .none, none, 0x0, [.own 25 24, .own 21 16, .own 2 0]⟩  -- BPM_FREE
  ]

def regsEGS : List RegDesc := [
  ⟨0x40, 1, 0, .single, .none, none, 0x0, [.rwL 27 16, .rwL 11 0]⟩,  -- EGS_PORT_CFG
  ⟨0x44, 1, 0, .low, .none, none, 0x0, [.rwL 31 0]⟩,  -- EGS_SRC_MAC
  ⟨0x48, 1, 0, .high, .none, none, 0x0, [.rwL 15 0]⟩,  -- EGS_SRC_MAC
  ⟨0x4c, 1, 0, .single, .none, none, 0x0, [.rwL 3 0]⟩,  -- EGS_SRC_SEL
  ⟨0x50, 4, 4, .single, .egssrcsel, none, 0x0, [.rwL 31 0]⟩,  -- EGS_SRC_IP
  ⟨0x60, 1, 0, .single, .none, none, 0x0, [.rwL 11 0]⟩,  -- EGS_Q_SEL
  ⟨0x64, 1, 0, .single, .egsqsel, none, 0x0, [.own 1 0]⟩,  -- EGS_Q_CMD
  ⟨0x68, 1, 0, .single, .egsqsel, none, 0x18, [.rwL 31 31, .rwW 10 0]⟩,  -- EGS_Q_CFG
  ⟨0x6c, 1, 0, .single, .egsqsel, none, 0x1000, [.rwL 15 0]⟩,  -- EGS_Q_LIMIT
  ⟨0x70, 1, 0, .low, .egsqsel, none, 0x0, [.rwL 24 0]⟩,  -- EGS_Q_SHAPER
  ⟨0x74, 1, 0, .high, .egsqsel, none, 0x0, [.rwL 18 0]⟩,  -- EGS_Q_SHAPER
  ⟨0x78, 1, 0, .single, .egsqsel, none, 0x0, []⟩,  -- EGS_Q_STS
  ⟨0x7c, 1, 0, .single, .egsqsel, none, 0x0, []⟩,  -- EGS_Q_TOKENS
  ⟨0x80, 1, 0, .single, .egsqsel, none, 0x0, []⟩,  -- EGS_Q_DEFICIT
  ⟨0x84, 1, 0, .single, .egsqsel, none, 0x0, []⟩,  -- EGS_CNT_Q_FRAMES
  ⟨0x88, 1, 0, .single, .egsqsel, none, 0x0, []⟩,  -- EGS_CNT_Q_DROP
  ⟨0x100, 1, 0, .single, .none, (some 0), 0x0, [.own 18 16, .own 15 0]⟩,  -- EGS_REPL_CMD
  ⟨0x104, 1, 0, .single, .none, (some 0), 0x0, [.w1c 3 3]⟩,  -- EGS_REPL_STS
  ⟨0x140, 12, 4, .single, .none, (some 0), 0x0, [.rwL 31 0]⟩,  -- EGS_REPL_DATA
  ⟨0x170, 1, 0, .single, .none, (some 0), 0x0, [.rwL 2 0]⟩,  -- EGS_ING_SEL
  ⟨0x174, 1, 0, .single, .egsingsel, (some 0), 0x0, []⟩,  -- EGS_ING_STS
  ⟨0x178, 1, 0, .single, .egsingsel, (some 0), 0x0, []⟩,  -- EGS_CNT_ING_PKTS
  ⟨0x17c, 1, 0, .single, .egsingsel, (some 0), 0x0, []⟩  -- EGS_CNT_ING_BAD
  ]

def regsDMA : List RegDesc := [
  ⟨0x100, 32, 64, .single, .none, none, 0x0, [.rwL 6 4, .rwL 1 0]⟩,  -- DMA_CH_CFG
  ⟨0x104, 32, 64, .single, .none, none, 0x0, [.own 9 9, .own 8 8, .own 1 1, .own 0 0]⟩,  -- DMA_CH_CTL
  ⟨0x108, 32, 64, .single, .none, none, 0x0, [.w1c 5 5, .w1c 4 4, .w1c 1 1, .w1c 0 0]⟩,  -- DMA_CH_STS
  ⟨0x110, 32, 64, .low, .none, none, 0x0, [.rwL 31 6]⟩,  -- DMA_H2D_BASE
  ⟨0x114, 32, 64, .high, .none, none, 0x0, [.rwL 31 0]⟩,  -- DMA_H2D_BASE
  ⟨0x118, 32, 64, .single, .none, none, 0x100, [.rwL 16 0]⟩,  -- DMA_H2D_SIZE
  ⟨0x11c, 32, 64, .single, .none, none, 0x0, [.own 31 0]⟩,  -- DMA_H2D_DB
  ⟨0x120, 32, 64, .low, .none, none, 0x0, [.rwL 31 6]⟩,  -- DMA_D2H_BASE
  ⟨0x124, 32, 64, .high, .none, none, 0x0, [.rwL 31 0]⟩,  -- DMA_D2H_BASE
  ⟨0x128, 32, 64, .single, .none, none, 0x100, [.rwL 16 0]⟩,  -- DMA_D2H_SIZE
  ⟨0x12c, 32, 64, .single, .none, none, 0x0, [.own 31 0]⟩  -- DMA_D2H_DB
  ]

def regsPCI : List RegDesc := [
  ⟨0x44, 1, 0, .single, .none, none, 0x0, [.rwL 6 0]⟩,  -- PCI_WIN2_POS
  ⟨0x48, 1, 0, .single, .none, none, 0x0, [.rwL 31 16, .own 15 0]⟩,  -- PCI_LTR
  ⟨0x4c, 1, 0, .single, .none, none, 0x64, [.rwL 15 0]⟩,  -- PCI_L1_IDLE
  ⟨0x50, 1, 0, .single, .none, none, 0x0, [.w1c 4 4, .w1c 3 3, .w1c 2 2, .w1c 1 1, .w1c 0 0]⟩  -- PCI_ERR_STS
  ]

def regsINT0 : List RegDesc := [
  ⟨0x40, 1, 0, .single, .none, none, 0x0, [.rwL 9 0]⟩,  -- INT_SRC_SEL
  ⟨0x44, 1, 0, .single, .intsrcsel, none, 0x0, [.own 18 16, .own 10 0]⟩,  -- INT_ROUTE
  ⟨0x80, 32, 4, .single, .none, none, 0x0, [.w1c 31 0]⟩,  -- INT_STRANDED
  ⟨0x100, 32, 4, .single, .none, none, 0x0, [.rwL 31 0]⟩,  -- INT_PEND
  ⟨0x180, 32, 4, .single, .none, none, 0xffffffff, [.rwL 31 0]⟩  -- INT_MASK
  ]

def regsINT1 : List RegDesc := [
  ⟨0x40, 16, 4, .single, .none, none, 0x190000, [.rwL 31 16, .rwL 2 2, .rwL 1 0]⟩,  -- INT_EXT_CFG
  ⟨0x84, 1, 0, .single, .none, none, 0x0, [.w1c 15 0]⟩  -- INT_EXT_EDGE
  ]

def regsINT2 : List RegDesc := [
  ]

def regsINT3 : List RegDesc := [
  ]

def regsHCCC : List RegDesc := [
  ⟨0x40, 1, 0, .single, .none, none, 0x0, [.rwL 1 0]⟩,  -- HCC_MBX_CFG
  ⟨0x44, 1, 0, .single, .none, none, 0x0, [.own 31 16, .own 7 0]⟩,  -- HCC_MBX_CMD
  ⟨0x48, 1, 0, .single, .none, none, 0x0, [.w1c 3 3]⟩,  -- HCC_MBX_STS
  ⟨0x4c, 1, 0, .single, .none, none, 0x0, [.own 7 4]⟩,  -- HCC_MBX_DONE
  ⟨0x50, 1, 0, .single, .none, none, 0x0, [.own 0 0]⟩,  -- HCC_NTF_POST
  ⟨0x54, 1, 0, .single, .none, none, 0x0, [.own 0 0]⟩,  -- HCC_NTF_STS
  ⟨0x60, 1, 0, .single, .none, none, 0x36, [.rwL 16 16, .rwL 15 0]⟩,  -- HCC_UART_CFG
  ⟨0x64, 1, 0, .single, .none, none, 0x0, [.own 7 0]⟩,  -- HCC_UART_DATA
  ⟨0x68, 1, 0, .single, .none, none, 0x0, [.w1c 1 1, .w1c 0 0]⟩,  -- HCC_UART_STS
  ⟨0x80, 16, 4, .single, .none, none, 0x0, [.rwL 31 0]⟩,  -- HCC_MBX_DATA
  ⟨0xc0, 8, 4, .single, .none, none, 0x0, [.rwL 31 0]⟩  -- HCC_NTF_DATA
  ]

def regsHCC : List RegDesc := [
  ⟨0x40, 1, 0, .single, .none, none, 0x1, [.own 0 0]⟩,  -- HCC_CTL
  ⟨0x48, 1, 0, .single, .none, none, 0x0, [.rwL 31 0]⟩,  -- HCC_IPEND
  ⟨0x4c, 1, 0, .single, .none, none, 0xffffffff, [.rwL 31 0]⟩,  -- HCC_IMASK
  ⟨0x50, 1, 0, .single, .none, none, 0x0, [.own 0 0]⟩,  -- HCC_DBELL
  ⟨0x54, 1, 0, .single, .none, none, 0x0, [.w1c 5 0]⟩,  -- HCC_DBELL_LATCH
  ⟨0x58, 1, 0, .low, .none, none, 0x0, [.rwL 31 0]⟩,  -- HCC_TIMER
  ⟨0x5c, 1, 0, .high, .none, none, 0x0, [.rwL 31 0]⟩,  -- HCC_TIMER
  ⟨0x60, 1, 0, .low, .none, none, 0x0, [.rwL 31 6]⟩,  -- HCC_CMO_ADDR
  ⟨0x64, 1, 0, .high, .none, none, 0x0, [.rwL 7 0]⟩,  -- HCC_CMO_ADDR
  ⟨0x68, 1, 0, .single, .none, none, 0x0, [.rwL 23 0]⟩,  -- HCC_CMO_LEN
  ⟨0x6c, 1, 0, .single, .none, none, 0x0, [.own 2 0]⟩  -- HCC_CMO_CMD
  ]

def regsFLT0 : List RegDesc := [
  ⟨0x44, 1, 0, .single, .none, none, 0x0, [.own 2 2, .own 1 1, .own 0 0]⟩,  -- FLT_ACK
  ⟨0x58, 1, 0, .single, .none, none, 0x0, [.own 31 31, .own 8 0]⟩  -- FLT_INJECT
  ]

def regsFLT1 : List RegDesc := [
  ⟨0x40, 1, 0, .single, .none, none, 0x0, [.rwL 8 0]⟩,  -- FLT_SRC_SEL
  ⟨0x44, 1, 0, .single, .fltsrcsel, none, 0x1, [.rwL 0 0]⟩  -- FLT_SRC_CFG
  ]

def regsWDG : List RegDesc := [
  ⟨0x40, 5, 16, .single, .none, none, 0x7a120, [.own 31 31, .rwL 23 0]⟩,  -- WDG_CFG
  ⟨0x44, 5, 16, .single, .none, none, 0x0, [.own 15 0]⟩  -- WDG_KICK
  ]

def regsBGS : List RegDesc := [
  ⟨0x40, 1, 0, .single, .none, none, 0x180000, [.rwL 23 16, .rwL 0 0]⟩,  -- BGS_SCRUB_CFG
  ⟨0x48, 1, 0, .single, .none, none, 0x3c0000, [.rwL 31 16, .rwL 0 0]⟩,  -- BGS_SSCRUB_CFG
  ⟨0x4c, 1, 0, .single, .none, none, 0x0, [.own 9 9, .own 8 8, .own 4 0]⟩,  -- BGS_CAL_CMD
  ⟨0x50, 1, 0, .single, .none, none, 0x0, [.w1c 8 8]⟩,  -- BGS_CAL_STS
  ⟨0x54, 1, 0, .single, .none, none, 0x1406, [.rwL 14 8, .rwL 3 0]⟩,  -- BGS_CAL_LIMITS
  ⟨0x58, 1, 0, .single, .none, none, 0x14, [.rwL 15 0]⟩,  -- BGS_CAL_TMO
  ⟨0x5c, 1, 0, .single, .none, none, 0x0, [.rwL 4 0]⟩,  -- BGS_CAL_SEL
  ⟨0x60, 1, 0, .low, .bgscalsel, none, 0x0, []⟩,  -- BGS_CAL_MASK
  ⟨0x64, 1, 0, .high, .bgscalsel, none, 0x0, []⟩,  -- BGS_CAL_MASK
  ⟨0x68, 1, 0, .single, .bgscalsel, none, 0x0, []⟩,  -- BGS_CAL_RES
  ⟨0x70, 1, 0, .single, .none, none, 0x80000, [.rwI 21 16, .rwL 0 0]⟩,  -- BGS_TLM_CFG
  ⟨0x74, 1, 0, .low, .none, none, 0x0, [.rwI 31 12]⟩,  -- BGS_TLM_BASE
  ⟨0x78, 1, 0, .high, .none, none, 0x0, [.rwI 31 0]⟩,  -- BGS_TLM_BASE
  ⟨0xa0, 1, 0, .single, .none, none, 0x640, [.rwL 15 0]⟩,  -- BGS_TEMP_ALARM
  ⟨0xc0, 1, 0, .single, .none, none, 0x0, [.own 31 31, .own 26 24, .own 23 23, .own 22 16, .own 15 8]⟩,  -- BGS_PMB_CMD
  ⟨0xc4, 1, 0, .single, .none, none, 0x0, [.rwL 15 0]⟩,  -- BGS_PMB_DATA
  ⟨0xc8, 1, 0, .single, .none, none, 0x0, [.w1c 3 3, .w1c 2 2, .w1c 1 1, .w1c 0 0]⟩  -- BGS_PMB_STS
  ]

def regsANT : List RegDesc := [
  ⟨0x40, 1, 0, .single, .none, none, 0x0, [.own 0 0]⟩,  -- ANT_CMD
  ⟨0x58, 1, 0, .single, .none, none, 0xfa, [.rwW 15 0]⟩  -- ANT_CFG
  ]

def regsCLK : List RegDesc := [
  ⟨0x40, 1, 0, .single, .none, none, 0x20, [.own 5 0]⟩,  -- CLK_OPP
  ⟨0x80, 1, 0, .single, .none, (some 216), 0x0, [.own 31 16, .own 0 0]⟩  -- CLK_RST_CMD
  ]

def regsSEC : List RegDesc := [
  ⟨0x60, 1, 0, .single, .none, none, 0xf, [.rwL 3 0]⟩,  -- SEC_HERD_CTL
  ⟨0x64, 1, 0, .low, .none, none, 0x0, [.rwL 31 0]⟩,  -- SEC_HERD_VEC
  ⟨0x68, 1, 0, .high, .none, none, 0x0, [.rwL 31 0]⟩,  -- SEC_HERD_VEC
  ⟨0x80, 1, 0, .single, .none, none, 0x0, [.own 31 16, .own 7 0]⟩,  -- SEC_HMBX_CMD
  ⟨0x84, 1, 0, .single, .none, none, 0x0, [.w1c 3 3]⟩,  -- SEC_HMBX_STS
  ⟨0x100, 32, 4, .single, .none, none, 0x0, [.rwL 31 0]⟩,  -- SEC_HMBX_DATA
  ⟨0x180, 1, 0, .single, .none, none, 0x0, [.own 31 16, .own 7 0]⟩,  -- SEC_FMBX_CMD
  ⟨0x184, 1, 0, .single, .none, none, 0x0, [.w1c 3 3]⟩,  -- SEC_FMBX_STS
  ⟨0x200, 32, 4, .single, .none, none, 0x0, [.rwL 31 0]⟩,  -- SEC_FMBX_DATA
  ⟨0x280, 16, 4, .single, .none, none, 0x0, [.rwL 31 0]⟩  -- SEC_HMBX_DATA_HI
  ]

/-- The registers of each page kind. -/
def regTable : Pg → List RegDesc
  | .GLB => regsGLB
  | .CHN => regsCHN
  | .RCT => regsRCT
  | .ENE => regsENE
  | .PXE => regsPXE
  | .WDP => regsWDP
  | .HMC => regsHMC
  | .ARB => regsARB
  | .ETH => regsETH
  | .PSEC => regsPSEC
  | .PSE => regsPSE
  | .CLS0 => regsCLS0
  | .CLS1 => regsCLS1
  | .CLS2 => regsCLS2
  | .CLS3 => regsCLS3
  | .SWC => regsSWC
  | .BPM => regsBPM
  | .EGS => regsEGS
  | .DMA => regsDMA
  | .PCI => regsPCI
  | .INT0 => regsINT0
  | .INT1 => regsINT1
  | .INT2 => regsINT2
  | .INT3 => regsINT3
  | .HCCC => regsHCCC
  | .HCC => regsHCC
  | .FLT0 => regsFLT0
  | .FLT1 => regsFLT1
  | .WDG => regsWDG
  | .BGS => regsBGS
  | .ANT => regsANT
  | .CLK => regsCLK
  | .SEC => regsSEC

/-- The pages of R19: base of page 0, number of pages, kind.  The common pages of PSE and HCC, and the pages of CLS, INT
and FLT, which differ in their registers, are kinds of their own. -/
def pageMap : List (Nat × Nat × Pg) := [
  (0x0, 1, .GLB),
  (0x100000, 128, .PXE),
  (0x180000, 32, .ENE),
  (0x1a0000, 1, .CLS0),
  (0x1a1000, 1, .CLS1),
  (0x1a2000, 1, .CLS2),
  (0x1a3000, 1, .CLS3),
  (0x1b0000, 1, .SWC),
  (0x1c0000, 1, .BPM),
  (0x1d0000, 1, .WDP),
  (0x1e0000, 1, .RCT),
  (0x1f0000, 1, .PSEC),
  (0x1f1000, 16, .PSE),
  (0x400000, 256, .CHN),
  (0x500000, 8, .EGS),
  (0x510000, 8, .ETH),
  (0x600000, 32, .HMC),
  (0x620000, 32, .ARB),
  (0x700000, 8, .DMA),
  (0x710000, 1, .PCI),
  (0x800000, 1, .INT0),
  (0x801000, 1, .INT1),
  (0x802000, 1, .INT2),
  (0x803000, 1, .INT3),
  (0x810000, 1, .FLT0),
  (0x811000, 1, .FLT1),
  (0x820000, 1, .WDG),
  (0x900000, 1, .BGS),
  (0x910000, 221, .ANT),
  (0xa00000, 221, .CLK),
  (0xc00000, 1, .SEC),
  (0xd00000, 1, .HCCC),
  (0xd01000, 4, .HCC)]

end Sys2Proof.Machine
end

