-- ==== Sys2Proof/Machine/Regs.lean ====
section
/-!
DEFINITION. Where a register lives: the page and the table entry of a WIN0 address, and the value every register word has
at reset.  A register word is kept under a key: its WIN0 address, plus 2^26 for each further bank where a select register
chooses among several copies (key = address + 2^26 * (bank + 1)).
-/

namespace Sys2Proof.Machine

/-- The size of WIN0: 64 MiB. -/
def win0Size : Nat := 0x4000000

/-- The page of `pages` that holds the address, with its instance number. -/
def pageFind (a : Nat) : List (Nat × Nat × Pg) → Option (Pg × Nat)
  | [] => none
  | (base, count, pg) :: r => if base ≤ a ∧ a < base + 0x1000 * count then some (pg, (a - base) / 0x1000) else pageFind a r

/-- The page kind and instance at a WIN0 address; none in a hole (R19, R20). -/
def pageOf (a : Nat) : Option (Pg × Nat) := pageFind a pageMap

/-- The page address (a multiple of 0x1000) of a WIN0 address. -/
def pageBase (a : Nat) : Nat := a / 0x1000 * 0x1000

/-- Does the entry hold the register at this offset of this instance's page? -/
def descHas (off inst : Nat) (r : RegDesc) : Bool :=
  r.off ≤ off && (if r.count = 1 then off == r.off else (off - r.off) % r.stride == 0 && (off - r.off) / r.stride < r.count)
    && (match r.only with | none => true | some i => i == inst)

/-- The table entry of the register at an offset, if it has one. -/
def regDesc (pg : Pg) (inst off : Nat) : Option RegDesc := (regTable pg).find? (descHas off inst)

/-- The pages in which EN, SRST and FRZ are RO and PAGE_CTL resets to 1 (R24). -/
def pageFixed : Pg → Bool
  | .GLB | .PCI | .INT0 | .INT1 | .INT2 | .INT3 | .FLT0 | .FLT1 | .WDG | .SEC | .HCCC | .HCC => true
  | _ => false

/-- The type code of R19. -/
def pageType : Pg → Nat
  | .GLB => 0x0001 | .PXE => 0x0010 | .ENE => 0x0011 | .PSEC | .PSE => 0x0012
  | .CLS0 | .CLS1 | .CLS2 | .CLS3 => 0x0013 | .SWC => 0x0014 | .BPM => 0x0015 | .WDP => 0x0016 | .RCT => 0x0017
  | .CHN => 0x0020 | .EGS => 0x0021 | .ETH => 0x0022 | .HMC => 0x0030 | .ARB => 0x0031 | .DMA => 0x0040 | .PCI => 0x0041
  | .INT0 | .INT1 | .INT2 | .INT3 => 0x0050 | .FLT0 | .FLT1 => 0x0051 | .WDG => 0x0052 | .BGS => 0x0060 | .ANT => 0x0061
  | .CLK => 0x0062 | .SEC => 0x0070 | .HCCC | .HCC => 0x0071

/-- The instance number PAGE_ID shows: common pages carry 0xFFFF, the pages of CLS, INT and FLT their page number (R19, R22). INT and FLT
have it as the model's choice (DESIGN CHOICE, log entry 216: the spec says so for CLS only, R346). -/
def pageInst : Pg → Nat → Nat
  | .PSEC, _ | .HCCC, _ => 0xFFFF
  | .CLS1, _ | .INT1, _ | .FLT1, _ => 1
  | .CLS2, _ | .INT2, _ => 2
  | .CLS3, _ | .INT3, _ => 3
  | _, i => i

/-- Is this number one of the requesters of R287? -/
def isRequester (req : Nat) : Bool :=
  req ≤ 0x09F || (0x0B0 ≤ req && req ≤ 0x0BB) || (0x0C0 ≤ req && req ≤ 0x0C8) || (0x0D0 ≤ req && req ≤ 0x0D4)
    || req == 0x0E0 || req == 0x0E1

/-- ARB_REQ_CFG of a requester at reset: IDLE_ONLY, CLASS and PRIO of R287. -/
def arbReqReset (req : Nat) : Nat :=
  if req ≤ 0x07F then 0x004 else if req ≤ 0x09F then 0x018
  else if req = 0x0B3 then 0x03A else if 0x0B0 ≤ req ∧ req ≤ 0x0BB then 0x02C
  else if 0x0C0 ≤ req ∧ req ≤ 0x0C7 then 0x046 else if req = 0x0C8 then 0x052
  else if 0x0D0 ≤ req ∧ req ≤ 0x0D4 then 0x055
  else if req = 0x0E0 then 0x070 else if req = 0x0E1 then 0x170 else 0

/-- The clock domains without a regulator of their own that CLK_OPP could set: the receive and transmit domains of the
MACs, PIPE, always-on and TCK (R511); the pixel-engine domains take their voltage from PXE_OPP (R220, R525). -/
def clkNoVset (dom : Nat) : Bool := dom < 128 || (192 ≤ dom && dom ≤ 207) || dom == 213 || dom == 216 || dom == 219

/-- Reset values that depend on the instance or on the bank: BPM_POOL_CFG.BASE (R362), INT_EXT_CFG_0 (R432), the requester
configuration (R287), the state of a Herd core (R418), and the voltage steps of the clock domains (R525). -/
def regResetBanked (pg : Pg) (off bank inst : Nat) : Option Nat :=
  match pg with
  | .BPM => if off = 0x44 then some ((if bank = 1 then 1024 else if bank = 2 then 1280 else if bank = 3 then 1408 else 1664) * 2 ^ 20) else none
  | .INT1 => if off = 0x40 then some 0x00190004 else none
  | .ARB => if off = 0x48 then some (if bank = 0 then 0 else arbReqReset (bank - 1)) else none
  | .HCC => if off = 0x44 then some 2 else none
  | .CLK => if off = 0x40 ∧ clkNoVset inst then some 0 else none
  | _ => none

/-- The value of a register word right after reset (the reset columns of the field tables). -/
def regReset (key : Nat) : Word :=
  let a := key % win0Size
  let bank := key / win0Size
  match pageOf a with
  | none => 0
  | some (pg, inst) =>
    let off := a % 0x1000
    if off = 0x000 then BitVec.ofNat 32 (pageType pg * 65536 + pageInst pg inst)
    else if off = 0x004 then 0x00000100
    else if off = 0x008 then (if pageFixed pg then 1 else 0)
    else match regResetBanked pg off bank inst with
      | some v => BitVec.ofNat 32 v
      | none => match regDesc pg inst off with
        | some r => BitVec.ofNat 32 r.reset
        | none => 0

end Sys2Proof.Machine
end

