-- ==== Sys2Proof/Machine/State.lean ====
section
/-!
DEFINITION. The machine state: the queue of waiting commands, the device time counter, the memories, and the device; the
state right after reset; and the reasons for which a command can stop.
-/

namespace Sys2Proof.Machine

/-- The memories of the device, as (address, byte) pairs in one canonical form. -/
structure Mem where
  /-- HBM: 32 GiB at its 35-bit addresses. -/
  hbm : List Host.Cell
  /-- The Herd's shared SRAM: 2 MiB (R414). -/
  sram : List Host.Cell
  /-- The SPI NOR: 32 MiB (R488). -/
  nor : List Host.Cell
  deriving DecidableEq, Repr

/-- What an address that a memory does not list reads as: HBM and SRAM after power-on 0 (DESIGN CHOICE, log entry 1), erased
NOR 0xFF. -/
def memDefault : MemId → Nat → Byte
  | .nor, _ => 0xFF
  | _, _ => 0

/-- The canonical form of a memory: addresses strictly rising, no byte listed that reads so unlisted. -/
abbrev memWf (m : MemId) (cells : List Host.Cell) : Prop := storeWf (memDefault m) cells

/-- All three memories are in canonical form. -/
abbrev Mem.wf (m : Mem) : Prop := memWf .hbm m.hbm ∧ memWf .sram m.sram ∧ memWf .nor m.nor

/-- The machine. -/
structure State where
  /-- The commands that are waiting, first in first out. -/
  pending : List Instr
  /-- The device time counter in units of 2^-24 ns: 64 bits of ns and 24 bits of fraction (R42). -/
  time : Nat
  mem : Mem
  dev : Dev
  deriving DecidableEq, Repr

/-- The device right after power-on, in a unit with this OTP. -/
def Dev.reset (hwType arb : Nat) : Dev :=
  { regs := [(0xAD8084, 1)], wpend := [], liveHeld := [], readHeld := [], lowHeld := [], free := 0, out := [], posted := [], chans := [], enes := [], pxes := []
    wdp := Wdp.reset, unbound := [], pci := { msixTable := [], pba := [], funcMask := false }, pxeMan := [], pseMan := [], pools := []
    bpmWaits := [], hbcs := [], poison := [], net := Net.reset, dma := Dma.reset, herd := Herd.reset, wdgs := [], bgs := Bgs.reset
    clks := [], antWaits := [], sec := Sec.reset hwType arb }

/-- The machine right after a power-on reset: every register at its reset value, CLK_RST_CAUSE.PORST at 1 (R527), device time 0, nothing
in memory, no command waiting; PERST_N is still low and the boot ROM has not run. -/
def State.reset : State :=
  { pending := [], time := 0, mem := { hbm := [], sram := [], nor := [] }, dev := Dev.reset 0x4B480256 (Config.otpArb % 65) }

/-- Reasons for which the machine stops with a fault. -/
inductive Fault where
  /-- Raised by REFCLK_LOSS of REFCLK_SYS or of the crystal: outside the recommended conditions, where no statement of the manual
  applies until PORST_N is asserted (R536); safe. -/
  | outsideConditions
  deriving DecidableEq, Repr

/-- Reasons for which a command is refused. -/
inductive Refusal where
  /-- Raised by the dispatch for a command without a meaning yet; safe. -/
  | notModelled (mnemonic : String)
  deriving DecidableEq, Repr

end Sys2Proof.Machine
end

