-- ==== Sys2Proof/Machine/Ops.lean ====
section
/-!
DEFINITION. The named operations over the registers, the pages and the memories: reading and writing a register field,
the page header's controls (R24, R25), the latching of -W writes (R29), counters (R37), free values, and the posted
writes to the memories.
-/

namespace Sys2Proof.Machine

/-- The same field on the page of instance `i` (R19). -/
def Field.on (f : Field) (i : Nat) : Field := { f with base := f.base + 0x1000 * i }

/-- The same field in bank `b` of a register that a select register addresses. -/
def Field.bk (f : Field) (b : Nat) : Field := { f with base := f.base + win0Size * (b + 1) }

/-- A register word: the value in force. -/
def Dev.word (d : Dev) (k : Nat) : Word := storeGet regReset d.regs k

/-- A register word replaced. -/
def Dev.setWord (d : Dev) (k : Nat) (w : Word) : Dev := { d with regs := storeSet regReset d.regs k w }

/-- The two words at `k`, low word first, as one number. -/
def Dev.pair (d : Dev) (k : Nat) : Nat := (d.word k).toNat + 2 ^ 32 * (d.word (k + 4)).toNat

/-- A register field's value in force. -/
def Dev.rd (d : Dev) (f : Field) : Nat :=
  if f.wide then d.pair f.base / 2 ^ f.lsb % 2 ^ f.width else bitsOf (d.word f.base) f.lsb f.width

/-- A field of a register word that was kept. -/
def Field.ofWord (f : Field) (w : Word) : Nat := bitsOf w f.lsb f.width

/-- A register field replaced (modulo 2^width). -/
def Dev.wr (d : Dev) (f : Field) (v : Nat) : Dev :=
  if f.wide then
    let p := d.pair f.base - d.rd f * 2 ^ f.lsb + v % 2 ^ f.width * 2 ^ f.lsb
    (d.setWord f.base (BitVec.ofNat 32 p)).setWord (f.base + 4) (BitVec.ofNat 32 (p / 2 ^ 32))
  else d.setWord f.base (bitsPut (d.word f.base) f.lsb f.width v)

/-- Is a one-bit field 1? -/
def Dev.bit (d : Dev) (f : Field) : Bool := d.rd f == 1

/-- A counter advanced by `n`, wrapping at its width (R37). -/
def Dev.count (d : Dev) (f : Field) (n : Nat) : Dev := d.wr f (d.rd f + n)

/-- Apply `f` where `b` holds. -/
def Dev.iff (d : Dev) (b : Bool) (f : Dev → Dev) : Dev := if b then f d else d

/-- Apply `f` for every element of a list, in order. -/
def Dev.forEach {α : Type} (d : Dev) (l : List α) (f : Dev → α → Dev) : Dev := l.foldl f d

/-- A thing sent to the outside. -/
def Dev.send (d : Dev) (o : Output) : Dev := { d with out := o :: d.out }

/-- A free value of `n` bits, and the state that has used it. -/
def Dev.freeVal (d : Dev) (n : Nat) : Nat × Dev := (Config.freeValue d.free % 2 ^ n, { d with free := d.free + 1 })

/-- Bytes posted for a memory: they are in it when the command ends. -/
def Dev.store (d : Dev) (m : MemId) (a : Nat) (bs : List Byte) : Dev := { d with posted := d.posted ++ [.bytes m a bs] }

/-- A range of a memory returned to what an unlisted address reads as. -/
def Dev.clear (d : Dev) (m : MemId) (a n : Nat) : Dev := { d with posted := d.posted ++ [.clear m a n] }

/-! The page header (R21 to R26).  A page is named by its WIN0 address. -/

def PAGE_CTL.WHOLD : Field := ⟨0x008, 3, 1, false⟩
def PAGE_CTL.FRZ : Field := ⟨0x008, 2, 1, false⟩
def PAGE_CTL.SRST : Field := ⟨0x008, 1, 1, false⟩
def PAGE_CTL.EN : Field := ⟨0x008, 0, 1, false⟩
def PAGE_STS.WIGN_OFF : Field := ⟨0x00C, 16, 12, false⟩
def PAGE_STS.WIGN : Field := ⟨0x00C, 3, 1, false⟩

/-- A header field of the page at a WIN0 address. -/
def Field.page (f : Field) (page : Nat) : Field := { f with base := f.base + page }

/-- PAGE_CTL.EN is 1. -/
def Dev.enabled (d : Dev) (page : Nat) : Bool := d.bit (PAGE_CTL.EN.page page)

/-- PAGE_CTL.FRZ is 1. -/
def Dev.frozen (d : Dev) (page : Nat) : Bool := d.bit (PAGE_CTL.FRZ.page page)

/-- Device safe state (R444). -/
def Dev.safe (d : Dev) : Bool := d.bit FLT_PEND.SAFE

/-- The pages of the blocks that stop in safe state: PXE, ENE, PSE, WDP, EGS, ETH and DMA (R444). -/
def pageStops (page : Nat) : Bool :=
  (0x100000 ≤ page && page < 0x1A0000) || page == 0x1D0000 || (0x1F0000 ≤ page && page < 0x210000) || (0x500000 ≤ page && page < 0x520000)
    || (0x700000 ≤ page && page < 0x710000)

/-- The instance may start a new unit of work: enabled, not frozen, not in a soft reset (R24), nor stopped by safe state. -/
def Dev.open_ (d : Dev) (page : Nat) : Bool :=
  d.enabled page && !d.frozen page && !d.bit (PAGE_CTL.SRST.page page) && !(d.safe && pageStops page)

/-- An idle-only write was ignored: WIGN is set, and WIGN_OFF records the offset where WIGN was 0 (R25, R31). -/
def Dev.ignored (d : Dev) (page off : Nat) : Dev :=
  if d.bit (PAGE_STS.WIGN.page page) then d
  else (d.wr (PAGE_STS.WIGN_OFF.page page) off).wr (PAGE_STS.WIGN.page page) 1

/-- The page a register key belongs to. -/
def keyPage (k : Nat) : Nat := pageBase (k % win0Size)

/-- The registers of an egress queue (EGS_Q_CFG to EGS_CNT_Q_DROP), which the pages of all eight ports show (R389). -/
def isQueueKey (k : Nat) : Bool :=
  0x500000 ≤ keyPage k && keyPage k < 0x508000 && 0x064 ≤ k % 0x1000 && k % 0x1000 < 0x08C

/-- The key under which the register word of a key is kept: the registers of an egress queue are the queue's, whichever port's page they
are written through, and are kept under EGS_0. -/
def homeKey (k : Nat) : Nat := if isQueueKey k then k - (keyPage k - 0x500000) else k

/-- The key under which a write through the page waits: a register of the page itself, or an egress queue's in this port's page. -/
def pendKey (page k : Nat) : Nat := k - keyPage k + page

/-- What waits for a register kept under a key: mask of the bits written, and the bits. -/
def Dev.pendingAt (d : Dev) (k : Nat) : Word × Word :=
  match d.wpend.find? (fun e => homeKey e.1 == k) with
  | some e => e.2
  | none => (0, 0)

/-- The -W writes pending under keys that satisfy `p` latch. -/
def Dev.latchKeys (d : Dev) (p : Nat → Bool) : Dev :=
  let due := d.wpend.filter (fun e => p e.1)
  let d := { d with wpend := d.wpend.filter (fun e => !p e.1) }
  d.forEach due (fun d e => d.setWord (homeKey e.1) ((d.word (homeKey e.1) &&& ~~~e.2.1) ||| (e.2.2 &&& e.2.1)))

/-- The -W writes pending in a page under keys that satisfy `p` latch, unless WHOLD is 1 (R29). -/
def Dev.latchIf (d : Dev) (page : Nat) (p : Nat → Bool) : Dev :=
  if d.bit (PAGE_CTL.WHOLD.page page) then d else d.latchKeys (fun k => keyPage k == page && p k)

/-- All -W writes pending in a page latch (R29). -/
def Dev.latch (d : Dev) (page : Nat) : Dev := d.latchIf page (fun _ => true)

/-- Does any -W write of the page wait for its boundary (PAGE_STS.WPEND)? -/
def Dev.wPending (d : Dev) (page : Nat) : Bool := d.wpend.any (fun e => keyPage e.1 == page)

/-- Firmware writes a -W field: the write waits for its boundary (R29). -/
def Dev.pend (d : Dev) (f : Field) (v : Nat) : Dev :=
  let m := maskOf (f.lsb + f.width - 1) f.lsb
  let old := storeGet (fun _ => (0, 0)) d.wpend f.base
  let w := (old.1 ||| m, (old.2 &&& ~~~m) ||| BitVec.ofNat 32 (v % 2 ^ f.width * 2 ^ f.lsb))
  { d with wpend := storeSet (fun _ => (0, 0)) d.wpend f.base w }

/-- The page's registers from 0x040 upwards, EVT_STS, EVT_EN and FLT_STS at their reset values and its pending writes discarded;
PAGE_CTL keeps its value but for SRST (R24, R29).  The registers of the egress queues go with the port that a queue is bound to. -/
def Dev.resetPage (d : Dev) (page : Nat) : Dev :=
  { d with
    regs := storeDrop (fun k => keyPage k == page && (k % 0x1000 ≥ 0x010) && !isQueueKey k) d.regs
    liveHeld := storeDrop (fun k => keyPage k == page) d.liveHeld
    wpend := d.wpend.filter (fun e => keyPage e.1 != page)
    lowHeld := d.lowHeld.filter (fun e => keyPage e.1 != page)
    readHeld := d.readHeld.filter (fun e => keyPage e.1 != page) }

/-- Page addresses of the blocks (R19). -/
def pageGLB : Nat := 0x000000
def pagePXE (i : Nat) : Nat := 0x100000 + 0x1000 * i
def pageENE (i : Nat) : Nat := 0x180000 + 0x1000 * i
def pageCLS (k : Nat) : Nat := 0x1A0000 + 0x1000 * k
def pageSWC : Nat := 0x1B0000
def pageBPM : Nat := 0x1C0000
def pageWDP : Nat := 0x1D0000
def pageRCT : Nat := 0x1E0000
def pagePSE (i : Nat) : Nat := 0x1F1000 + 0x1000 * i
def pageCHN (i : Nat) : Nat := 0x400000 + 0x1000 * i
def pageEGS (i : Nat) : Nat := 0x500000 + 0x1000 * i
def pageETH (i : Nat) : Nat := 0x510000 + 0x1000 * i
def pageHMC (i : Nat) : Nat := 0x600000 + 0x1000 * i
def pageARB (i : Nat) : Nat := 0x620000 + 0x1000 * i
def pageDMA (i : Nat) : Nat := 0x700000 + 0x1000 * i
def pagePCI : Nat := 0x710000
def pageINT (k : Nat) : Nat := 0x800000 + 0x1000 * k
def pageFLT (k : Nat) : Nat := 0x810000 + 0x1000 * k
def pageWDG : Nat := 0x820000
def pageBGS : Nat := 0x900000
def pageANT (i : Nat) : Nat := 0x910000 + 0x1000 * i
def pageCLK (i : Nat) : Nat := 0xA00000 + 0x1000 * i
def pageSEC : Nat := 0xC00000
def pageHCCC : Nat := 0xD00000
def pageHCC (i : Nat) : Nat := 0xD01000 + 0x1000 * i

/-- PAGE_STS.IDLE of a page under the general rule of R25: not busy and either disabled, frozen, or in a stopped state. -/
def Dev.idleUnless (d : Dev) (page : Nat) (busy stopped : Bool) : Bool :=
  !busy && !d.bit (PAGE_CTL.SRST.page page) && (!d.enabled page || d.frozen page || stopped)

/-- What a command sees of the machine beside the device: device time in ns, and the memories before the command. -/
structure Env where
  now : Nat
  mem : Mem

/-- The bytes of a memory from an address on. -/
def Env.bytes (e : Env) (m : MemId) (a n : Nat) : List Byte :=
  (List.range n).map (fun i => storeGet (memDefault m)
    (match m with | .hbm => e.mem.hbm | .sram => e.mem.sram | .nor => e.mem.nor) (a + i))

/-- A posted write applied to the cells of memory `m`. -/
def memOpTo (m : MemId) (cells : List Host.Cell) : MemOp → List Host.Cell
  | .bytes k a bs =>
    if k = m then ((List.range bs.length).zip bs).foldl (fun c e => storeSet (memDefault m) c (a + e.1) e.2) cells else cells
  | .clear k a n => if k = m then storeDrop (fun x => a ≤ x && x < a + n) cells else cells

/-- The memories after the posted writes, oldest first. -/
def Mem.apply (mem : Mem) (ops : List MemOp) : Mem :=
  { hbm := ops.foldl (memOpTo .hbm) mem.hbm
    sram := ops.foldl (memOpTo .sram) mem.sram
    nor := ops.foldl (memOpTo .nor) mem.nor }

/-- Addresses of the 8-byte words a range touches. -/
def wordsOf (a n : Nat) : List Nat := (List.range ((a % 8 + n + 7) / 8)).map (fun i => a / 8 * 8 + 8 * i)

def Dev.poisoned (d : Dev) (a n : Nat) : Bool := (wordsOf a n).any (fun w => d.poison.contains w)

/-- A poisoned word at `a` that a posted write covers whole is given good check bits (R291). -/
def memOpHeals (a : Nat) : MemOp → Bool
  | .bytes .hbm b bs => b ≤ a && a + 8 ≤ b + bs.length
  | .clear .hbm b n => b ≤ a && a + 8 ≤ b + n
  | _ => false

/-- Device time in ns: the 64-bit counter of R39. -/
def State.now (s : State) : Nat := s.time / 2 ^ 24

/-- A command's effect on the device, with the memory writes it posts. -/
def State.act (s : State) (f : Env → Dev → Dev) : State :=
  let d := f ⟨s.now, s.mem⟩ s.dev
  { s with mem := s.mem.apply d.posted, dev := { d with
    posted := [], poison := d.poison.filter (fun a => !d.posted.any (memOpHeals a)) } }

/-- The outcome of a command whose effect is `f`: nothing while a power-on or device reset is in force (R520). -/
def State.run (s : State) (f : Env → Dev → Dev) : Host.Outcome State Fault Refusal := .next (if s.dev.sec.rst = 0 then s.act f else s)

/-- The same for a read of WIN0: in a device reset it returns 0 (R520). -/
def State.runRead (s : State) (n : Nat) (f : Env → Dev → Dev) : Host.Outcome State Fault Refusal :=
  if s.dev.sec.rst = 2 then .next (s.act fun _ d => d.send (.readData (natLE n 0) false)) else s.run f

/-- The same for a command that a device reset leaves alone: the PCIe link and its configuration space (R520, R521). -/
def State.runLink (s : State) (f : Env → Dev → Dev) : Host.Outcome State Fault Refusal := .next (if s.dev.sec.rst = 1 then s else s.act f)

end Sys2Proof.Machine
end

