-- ==== Sys2Proof/Machine/Flags.lean ====
section
/-!
DEFINITION. Event and fault flags and the interrupts they raise: EVT_STS and FLT_STS bits (R26), the interrupt request of
a page (R26, R423), pending and masks (R424, R426), delivery to a core or an MSI-X vector (R425, R410), and the private
sources of the Herd cores (R419).
-/

namespace Sys2Proof.Machine

/-- The shared source number of a page's interrupt request (R423). -/
def pageSource (page : Nat) : Option Nat :=
  match pageOf page with
  | some (.CHN, i) => some i
  | some (.DMA, i) => some (256 + i)
  | some (.PCI, _) => some 264
  | some (.GLB, _) => some 265
  | some (.HCCC, _) => some 266
  | some (.FLT0, _) => some 267
  | some (.FLT1, _) => some 268
  | some (.PXE, i) => some (288 + i)
  | some (.ENE, i) => some (416 + i)
  | some (.HMC, i) => some (448 + i)
  | some (.ARB, i) => some (480 + i)
  | some (.ETH, i) => some (512 + i)
  | some (.EGS, i) => some (520 + i)
  | some (.CLS0, _) => some 528
  | some (.CLS1, _) => some 529
  | some (.CLS2, _) => some 530
  | some (.CLS3, _) => some 531
  | some (.SWC, _) => some 532
  | some (.BPM, _) => some 533
  | some (.WDP, _) => some 534
  | some (.RCT, _) => some 535
  | some (.PSEC, _) => some 536
  | some (.PSE, i) => some (537 + i)
  | some (.WDG, _) => some 555
  | some (.BGS, _) => some 556
  | some (.SEC, _) => some 557
  | some (.INT0, _) => some 559
  | some (.ANT, i) => some (608 + i)
  | some (.CLK, i) => some (608 + i)
  | _ => none

/-- The words that the delivery of an interrupt writes: page 0 of INT and the core pages. -/
def evtWord (k : Nat) : Prop := (0x800000 ≤ k ∧ k < 0x801000) ∨ (0xD01000 ≤ k ∧ k < 0xD05000)

/-- Is the number one of a source that exists (R423)?  The other numbers are reserved. -/
def sourceExists (s : Nat) : Bool :=
  s ≤ 268 || (288 ≤ s && s ≤ 552) || s == 555 || s == 556 || s == 557 || s == 559 || (576 ≤ s && s ≤ 591)
    || (608 ≤ s && s ≤ 828)

def EVT_STS_ALL : Field := ⟨0x010, 0, 32, false⟩
def EVT_EN_ALL : Field := ⟨0x014, 0, 32, false⟩

/-- The interrupt request of a page: some event is set and enabled (R26). -/
def Dev.pageReq (d : Dev) (page : Nat) : Bool := (d.word (page + 0x010) &&& d.word (page + 0x014)) != 0

/-- The level of a shared source: its page's request; for a clock domain the OR of ANT and CLK (R423); for an external
input in level mode its filtered level (R429). -/
def Dev.sourceLevel (d : Dev) (s : Nat) : Bool :=
  if s ≤ 255 then d.pageReq (pageCHN s)
  else if s ≤ 263 then d.pageReq (pageDMA (s - 256))
  else if s = 264 then d.pageReq pagePCI
  else if s = 265 then d.pageReq pageGLB
  else if s = 266 then d.pageReq pageHCCC
  else if s = 267 then d.pageReq (pageFLT 0)
  else if s = 268 then d.pageReq (pageFLT 1)
  else if 288 ≤ s ∧ s ≤ 415 then d.pageReq (pagePXE (s - 288))
  else if 416 ≤ s ∧ s ≤ 447 then d.pageReq (pageENE (s - 416))
  else if 448 ≤ s ∧ s ≤ 479 then d.pageReq (pageHMC (s - 448))
  else if 480 ≤ s ∧ s ≤ 511 then d.pageReq (pageARB (s - 480))
  else if 512 ≤ s ∧ s ≤ 519 then d.pageReq (pageETH (s - 512))
  else if 520 ≤ s ∧ s ≤ 527 then d.pageReq (pageEGS (s - 520))
  else if 528 ≤ s ∧ s ≤ 531 then d.pageReq (pageCLS (s - 528))
  else if s = 532 then d.pageReq pageSWC
  else if s = 533 then d.pageReq pageBPM
  else if s = 534 then d.pageReq pageWDP
  else if s = 535 then d.pageReq pageRCT
  else if s = 536 then d.pageReq 0x1F0000
  else if 537 ≤ s ∧ s ≤ 552 then d.pageReq (pagePSE (s - 537))
  else if s = 555 then d.pageReq pageWDG
  else if s = 556 then d.pageReq pageBGS
  else if s = 557 then d.pageReq pageSEC
  else if s = 559 then d.pageReq (pageINT 0)
  else if 576 ≤ s ∧ s ≤ 591 then
    d.rd (INT_EXT_CFG.MODE (s - 576)) == 0 && bitAt (d.rd INT_EXT_LEVEL.FILTERED) (s - 576)
  else if 608 ≤ s ∧ s ≤ 828 then d.pageReq (pageANT (s - 608)) || d.pageReq (pageCLK (s - 608))
  else false

/-- The pending, mask and stranded bit of a shared source. -/
def pendBit (s : Nat) : Field := ⟨0x800100 + 4 * (s / 32), s % 32, 1, false⟩
def maskBit (s : Nat) : Field := ⟨0x800180 + 4 * (s / 32), s % 32, 1, false⟩
def strandedBit (s : Nat) : Field := ⟨0x800080 + 4 * (s / 32), s % 32, 1, false⟩

/-- The route of a source (R432); KIND 6 and 7 are taken as 0. -/
def Dev.routeKind (d : Dev) (s : Nat) : Nat :=
  let k := d.rd (INT_ROUTE.KIND.bk s)
  if k ≥ 6 then 0 else k
def Dev.routeVector (d : Dev) (s : Nat) : Nat := d.rd (INT_ROUTE.VECTOR.bk s)

/-- Pending and not masked (R424). -/
def Dev.sourceActive (d : Dev) (s : Nat) : Bool := d.bit (pendBit s) && !d.bit (maskBit s)

/-- Vector Control bit 0 of an MSI-X vector's table entry; 1 at reset. -/
def Dev.vectorMasked (d : Dev) (v : Nat) : Bool := d.pci.funcMask || bitAt (storeGet msixReset d.pci.msixTable (4 * v + 3)) 0

/-- A message on a vector: sent, or kept in the pending-bit array while the vector is masked (R410).  Message address and
data are the vector's table entry. -/
def Dev.message (d : Dev) (v : Nat) : Dev :=
  if d.vectorMasked v then { d with pci := { d.pci with pba := d.pci.pba.filter (· != v) ++ [v] } }
  else d.send (.msix v (storeGet msixReset d.pci.msixTable (4 * v) + 2 ^ 32 * storeGet msixReset d.pci.msixTable (4 * v + 1))
    (storeGet msixReset d.pci.msixTable (4 * v + 2)))

/-- A source presented to a Herd core: a sleeping core runs; for an offline core it is stranded (R418, R425).  The answer
says whether it was stranded. -/
def Dev.toCore (d : Dev) (s core : Nat) : Dev × Bool :=
  match d.rd (HCC_STS.STATE.on core) with
  | 0 => (d, false)
  | 1 => (d.wr (HCC_STS.STATE.on core) 0, false)
  | _ => (d.wr (strandedBit s) 1, true)

/-- One delivery of an active source (R424). -/
def Dev.deliverOnce (d : Dev) (s : Nat) : Dev × Bool :=
  let k := d.routeKind s
  if k ≤ 3 then d.toCore s k
  else if k = 4 then (d, false)
  else (d.message (d.routeVector s), false)

/-- A pending bit set: where the source becomes active it is delivered. -/
def Dev.pendOnce (d : Dev) (s : Nat) : Dev × Bool :=
  let was := d.sourceActive s
  let d := d.wr (pendBit s) 1
  if !was && d.sourceActive s then d.deliverOnce s else (d, false)

/-- EVT_STS.STRANDED of INT page 0 set, with the request of that page (source 559). -/
def Dev.strandedEvent (d : Dev) : Dev :=
  let d := d.wr INT0_EVT.STRANDED 1
  if d.pageReq (pageINT 0) then (d.pendOnce 559).1 else d

/-- Deliver an active source (R424, R425). -/
def Dev.deliver (d : Dev) (s : Nat) : Dev :=
  let r := d.deliverOnce s
  if r.2 then r.1.strandedEvent else r.1

/-- Set a source's pending bit, and deliver it where it becomes active (R424). -/
def Dev.raise (d : Dev) (s : Nat) : Dev :=
  let r := d.pendOnce s
  if r.2 then r.1.strandedEvent else r.1

/-- A level source sets its pending bit while its request is asserted (R424). -/
def Dev.sampleSource (d : Dev) (s : Nat) : Dev := if d.sourceLevel s then d.raise s else d

/-- The page's request is sampled after one of its event registers changed. -/
def Dev.sample (d : Dev) (page : Nat) : Dev :=
  match pageSource page with
  | some s => if d.pageReq page then d.raise s else d
  | none => d

/-- An event of a page: its EVT_STS bit is set, with the interrupt it requests (R26). -/
def Dev.event (d : Dev) (f : Field) : Dev := (d.wr f 1).sample (keyPage f.base)

/-- A fault of a page: its FLT_STS bit is set (R26).  The collector takes it as a command of its own (R438). -/
def Dev.flag (d : Dev) (f : Field) : Dev := d.wr f 1

/-- A private source of a Herd core sets its pending bit, and wakes the core where it is not masked (R418, R419). -/
def Dev.raisePriv (d : Dev) (core src : Nat) : Dev :=
  let d := d.wr ⟨0xD01048 + 0x1000 * core, src, 1, false⟩ 1
  if d.rd (HCC_STS.STATE.on core) = 1 ∧ d.rd ⟨0xD0104C + 0x1000 * core, src, 1, false⟩ = 0 then d.wr (HCC_STS.STATE.on core) 0 else d

/-- The sources whose route is a core are delivered to it again: it came back (R425). -/
def Dev.redeliver (d : Dev) (core : Nat) : Dev :=
  d.forEach ((List.range 1024).filter (fun s => d.sourceActive s && d.routeKind s == core)) Dev.deliver

/-- The sources active on a core's line when it goes offline are stranded (R428). -/
def Dev.strand (d : Dev) (core : Nat) : Dev := d.redeliver core

end Sys2Proof.Machine
end

