-- ==== Sys2Proof/Machine/Bpm.lean ====
section
/-!
DEFINITION. The buffer pools: allocation, freeing, initialisation and reserved minima (R362 to R370).
-/

namespace Sys2Proof.Machine

/-- Buffer size, count and region per set of a pool (R362). -/
def poolSize (p : Nat) : Nat := match p with | 0 => 2048 | 1 => 65536 | 2 => 262144 | _ => 256
def poolCount (p : Nat) : Nat := match p with | 0 => 1048576 | 1 => 16384 | 2 => 8192 | _ => 65536
def poolRegion (p : Nat) : Nat := poolCount p / 8 * poolSize p

/-- The pool's region offset within each set, in bytes. -/
def Dev.poolBase (d : Dev) (p : Nat) : Nat := d.rd (BPM_POOL_CFG.BASE.bk p) * 2 ^ 20

/-- The pointer of buffer `i` (R362). -/
def Dev.pointerOf (d : Dev) (p i : Nat) : Nat := i % 8 * 2 ^ 32 + d.poolBase p + i / 8 * poolSize p

def Dev.pool (d : Dev) (p : Nat) : Pool := storeGet (fun _ => Pool.reset) d.pools p
def Dev.setPool (d : Dev) (p : Nat) (x : Pool) : Dev := { d with pools := storeSet (fun _ => Pool.reset) d.pools p x }

/-- The bank of a group's registers. -/
def grpBank (p g : Nat) : Nat := 64 * p + g

/-- The sum over the pool's groups of the reserved buffers not in use. -/
def Dev.reservedFree (d : Dev) (p : Nat) : Nat :=
  ((List.range 64).map (fun g => d.rd (BPM_GRP_MIN.MIN.bk (grpBank p g)) - d.rd (BPM_GRP_STS.USED.bk (grpBank p g)))).sum

/-- The shared free count of a pool (R364). -/
def Dev.sharedFree (d : Dev) (p : Nat) : Nat := d.rd (BPM_POOL_STS.FREE.bk p) - d.reservedFree p

/-- A rising list with `i` put in its place. -/
def insertSorted (i : Nat) : List Nat → List Nat
  | [] => [i]
  | j :: r => if i ≤ j then i :: j :: r else j :: insertSorted i r

/-! The free store: ring and cache (R363).  The ring's bytes in HBM are not written (log entry 43). -/

/-- The first `n` indices of a ring, and the ring without them. -/
def takeRuns : Nat → List (Nat × Nat) → List Nat × List (Nat × Nat)
  | _, [] => ([], [])
  | n, r :: l =>
    if n < r.2 then ((List.range n).map (· + r.1), (r.1 + n, r.2 - n) :: l)
    else
      let t := takeRuns (n - r.2) l
      ((List.range r.2).map (· + r.1) ++ t.1, t.2)

/-- A ring without index `i`. -/
def dropRun (i : Nat) (l : List (Nat × Nat)) : List (Nat × Nat) :=
  l.flatMap (fun r => if r.1 ≤ i ∧ i < r.1 + r.2 then [(r.1, i - r.1), (i + 1, r.1 + r.2 - (i + 1))].filter (fun q => q.2 != 0) else [r])

/-- Free buffers of a pool: indices in the cache and in the ring. -/
def Pool.size (q : Pool) : Nat := q.cache.length + sumBy q.ring (·.2)

/-- A cache below 64 indices is refilled with 64 from the ring. -/
def Pool.refill (q : Pool) : Pool :=
  if q.cache.length < 64 then
    let t := takeRuns 64 q.ring
    { q with cache := q.cache ++ t.1, ring := t.2 }
  else q

/-- An index leaves the cache.  The order in which the cache gives its indices is left open: a free value picks one. -/
def Dev.pickIndex (d : Dev) (q : Pool) : Nat × Pool × Dev :=
  let r := d.freeVal 8
  let k := r.1 % max 1 q.cache.length
  (q.cache.getD k 0, { q with cache := q.cache.eraseIdx k }, r.2)

/-- The buffer handed out next, from the cache, refilled from the ring. -/
def Dev.popFree (d : Dev) (p : Nat) : Nat × Dev :=
  let r := d.pickIndex (if (d.pool p).cache.isEmpty then (d.pool p).refill else d.pool p)
  (r.1, r.2.2.setPool p r.2.1.refill)

/-- `n` indices go from the cache to the ring's tail. -/
def Dev.spill (d : Dev) (p : Nat) : Nat → Dev
  | 0 => d
  | n + 1 =>
    let r := d.pickIndex (d.pool p)
    (r.2.2.setPool p { r.2.1 with ring := r.2.1.ring ++ [(r.1, 1)] }).spill p n

/-- A freed index enters the cache, which spills 64 of its indices above 192; a lost buffer does not come back. -/
def Dev.pushFree (d : Dev) (p i : Nat) : Dev :=
  let q := d.pool p
  if q.lost.contains i then d
  else
    let d := (d.setPool p { q with cache := q.cache ++ [i] }).wr (BPM_POOL_STS.FREE.bk p) (d.rd (BPM_POOL_STS.FREE.bk p) + 1)
    if q.cache.length + 1 > 192 then d.spill p 64 else d

/-- Buffer `i` is lost to its pool until device reset (R292, R363). -/
def Dev.loseBuffer (d : Dev) (p i : Nat) : Dev :=
  let q := d.pool p
  if i ≥ poolCount p ∨ q.lost.contains i then d
  else
    let q' : Pool := { q with cache := q.cache.filter (· != i), ring := dropRun i q.ring, lost := i :: q.lost }
    (d.setPool p q'.refill).wr (BPM_POOL_STS.FREE.bk p) (d.rd (BPM_POOL_STS.FREE.bk p) - (q.size - q'.size))

/-- A parity error in the cache of a pool: the index it hits is lost (R363). -/
def Dev.cacheParity (d : Dev) (p : Nat) : Dev :=
  if (d.pool p).cache.isEmpty then d
  else
    let r := d.pickIndex (d.pool p)
    r.2.2.loseBuffer p r.1

/-- Status of an allocation (R370): 0 OK, 1 EXHAUSTED, 2 OVER_SHARE, 3 NOT_READY. -/
def Dev.allocStatus (d : Dev) (p g : Nat) : Nat :=
  let used := d.rd (BPM_GRP_STS.USED.bk (grpBank p g))
  let min := d.rd (BPM_GRP_MIN.MIN.bk (grpBank p g))
  if d.rd (BPM_POOL_STS.READY.bk p) = 0 then 3
  else if used ≥ max (d.rd (BPM_GRP_MAX.MAX.bk (grpBank p g))) min then 2
  else if used ≥ min ∧ d.sharedFree p = 0 then 1
  else if d.rd (BPM_POOL_STS.FREE.bk p) = 0 then 1
  else 0

/-- One allocation (R364): the status, and the pointer where it is OK. -/
def Dev.alloc (d : Dev) (p g : Nat) : Nat × Nat × Dev :=
  let st := d.allocStatus p g
  if st = 0 then
    let r := d.popFree p
    let d := r.2.wr (BPM_GRP_STS.USED.bk (grpBank p g)) (r.2.rd (BPM_GRP_STS.USED.bk (grpBank p g)) + 1)
    let d := d.wr (BPM_POOL_STS.FREE.bk p) (d.rd (BPM_POOL_STS.FREE.bk p) - 1)
    (0, d.pointerOf p r.1, d.count (BPM_CNT_ALLOC.COUNT.bk p) 1)
  else
    (st, 0, ((d.count (BPM_CNT_FAIL.COUNT.bk p) 1).count (BPM_GRP_FAILS.COUNT.bk (grpBank p g)) 1).event BPM_EVT.ALLOC_FAIL)

/-- `n` allocations, stopping at the first that fails: whether all succeeded, the pointers got, and the state. -/
def Dev.allocMany (d : Dev) (p g : Nat) : Nat → Bool × List Nat × Dev
  | 0 => (true, [], d)
  | n + 1 =>
    let r := d.alloc p g
    if r.1 = 0 then
      let t := r.2.2.allocMany p g n
      (t.1, r.2.1 :: t.2.1, t.2.2)
    else (false, [], r.2.2)

/-- Why a freed pointer is bad (R367, R370): 1 range, 2 alignment, 3 group underflow; 0 for a good one. -/
def Dev.badFree (d : Dev) (p g a : Nat) : Nat :=
  let off := a % 2 ^ 32
  if a ≥ 2 ^ 35 ∨ off < d.poolBase p ∨ off ≥ d.poolBase p + poolRegion p then 1
  else if (off - d.poolBase p) % poolSize p ≠ 0 then 2
  else if d.rd (BPM_GRP_STS.USED.bk (grpBank p g)) = 0 then 3
  else 0

/-- A buffer freed by requester `req` (R367).  A second free of a good pointer is not detected. -/
def Dev.free_ (d : Dev) (req p g a : Nat) : Dev :=
  let why := d.badFree p g a
  if why = 0 then
    let i := (a % 2 ^ 32 - d.poolBase p) / poolSize p * 8 + a / 2 ^ 32
    (d.wr (BPM_GRP_STS.USED.bk (grpBank p g)) (d.rd (BPM_GRP_STS.USED.bk (grpBank p g)) - 1)).pushFree p i
  else
    let d := (d.flag BPM_FLT.BAD_FREE).count (BPM_CNT_BAD_FREE.COUNT.bk p) 1
    if d.bit BPM_BAD_PTR.VALID then d
    else
      let d := ((d.wr BPM_BAD_PTR.VALID 1).wr BPM_BAD_PTR.REASON why).wr BPM_BAD_PTR.POOL p
      (d.wr BPM_BAD_PTR.REQ req).wr BPM_BAD_PTR.ADDR a

/-- Requests are served: the block is enabled and not frozen (R368). -/
def Dev.bpmOpen (d : Dev) : Bool := d.open_ pageBPM

/-- Is some pool being initialised, or does a request wait? (R368) -/
def Dev.bpmBusy (d : Dev) : Bool := !d.bpmWaits.isEmpty || (List.range 4).any (fun p => (d.pool p).initialising)
def Dev.bpmIdle (d : Dev) : Bool := d.idleUnless pageBPM d.bpmBusy false

/-- Two ranges of addresses have an address in common. -/
def overlap (a n b m : Nat) : Bool := a < b + m && b < a + n

/-- BPM_RING_BASE of a pool. -/
def Dev.ringBase (d : Dev) (p : Nat) : Nat := d.pair (0x1C0048 + win0Size * (p + 1))

/-- The configuration refuses INIT of pool `p` (R363). -/
def Dev.poolCfgBad (d : Dev) (p : Nat) : Bool :=
  let base := d.poolBase p
  let ring := d.ringBase p
  (List.range 4).any (fun q => q != p && overlap base (poolRegion p) (d.poolBase q) (poolRegion q))
    || overlap base (poolRegion p) 0xFFFFE000 0x2000
    || (List.range 4).any (fun q => (List.range 8).any (fun s =>
        overlap ring (4 * poolCount p) (s * 2 ^ 32 + d.poolBase q) (poolRegion q)))

/-- BPM_POOL_CMD.INIT of the selected pool (R363); idle-only. -/
def execBpmPoolInit (s : State) : Host.Outcome State Fault Refusal :=
  s.run fun _ d =>
    let p := d.rd BPM_POOL_SEL.POOL
    if !d.bpmIdle then d.ignored pageBPM 0x050
    else if d.poolCfgBad p then d.wr (BPM_POOL_STS.CFG_ERR.bk p) 1
    else (d.wr (BPM_POOL_STS.CFG_ERR.bk p) 0).setPool p { d.pool p with initialising := true }

/-- The free store after INIT: every index that is not lost in the ring, in rising order, the cache filled from it (R363). The ring's own
bytes are not written to HBM (DEDUCED, log entry 237). -/
def Pool.fresh (p : Nat) (q : Pool) : Pool :=
  Pool.refill { q with cache := [], ring := q.lost.foldl (fun l i => dropRun i l) [(0, poolCount p)], initialising := false }

/-- Initialisation of a pool completes: READY and INIT_DONE (R363). -/
def execBpmInitDone (pool : Fin 4) (s : State) : Host.Outcome State Fault Refusal :=
  s.run fun _ d =>
    let p := pool.val
    if (d.pool p).initialising then
      let q := (d.pool p).fresh p
      let d := (d.setPool p q).wr (BPM_POOL_STS.FREE.bk p) q.size
      (d.wr (BPM_POOL_STS.READY.bk p) 1).event BPM_EVT.INIT_DONE
    else d

/-- One request served (R364, R367, R370). -/
def Dev.serveBpm (d : Dev) : BpmReq → Dev
  | .alloc p g => let r := d.alloc p g; r.2.2.send (.bpmResult r.1 r.2.1)
  | .allocReq p g =>
    let r := d.alloc p g
    ((r.2.2.wr BPM_ALLOC_RES.STATUS r.1).wr BPM_ALLOC_RES.ADDR r.2.1).wr BPM_ALLOC_RES.DONE 1
  | .free req p g a => d.free_ req p g a

/-- A request is served, or waits while the block is disabled or frozen (R368). -/
def Dev.requestBpm (d : Dev) (r : BpmReq) : Dev :=
  if d.bpmOpen then d.serveBpm r else { d with bpmWaits := d.bpmWaits ++ [r] }

/-- The waiting requests are served, oldest first, once the block runs again. -/
def Dev.resumeBpm (d : Dev) : Dev :=
  if d.bpmOpen then { d with bpmWaits := [] }.forEach d.bpmWaits Dev.serveBpm else d

/-- A requester other than the firmware allocates a buffer (R364); it gets the status, and the buffer is its own. -/
def execBpmAlloc (pool : Fin 4) (group : Fin 64) (s : State) : Host.Outcome State Fault Refusal :=
  s.run fun _ d => d.requestBpm (.alloc pool group)

/-- A write of BPM_ALLOC_REQ with GO 1: a firmware request, with its result in BPM_ALLOC_RES (R370). -/
def execBpmAllocReq (pool : Fin 4) (group : Fin 64) (s : State) : Host.Outcome State Fault Refusal :=
  s.run fun _ d => (d.wr BPM_ALLOC_RES.DONE 0).requestBpm (.allocReq pool group)

/-- A buffer is freed, by firmware through BPM_FREE or by the block that holds it (R367). -/
def execBpmFree (req : Fin 1024) (pool : Fin 4) (group : Fin 64) (addr : Fin 34359738368) (s : State) :
    Host.Outcome State Fault Refusal :=
  s.run fun _ d => d.requestBpm (.free req pool group addr)

/-- MIN of group `g` of pool `p` is written (R366): whether it is accepted, and the state. -/
def Dev.setMin (d : Dev) (p g min : Nat) : Bool × Dev :=
  let b := grpBank p g
  let d' := d.wr (BPM_GRP_MIN.MIN.bk b) min
  if d'.rd (BPM_GRP_MIN.MIN.bk b) ≤ d.rd (BPM_GRP_MIN.MIN.bk b) ∨ d'.reservedFree p ≤ d.rd (BPM_POOL_STS.FREE.bk p) then (true, d')
  else (false, (d.wr (BPM_GRP_STS.REFUSED.bk b) 1).event BPM_EVT.MIN_REFUSED)

/-- A write to BPM_GRP_MIN of the selected group (R366). -/
def execGrpMinWrite (min : Nat) (s : State) : Host.Outcome State Fault Refusal :=
  s.run fun _ d => (d.setMin (d.rd BPM_POOL_SEL.POOL) (d.rd BPM_GRP_SEL.GROUP) min).2

end Sys2Proof.Machine
end

