-- ==== Sys2Proof/Machine/ChannelCfg.lean ====
section
/-!
DEFINITION. What the registers of a channel say: its kind, group, picture geometry and rate (R43 to R48, R73 to R80, R100),
its costs (R60 to R65), its level (R106), the rules CONFIGURE checks and the register each broken rule is attributed to
(R543).  The level limits of HEVC, AV1 and H.264 are those of the standards (PRESUMED, log entry 20).
-/

namespace Sys2Proof.Machine

def Dev.ch (d : Dev) (c : Nat) : Chan := storeGet (fun _ => Chan.reset) d.chans c
def Dev.setCh (d : Dev) (c : Nat) (x : Chan) : Dev := { d with chans := storeSet (fun _ => Chan.reset) d.chans c x }
def Dev.upCh (d : Dev) (c : Nat) (f : Chan → Chan) : Dev := d.setCh c (f (d.ch c))

/-- CHN_STATE.STATE: 0 CLOSED, 1 CONFIGURED, 2 RUNNING, 3 HOLDING, 4 DRAINING, 5 STOPPED_ERR (R72). -/
def Dev.chState (d : Dev) (c : Nat) : Nat := d.rd (CHN_STATE.STATE.on c)

/-- RUNNING, HOLDING or DRAINING. -/
def Dev.chActive (d : Dev) (c : Nat) : Bool := d.chState c == 2 || d.chState c == 3 || d.chState c == 4

def Dev.isDecode (d : Dev) (c : Nat) : Bool := d.bit (CHN_MODE.KIND.on c)
def Dev.isLive (d : Dev) (c : Nat) : Bool := d.bit (CHN_MODE.CLASS.on c)
def Dev.codec (d : Dev) (c : Nat) : Nat := d.rd (CHN_MODE.CODEC.on c)
def Dev.quality (d : Dev) (c : Nat) : Bool := d.bit (CHN_MODE.PRESET.on c)

/-- A member of a rendition group: an encode channel with CHN_SRC.KIND GROUP (R44). -/
def Dev.isMember (d : Dev) (c : Nat) : Bool := !d.isDecode c && d.rd (CHN_SRC.KIND.on c) == 4
def Dev.leaderOf (d : Dev) (c : Nat) : Nat := if d.isMember c then d.rd (CHN_GROUP.LEADER.on c) else c
def Dev.divOf (d : Dev) (c : Nat) : Nat := if d.isMember c then max 1 (min 8 (d.rd (CHN_GROUP.DIV.on c))) else 1

/-- The members that name `l` as their leader and are not CLOSED. -/
def Dev.membersOf (d : Dev) (l : Nat) : List Nat :=
  (List.range 256).filter (fun m => m != l && d.isMember m && d.rd (CHN_GROUP.LEADER.on m) == l && d.chState m != 0)

/-- The leader and the members of its group that are RUNNING, HOLDING or DRAINING. -/
def Dev.groupOf (d : Dev) (l : Nat) : List Nat := (l :: d.membersOf l).filter d.chActive

/-- The leaders that hold decode channel `c` as their source (R45). -/
def Dev.linkedTo (d : Dev) (c : Nat) : List Nat := (List.range 256).filter (fun l => (d.ch l).held == .decode c)

def Dev.width (d : Dev) (c : Nat) : Nat := d.rd (CHN_PIC_SIZE.WIDTH.on c)
def Dev.height (d : Dev) (c : Nat) : Nat := d.rd (CHN_PIC_SIZE.HEIGHT.on c)
def Dev.tenBit (d : Dev) (c : Nat) : Bool := d.bit (CHN_FORMAT.DEPTH.on c)
def Dev.c422 (d : Dev) (c : Nat) : Bool := d.bit (CHN_FORMAT.CHROMA.on c)

/-- The channel whose registers give the size and format of a channel's source: the decode channel of its leader's surface link, else
its leader (R44, R46). -/
def Dev.sourceOf (d : Dev) (c : Nat) : Nat :=
  let l := d.leaderOf c
  if !d.isDecode l && d.rd (CHN_SRC.KIND.on l) == 3 then d.rd (CHN_SRC.IDX.on l) else l

/-- The output is scaled: its size, depth or chroma format differs from the source's (R47). -/
def Dev.isScaled (d : Dev) (c : Nat) : Bool :=
  let s := d.sourceOf c
  !d.isDecode c && (d.width c != d.width s || d.height c != d.height s || d.tenBit c != d.tenBit s || d.c422 c != d.c422 s)

/-- The picture rate as a fraction: pictures, seconds (R60, R78). -/
def Dev.rateNum (d : Dev) (c : Nat) : Nat := d.rd (CHN_FRATE.NUM.on (d.leaderOf c))
def Dev.rateDen (d : Dev) (c : Nat) : Nat := d.rd (CHN_FRATE.DEN.on (d.leaderOf c)) * d.divOf c

/-- The picture period in ns, rounded down. -/
def Dev.period (d : Dev) (c : Nat) : Nat := 1000000000 * d.rateDen c / d.rateNum c

/-! Slices (R100). -/

/-- Lines of a CTU row. -/
def Dev.ctu (d : Dev) (c : Nat) : Nat := if d.bit (CHN_ENC_STRUCT.CTU.on c) then 32 else 64
/-- CTU rows of the picture. -/
def Dev.ctuRows (d : Dev) (c : Nat) : Nat := cdiv (d.height c) (d.ctu c)
/-- CTUs of a row. -/
def Dev.ctuCols (d : Dev) (c : Nat) : Nat := cdiv (d.width c) (d.ctu c)
/-- CTU rows of a slice but the last. -/
def Dev.sliceRows (d : Dev) (c : Nat) : Nat :=
  let r := d.rd (CHN_ENC_STRUCT.SLICE_ROWS.on c)
  if r = 0 then max 1 (d.ctuRows c) else r
def Dev.nSlices (d : Dev) (c : Nat) : Nat := cdiv (d.ctuRows c) (d.sliceRows c)
def Dev.par (d : Dev) (c : Nat) : Nat := max 1 (d.rd (CHN_ENC_STRUCT.PAR.on c))
/-- First row of slice `s`, and the row after its last. -/
def Dev.rowFrom (d : Dev) (c s : Nat) : Nat := s * d.sliceRows c
def Dev.rowTo (d : Dev) (c s : Nat) : Nat := min (d.ctuRows c) ((s + 1) * d.sliceRows c)
/-- The line after slice `s`. -/
def Dev.lineTo (d : Dev) (c s : Nat) : Nat := min (d.height c) (d.rowTo c s * d.ctu c)
def Dev.lineFrom (d : Dev) (c s : Nat) : Nat := d.rowFrom c s * d.ctu c

/-- The slice period in ns: the picture period over the number of slices (R15). -/
def Dev.slicePeriod (d : Dev) (c : Nat) : Nat := d.period c / max 1 (d.nSlices c)

/-! Costs. -/

/-- Ten times the per-pixel factor of R61 for the channel's own pixels. -/
def Dev.pcFactor (d : Dev) (c : Nat) : Nat :=
  if d.isDecode c then 10
  else
    let q := if d.quality c then 2 else 1
    let scaled := if d.isScaled c then 3 else 0
    if !d.isMember c && !d.isScaled c then 40 * q else 24 * q + scaled

/-- CHN_COST_PC: Mpc/s rounded up (R60 to R62). -/
def Dev.costPc (d : Dev) (c : Nat) : Nat :=
  let own := d.width c * d.height c * d.pcFactor c
  let src := if !d.isDecode c && !d.isMember c && d.isScaled c
    then d.width (d.sourceOf c) * d.height (d.sourceOf c) * (if d.quality c then 32 else 16) else 0
  cdiv ((own + src) * d.rateNum c) (d.rateDen c * 10 * 1000000)

/-- The coded rate that costs entropy work, kbit/s (R64). -/
def Dev.entropyRate (d : Dev) (c : Nat) : Nat :=
  if d.isDecode c then d.rd (CHN_DEC_LIMITS.PEAK.on c) else d.rd (CHN_RC_PEAK.RATE.on c)

/-- CHN_COST_EC: M ec/s rounded up (R64). -/
def Dev.costEc (d : Dev) (c : Nat) : Nat := cdiv (d.entropyRate c * (if d.codec c = 1 then 4 else 3)) 2000

/-- CHN_COST_HBM: MB/s rounded up (R65). -/
def Dev.costHbm (d : Dev) (c : Nat) : Nat :=
  let per := if d.isDecode c then 4 + 3 * d.rd (CHN_DEC_LIMITS.REFS.on c)
    else (if d.isMember c then 12 else 20) * (if d.quality c then 2 else 1)
  let f := (if d.tenBit c then 5 else 4) * (if d.c422 c then 4 else 3)
  cdiv (d.width c * d.height c * d.rateNum c * per * f) (d.rateDen c * 12 * 1000000)

/-! Levels (R106): the tables of the standards. -/

/-- One level: its code, largest picture, sample or macroblock rate, largest bit rate and buffer in kbit for Main and High
(0: no High tier), slices or tiles (for H.264 the SliceRate, 0 where there is none), and for AV1 the largest width and height. -/
structure Level where
  code : Nat
  size : Nat
  rate : Nat
  brMain : Nat
  brHigh : Nat
  cpbMain : Nat
  cpbHigh : Nat
  parts : Nat
  maxW : Nat
  maxH : Nat
  deriving DecidableEq, Repr

def hevcLevels : List Level := [
  ⟨30, 36864, 552960, 128, 0, 350, 0, 16, 0, 0⟩,
  ⟨60, 122880, 3686400, 1500, 0, 1500, 0, 16, 0, 0⟩,
  ⟨63, 245760, 7372800, 3000, 0, 3000, 0, 20, 0, 0⟩,
  ⟨90, 552960, 16588800, 6000, 0, 6000, 0, 30, 0, 0⟩,
  ⟨93, 983040, 33177600, 10000, 0, 10000, 0, 40, 0, 0⟩,
  ⟨120, 2228224, 66846720, 12000, 30000, 12000, 30000, 75, 0, 0⟩,
  ⟨123, 2228224, 133693440, 20000, 50000, 20000, 50000, 75, 0, 0⟩,
  ⟨150, 8912896, 267386880, 25000, 100000, 25000, 100000, 200, 0, 0⟩,
  ⟨153, 8912896, 534773760, 40000, 160000, 40000, 160000, 200, 0, 0⟩,
  ⟨156, 8912896, 1069547520, 60000, 240000, 60000, 240000, 200, 0, 0⟩]

def av1Levels : List Level := [
  ⟨0, 147456, 4423680, 1500, 0, 1500, 0, 8, 2048, 1152⟩,
  ⟨1, 278784, 8363520, 3000, 0, 3000, 0, 8, 2816, 1584⟩,
  ⟨4, 665856, 19975680, 6000, 0, 6000, 0, 16, 4352, 2448⟩,
  ⟨5, 1065024, 31950720, 10000, 0, 10000, 0, 16, 5504, 3096⟩,
  ⟨8, 2359296, 70778880, 12000, 30000, 12000, 30000, 32, 6144, 3456⟩,
  ⟨9, 2359296, 141557760, 20000, 50000, 20000, 50000, 32, 6144, 3456⟩,
  ⟨12, 8912896, 267386880, 30000, 100000, 30000, 100000, 64, 8192, 4352⟩,
  ⟨13, 8912896, 534773760, 40000, 160000, 40000, 160000, 64, 8192, 4352⟩]

def h264Levels : List Level := [
  ⟨10, 99, 1485, 64, 0, 175, 0, 0, 0, 0⟩,
  ⟨9, 99, 1485, 128, 0, 350, 0, 0, 0, 0⟩,
  ⟨11, 396, 3000, 192, 0, 500, 0, 0, 0, 0⟩,
  ⟨12, 396, 6000, 384, 0, 1000, 0, 0, 0, 0⟩,
  ⟨13, 396, 11880, 768, 0, 2000, 0, 0, 0, 0⟩,
  ⟨20, 396, 11880, 2000, 0, 2000, 0, 0, 0, 0⟩,
  ⟨21, 792, 19800, 4000, 0, 4000, 0, 0, 0, 0⟩,
  ⟨22, 1620, 20250, 4000, 0, 4000, 0, 0, 0, 0⟩,
  ⟨30, 1620, 40500, 10000, 0, 10000, 0, 22, 0, 0⟩,
  ⟨31, 3600, 108000, 14000, 0, 14000, 0, 60, 0, 0⟩,
  ⟨32, 5120, 216000, 20000, 0, 20000, 0, 60, 0, 0⟩,
  ⟨40, 8192, 245760, 20000, 0, 25000, 0, 60, 0, 0⟩,
  ⟨41, 8192, 245760, 50000, 0, 62500, 0, 24, 0, 0⟩,
  ⟨42, 8704, 522240, 50000, 0, 62500, 0, 24, 0, 0⟩]

def levelsOf (codec : Nat) : List Level := match codec with | 1 => av1Levels | 2 => h264Levels | _ => hevcLevels

/-- The profile factor in thousandths: HEVC Main 4:2:2 10 takes 1667, H.264 High 1250, the others 1000 (R106). -/
def Dev.profileFactor (d : Dev) (c : Nat) : Nat :=
  match d.codec c with
  | 2 => 1250
  | 1 => 1000
  | _ => if d.c422 c then 1667 else 1000

/-- Scaled figure: kbit times the profile factor, in bits. -/
def Dev.scaledBits (d : Dev) (c v : Nat) : Nat := v * d.profileFactor c

/-- Picture size in the unit of the codec's level table: luma samples, or macroblocks for H.264. -/
def Dev.levelSize (d : Dev) (c : Nat) : Nat :=
  if d.codec c = 2 then cdiv (d.width c) 16 * cdiv (d.height c) 16
  else if d.codec c = 1 then d.width c * d.height c
  else cdiv (d.width c) 8 * 8 * (cdiv (d.height c) 8 * 8)

/-- The dimensions fit the level: for HEVC and H.264 each at most sqrt(8 * size), for AV1 the table's own. -/
def Dev.dimsFit (d : Dev) (c : Nat) (l : Level) : Bool :=
  if d.codec c = 1 then d.width c ≤ l.maxW && d.height c ≤ l.maxH
  else
    let u := if d.codec c = 2 then 16 else 1
    cdiv (d.width c) u * cdiv (d.width c) u ≤ 8 * l.size && cdiv (d.height c) u * cdiv (d.height c) u ≤ 8 * l.size

def Dev.sizeFits (d : Dev) (c : Nat) (l : Level) : Bool := d.levelSize c ≤ l.size && d.dimsFit c l
def Dev.rateFits (d : Dev) (c : Nat) (l : Level) : Bool := d.levelSize c * d.rateNum c ≤ l.rate * d.rateDen c

/-- Tile columns of an AV1 slice (R100). -/
def Dev.tileCols (d : Dev) (c : Nat) : Nat := if d.width c > 4096 then 2 else 1
def Dev.partsOf (d : Dev) (c : Nat) : Nat := if d.codec c = 1 then d.nSlices c * d.tileCols c else d.nSlices c
/-- Slices or tiles fit the level: for H.264 at most MaxMBPS × picture period ÷ SliceRate, where the level has a SliceRate. -/
def Dev.partsFit (d : Dev) (c : Nat) (l : Level) : Bool :=
  if d.codec c = 2 then d.nSlices c * l.parts * d.rateNum c ≤ l.rate * d.rateDen c else d.partsOf c ≤ l.parts
/-- CHN_RC_PEAK fits the level's bit rate in this tier. -/
def Dev.brFits (d : Dev) (c : Nat) (l : Level) (high : Bool) : Bool :=
  let br := if high then l.brHigh else l.brMain
  br != 0 && d.rd (CHN_RC_PEAK.RATE.on c) * 1000 ≤ d.scaledBits c br

/-- The level and tier selected: the lowest level, Main before High, that admits everything (R106). -/
def Dev.levelPick (d : Dev) (c : Nat) : Option (Level × Bool) :=
  (levelsOf (d.codec c)).findSome? fun l =>
    if d.sizeFits c l && d.rateFits c l && d.partsFit c l then
      if d.brFits c l false then some (l, false) else if d.brFits c l true then some (l, true) else none
    else none

/-- The level in force, as CHN_ENC_LEVEL reports it. -/
def Dev.levelNow (d : Dev) (c : Nat) : Option Level :=
  (levelsOf (d.codec c)).find? (fun l => l.code == d.rd (CHN_ENC_LEVEL.LEVEL.on c))

/-- The level's largest bit rate in kbit/s (R139), and its largest buffer in bytes (R121); AV1's buffer is one second. -/
def Dev.levelMaxRate (d : Dev) (c : Nat) (l : Level) (high : Bool) : Nat :=
  d.scaledBits c (if high then l.brHigh else l.brMain) / 1000
def Dev.levelMaxBuf (d : Dev) (c : Nat) (l : Level) (high : Bool) : Nat :=
  if d.codec c = 1 then d.scaledBits c (if high then l.brHigh else l.brMain) / 8
  else d.scaledBits c (if high then l.cpbHigh else l.cpbMain) / 8

/-- The peak in force: as written, clipped to 100 to 1,000,000 and to the level's largest bit rate (R139, R142). -/
def Dev.peakAsSet (d : Dev) (c : Nat) : Nat := clampNat 100 1000000 (d.rd (CHN_RC_PEAK.RATE.on c))
def Dev.levelRate (d : Dev) (c : Nat) : Nat :=
  match d.levelNow c with
  | some l => d.levelMaxRate c l (d.bit (CHN_ENC_LEVEL.TIER.on c))
  | none => 1000000
def Dev.peakNow (d : Dev) (c : Nat) : Nat := min (d.peakAsSet c) (d.levelRate c)
def Dev.targetNow (d : Dev) (c : Nat) : Nat := min (clampNat 100 1000000 (d.rd (CHN_RC_TARGET.RATE.on c))) (d.peakNow c)

/-- Bmax: peak times buffer length, in whole bytes (R120). -/
def Dev.bmax (d : Dev) (c : Nat) : Nat := d.peakNow c * d.rd (CHN_RC_BUF.BUF_MS.on c) / 8

/-! Floors (R129). -/

/-- Floor of `rows` rows of the picture that lie in `slices` slices. -/
def Dev.floorOf (d : Dev) (c rows slices : Nat) : Nat := 8 * d.ctuCols c * rows + 64 * slices
def Dev.sliceFloor (d : Dev) (c s : Nat) : Nat := d.floorOf c (d.rowTo c s - d.rowFrom c s) 1
def Dev.picFloor (d : Dev) (c : Nat) : Nat := d.floorOf c (d.ctuRows c) (d.nSlices c)

/-! The rules CONFIGURE checks.  Each entry is a broken rule's register offset (R543). -/

def chkIf (b : Bool) (off : Nat) : List Nat := if b then [off] else []

def Dev.mini (d : Dev) (l : Nat) : Nat := match d.rd (CHN_ENC_GOP.BLEN.on l) with | 0 => 2 | 1 => 4 | _ => 8
def Dev.hierB (d : Dev) (l : Nat) : Bool := d.rd (CHN_ENC_GOP.STRUCT.on l) == 1

/-- Rules on kind, source and sinks (R44, R46, R75, R398). -/
def Dev.brokenSource (d : Dev) (c : Nat) : List Nat :=
  let dec := d.isDecode c
  let k := d.rd (CHN_SRC.KIND.on c)
  let host := d.bit (CHN_SINK.HOST.on c)
  let src := d.rd (CHN_SRC.IDX.on c)
  chkIf (k ≥ 5 || (dec && !(k == 0 || k == 1)) || (!dec && k == 1)) 0x050
    ++ chkIf (!dec && k == 2 && src > 7) 0x050
    ++ chkIf (!dec && k == 3 && (!d.isDecode src || !d.bit (CHN_SINK.SURFACE.on src))) 0x050
    ++ chkIf (!dec && k == 3 && d.isLive src != d.isLive c) 0x050
    ++ chkIf (if dec then d.bit (CHN_SINK.EGRESS.on c) || !(host || d.bit (CHN_SINK.SURFACE.on c))
        else d.bit (CHN_SINK.SURFACE.on c) || !(host || d.bit (CHN_SINK.EGRESS.on c))) 0x054
    ++ chkIf (d.rd ((DMA_CH_CFG.ROLE (c % 32)).on (c / 32)) != 0 && (k == 0 || host)) (if host then 0x054 else 0x050)

/-- A channel's picture is larger than the source's, or smaller than an eighth of it (R46 rule 2). -/
def Dev.sizeBad (d : Dev) (c s : Nat) : Bool :=
  d.width c > d.width s || d.height c > d.height s || 8 * d.width c < d.width s || 8 * d.height c < d.height s

/-- A channel's format is wider than the source's (R46 rule 3). -/
def Dev.formatBad (d : Dev) (c s : Nat) : Bool := (d.tenBit c && !d.tenBit s) || (d.c422 c && !d.c422 s)

/-- The channels, not CLOSED, whose source is channel `c`: members of its group, and what its surface link feeds. -/
def Dev.fedBy (d : Dev) (c : Nat) : List Nat := (List.range 256).filter (fun k => k != c && d.chState k != 0 && d.sourceOf k == c)

/-- Rules of a rendition group that the channels already configured would break with this one as their source or leader (R46 rules 2, 3, 7).
A leader with a surface link names its members' source in CHN_SRC. DETAIL is the register the rule reads (DEDUCED, log entry 219). -/
def Dev.brokenFed (d : Dev) (c : Nat) : List Nat :=
  let fed := d.fedBy c
  let s := d.sourceOf c
  let own := if d.isDecode c || d.isMember c then [] else d.membersOf c
  chkIf (fed.any (fun k => d.sizeBad k c)) 0x05C
    ++ chkIf (fed.any (fun k => d.formatBad k c)) 0x064
    ++ chkIf (s != c && own.any (fun k => d.sizeBad k s || d.formatBad k s)) 0x050
    ++ chkIf ((fed ++ own).any (fun k => d.isLive k != d.isLive c)) 0x04C

/-- Rules of a rendition group (R46). -/
def Dev.brokenGroup (d : Dev) (c : Nat) : List Nat :=
  if d.isDecode c then []
  else
    let s := d.sourceOf c
    let l := d.leaderOf c
    let own := !d.isMember c
    chkIf (s != c && d.sizeBad c s) 0x05C
      ++ chkIf (s != c && d.formatBad c s) 0x064
      ++ (if own then []
        else
          chkIf (l == c || d.isDecode l || d.isMember l) 0x058
            ++ chkIf (d.rd (CHN_GROUP.DIV.on c) == 0 || d.rd (CHN_GROUP.DIV.on c) > 8) 0x058
            ++ chkIf (((d.membersOf l).filter (· != c)).length + 2 > 6) 0x058
            ++ chkIf (d.isLive l != d.isLive c) 0x058
            ++ chkIf (d.rd (CHN_ENC_GOP.IRAP_LEN.on l) % d.divOf c != 0) 0x058
            ++ chkIf (d.hierB l && d.divOf c != 1) 0x058)

/-- Rules on mode, size, rate and format (R73, R77 to R80, R102). -/
def Dev.brokenFormat (d : Dev) (c : Nat) : List Nat :=
  let dec := d.isDecode c
  let w := d.width c
  let h := d.height c
  let n := d.rd (CHN_FRATE.NUM.on c)
  let m := d.rd (CHN_FRATE.DEN.on c)
  let cd := d.codec c
  chkIf (cd > 2) 0x04C
    ++ chkIf (w < 64 || w > 8192 || w % 8 != 0 || h < 64 || h > 4352 || h % 8 != 0) 0x05C
    ++ chkIf (!d.isMember c && (n == 0 || m == 0 || n < m || n > 120 * m)) 0x060
    ++ chkIf ((cd == 1 && d.c422 c) || (cd == 2 && (d.c422 c || d.tenBit c))) 0x064
    ++ chkIf (dec && d.rd (CHN_DEC_LIMITS.REFS.on c) == 0) 0x068
    ++ chkIf (!dec && d.rd (CHN_SRC.KIND.on c) == 2 && !d.c422 c) 0x064
    ++ chkIf (!dec && d.rd (CHN_SRC.KIND.on c) == 2 && (w > 1920 || h > 1080)) 0x05C
    ++ chkIf (!dec && d.rd (CHN_SRC.KIND.on c) == 2 && n > 60 * m) 0x060

/-- A decode channel's picture size lies within the highest level of its codec (R77, R152). -/
def Dev.decodeFits (d : Dev) (c : Nat) : Bool :=
  let top (k size : Nat) : Level := ⟨k, size, 0, 0, 0, 0, 0, 0, 8192, 4352⟩
  match d.codec c with
  | 2 => d.sizeFits c (top 51 36864)
  | 1 => d.sizeFits c (top 13 8912896)
  | _ => d.sizeFits c (top 156 8912896)

/-- Rules on the decode registers (R77, R148, R152, R169 to R171). -/
def Dev.brokenDecode (d : Dev) (c : Nat) : List Nat :=
  if !d.isDecode c then []
  else
    chkIf (!d.decodeFits c) 0x05C
      ++ chkIf (d.rd (CHN_DEC_CFG.XPORT.on c) > 2 || d.rd (CHN_DEC_CFG.NOUT.on c) < 2) 0x140
      ++ chkIf (d.rd (CHN_DEC_JB.PKTS.on c) < 64 || d.rd (CHN_DEC_JB.JB_MS.on c) > 1000) 0x144
      ++ chkIf (d.rd (CHN_SRC.KIND.on c) == 1 && (d.rd (CHN_DEC_CFG.XPORT.on c) == 1 || d.rd (CHN_DEC_CFG.XPORT.on c) == 2)
          && (d.rd (CHN_DEC_TS.PID.on c) < 0x10 || d.rd (CHN_DEC_TS.PID.on c) > 0x1FFE)) 0x148

/-- Ten times the pixel-engine cycles of a slice (R61, R101): T is this over 11 ns. -/
def Dev.sliceWork (d : Dev) (c : Nat) : Nat :=
  let lines := min (d.height c) (d.sliceRows c * d.ctu c)
  let s := d.sourceOf c
  d.width c * lines * d.pcFactor c + (if d.isMember c || !d.isScaled c then 0
    else d.width s * d.height s * lines * (if d.quality c then 32 else 16) / max 1 (d.height c))

/-- Rules on slices, structure and tools (R46, R97, R100, R101, R109 to R112, R115).  PAR, SLICE_ROWS and NBUF beyond their ranges break the
configuration, with their register's offset as DETAIL (DESIGN CHOICE, log entry 207: the spec gives the ranges alone). -/
def Dev.brokenStructure (d : Dev) (c : Nat) : List Nat :=
  if d.isDecode c then []
  else
    let live := d.isLive c
    let cd := d.codec c
    let work := d.sliceWork c
    let span := 11 * 1000000000 * d.rateDen c
    let done := work * d.rateNum c * d.nSlices c
    let own := !d.isMember c
    let nref := d.rd (CHN_ENC_REFS.NREF.on c)
    let nbuf := d.rd (CHN_ENC_SRC_BUFS.NBUF.on c)
    let off (v : Nat) : Bool := decide (signedOf 4 v < -6) || decide (signedOf 4 v > 6)
    chkIf (cd == 1 && d.ctu c == 32) 0x080
      ++ chkIf (d.rd (CHN_ENC_STRUCT.PAR.on c) > 8 || d.rd (CHN_ENC_STRUCT.SLICE_ROWS.on c) > 136) 0x080
      ++ chkIf (d.par c > d.nSlices c) 0x080
      ++ chkIf (d.costPc c > d.par c * 1100) 0x080
      ++ chkIf (live && done > span + 11 * 450000 * d.rateNum c * d.nSlices c) 0x080
      ++ chkIf (live && d.par c * span < done) 0x080
      ++ chkIf (d.nSlices c > (match cd with | 1 => 64 / d.tileCols c | 2 => 136 | _ => 200)) 0x080
      ++ (if own then
          chkIf (d.rd (CHN_ENC_GOP.STRUCT.on c) > 1 || d.rd (CHN_ENC_GOP.BLEN.on c) == 3) 0x084
            ++ chkIf (live && d.hierB c) 0x084
            ++ chkIf ((d.membersOf c).any (fun m => d.rd (CHN_ENC_GOP.IRAP_LEN.on c) % d.divOf m != 0 || (d.hierB c && d.divOf m != 1))) 0x084
            ++ chkIf (d.mini c == 8 && d.rd (CHN_ENC_GOP.IRAP_LEN.on c) % 8 != 0) 0x084
            ++ chkIf (d.bit (CHN_ENC_GOP.IRAP_TYPE.on c) && !(cd == 0 && d.hierB c)) 0x084
            ++ chkIf (nbuf > 12 || nbuf < (if d.hierB c then d.mini c + 2 else 2)) 0x098
        else [])
      ++ chkIf (nref < 1 || nref > 4) 0x088
      ++ chkIf (off (d.rd (CHN_ENC_TOOLS.TC_OFF.on c)) || off (d.rd (CHN_ENC_TOOLS.BETA_OFF.on c))) 0x08C

/-- Rules on level and rate control (R106, R121, R124, R125, R142 to R144). -/
def Dev.brokenRate (d : Dev) (c : Nat) : List Nat :=
  if d.isDecode c then []
  else
    let cd := d.codec c
    let ls := levelsOf cd
    let mode := d.rd (CHN_RC_MODE.MODE.on c)
    let t := d.rd (CHN_RC_TARGET.RATE.on c)
    let p := d.rd (CHN_RC_PEAK.RATE.on c)
    let qmax := if cd = 1 then 255 else 51
    let qi := d.rd (CHN_RC_QP.QI.on c)
    let qx := d.rd (CHN_RC_QP.QMAX.on c)
    let qn := d.rd (CHN_RC_QP.QMIN.on c)
    let bm := p * d.rd (CHN_RC_BUF.BUF_MS.on c) / 8
    chkIf (!ls.any (d.sizeFits c)) 0x05C
      ++ chkIf (!ls.any (d.rateFits c)) (if d.isMember c then 0x05C else 0x060)
      ++ chkIf (!ls.any (d.partsFit c)) 0x080
      ++ chkIf (!ls.any (fun l => d.brFits c l false || d.brFits c l true)) 0x108
      ++ (match d.levelPick c with | some (l, h) => chkIf (bm > d.levelMaxBuf c l h) 0x10C | none => [])
      ++ chkIf ((mode == 3) != d.isLive c) 0x100
      ++ chkIf (t < 100 || t > 1000000) 0x104
      ++ chkIf (p < 100 || p > 1000000) 0x108
      ++ chkIf (d.rd (CHN_RC_BUF.INIT_PCT.on c) < 10 || d.rd (CHN_RC_BUF.INIT_PCT.on c) > 100
          || d.rd (CHN_RC_BUF.BUF_MS.on c) < 1 || d.rd (CHN_RC_BUF.BUF_MS.on c) > 10000) 0x10C
      ++ chkIf (qi > qmax || qx > qmax || qn > qmax || qn > qx) 0x110
      ++ chkIf ((if p < 100 || p > 1000000 then t else min t p) * 125 * d.rateDen c < (d.picFloor c + 512) * d.rateNum c) 0x104

/-- Rules on the packetiser (R388, R371 to R377). -/
def Dev.brokenPacket (d : Dev) (c : Nat) : List Nat :=
  if d.isDecode c then []
  else
    let mx := d.rd (CHN_PKT_CFG.MAXDG.on c)
    let xp := d.rd (CHN_PKT_CFG.XPORT.on c)
    let pmt := d.rd (CHN_PKT_TS.PMT_PID.on c)
    let vid := d.rd (CHN_PKT_TS.VID_PID.on c)
    let rtx := d.bit (CHN_RTX_CFG.EN.on c)
    chkIf (mx < 576 || mx > 1500 || d.rd (CHN_PKT_CFG.FEED.on c) == 3 || xp == 3) 0x1C0
      ++ chkIf (pmt < 0x10 || pmt > 0x1FFE || vid < 0x10 || vid > 0x1FFE || pmt == vid) 0x1D4
      ++ chkIf (d.rd (CHN_RTX_CFG.RTX_MS.on c) > 256) 0x1E0
      ++ chkIf (rtx && xp == 1) 0x1E0
      ++ chkIf (rtx && d.rd (CHN_PKT_SSRC.SSRC.on c) == d.rd (CHN_PKT_RTX_SSRC.SSRC.on c)) 0x1E0

/-- The offsets to which broken rules are attributed; the configuration is valid where there is none. -/
def Dev.broken (d : Dev) (c : Nat) : List Nat :=
  d.brokenSource c ++ d.brokenGroup c ++ d.brokenFed c ++ d.brokenFormat c ++ d.brokenDecode c ++ d.brokenStructure c ++ d.brokenRate c
    ++ d.brokenPacket c

/-- DETAIL: the lowest of them (R543). -/
def leastOf : List Nat → Nat
  | [] => 0
  | x :: r => if r.isEmpty then x else min x (leastOf r)

/-! Memory (R187, R264, R265, R544). -/

def roundUp (v k : Nat) : Nat := cdiv v k * k

/-- Bytes of a raw-layout store (R264). -/
def rawStride (w : Nat) (ten : Bool) : Nat := roundUp (w * (if ten then 2 else 1)) 64
def rawChroma (w h : Nat) (ten : Bool) : Nat := roundUp (rawStride w ten * h) 4096
def rawSize (w h : Nat) (ten c422 : Bool) : Nat :=
  roundUp (rawChroma w h ten + rawStride w ten * (if c422 then h else cdiv h 2)) 4096

/-- Geometry of a Chamois surface (R265): blocks per row, block rows of luma and chroma, slot bytes, header bytes per row. -/
structure Cham where
  bw : Nat
  rowsY : Nat
  rowsC : Nat
  slot : Nat
  hw : Nat
  deriving DecidableEq, Repr

def chamOf (w h : Nat) (ten c422 lumaOnly : Bool) : Cham :=
  let bw := roundUp w 64 / 32
  let ry := roundUp h 64 / 4
  { bw := bw, rowsY := ry, rowsC := if lumaOnly then 0 else if c422 then ry else ry / 2
    slot := if ten then 160 else 128, hw := roundUp bw 32 }

/-- Offsets of the four areas of a Chamois surface, and its size. -/
def Cham.chromaAt (g : Cham) : Nat := roundUp (g.bw * g.rowsY * g.slot) 4096
def Cham.headY (g : Cham) : Nat := g.chromaAt + roundUp (g.bw * g.rowsC * g.slot) 4096
def Cham.headC (g : Cham) : Nat := g.headY + roundUp (g.hw * g.rowsY) 4096
def Cham.size (g : Cham) : Nat := g.headC + roundUp (g.hw * g.rowsC) 4096

/-- The store groups of a channel in the order of R544: number of stores and bytes of each; zero stores where not taken. -/
def Dev.storePlan (d : Dev) (c : Nat) : List (Nat × Nat) :=
  let w := d.width c
  let h := d.height c
  let t := d.tenBit c
  let f := d.c422 c
  let cham := (chamOf w h t f false).size
  if d.isDecode c then
    [(0, 0), (0, 0), (0, 0), (0, 0), (d.rd (CHN_DEC_LIMITS.REFS.on c) + 1, cham),
      if d.bit (CHN_SINK.HOST.on c) then (1, 4096 + d.rd (CHN_DEC_CFG.NOUT.on c) * rawSize w h t f) else (0, 0)]
  else
    let own := !d.isMember c
    let s := d.sourceOf c
    let nref := d.rd (CHN_ENC_REFS.NREF.on c)
    let hb := d.hierB (d.leaderOf c)
    [if own then (d.rd (CHN_ENC_SRC_BUFS.NBUF.on c),
        if d.rd (CHN_SRC.KIND.on c) = 3 then (chamOf (d.width s) (d.height s) (d.tenBit s) (d.c422 s) false).size
        else rawSize w h t f) else (0, 0),
     if own then (if d.hierB c then d.mini c + 1 else 2, (chamOf (d.width s / 2) (d.height s / 2) (d.tenBit s) false true).size) else (0, 0),
     if d.isScaled c then (2, cham) else (0, 0),
     (if hb then 2 * nref + 2 else nref + 1, cham), (0, 0), (0, 0)]

/-- Bytes of all the channel's stores. -/
def Dev.storeBytes (d : Dev) (c : Nat) : Nat := ((d.storePlan c).map (fun e => e.1 * e.2)).sum

/-- HBM address of store `k` of group `g`: the stores follow one another in the order of the table (DESIGN CHOICE, log 21). -/
def Dev.storeAt (d : Dev) (c g k : Nat) : Nat :=
  let plan := d.storePlan c
  (match (d.ch c).memory with | some m => m.1 | none => 0)
    + ((plan.take g).map (fun e => e.1 * e.2)).sum + k * (plan.getD g (0, 0)).2

/-- The picture's area in units of 4,096 samples, counted as the CTU 64 grid (R187). -/
def Dev.units (d : Dev) (c : Nat) : Nat := cdiv (d.width c) 64 * cdiv (d.height c) 64

/-- SYN chunks of the channel's reserved minimum (R187). -/
def Dev.synChunks (d : Dev) (c : Nat) : Nat :=
  if d.isDecode c then
    let n := max 1 (d.rateNum c)
    cdiv (4 * d.rd (CHN_DEC_LIMITS.PEAK.on c) * 1000 * d.rateDen c + 2 * (48 * d.units c + 65536) * n) (262144 * n) + 1
  else
    let bm := d.rd (CHN_RC_PEAK.RATE.on c) * d.rd (CHN_RC_BUF.BUF_MS.on c) / 8
    cdiv (2 * bm + 48 * d.units c + 1024 * d.nSlices c) 262144 + 1

end Sys2Proof.Machine
end

