-- ==== Sys2Proof/Machine/Chamois.lean ====
section
/-!
DEFINITION. The Chamois block format (R265 to R275): coding and reading a block, block addresses, the raw layout of R264, and
the figures kept of a surface (R273, R281, R282).
-/

namespace Sys2Proof.Machine

/-- The `n` low bits of a number, most significant first. -/
def bitsMsb (n v : Nat) : List Bool := (List.range n).map (fun i => bitAt v (n - 1 - i))

/-- A number from bits, most significant first. -/
def natMsb (l : List Bool) : Nat := l.foldl (fun a b => 2 * a + ofBool b) 0

/-- Bits written most significant first into bytes of rising address, the last byte padded with 0 bits. -/
def packBits (l : List Bool) : List Byte :=
  (List.range (cdiv l.length 8)).map (fun i =>
    let b := (l.drop (8 * i)).take 8
    BitVec.ofNat 8 (natMsb b * 2 ^ (8 - b.length)))

/-- The bits of bytes, most significant first. -/
def unpackBits (l : List Byte) : List Bool := l.flatMap (fun b => bitsMsb 8 b.toNat)

/-- The prediction of R270 inside one array of `cols` columns, from the values before position `i` in raster order. -/
def chamPred (v : List Nat) (cols i : Nat) : Nat :=
  let r := i / cols
  let c := i % cols
  if r = 0 then v.getD (c - 1) 0
  else if c = 0 then v.getD ((r - 1) * cols) 0
  else
    let a := v.getD (i - 1) 0
    let b := v.getD (i - cols) 0
    let d := v.getD (i - cols - 1) 0
    if d ≥ max a b then min a b else if d ≤ min a b then max a b else a + b - d

/-- The Rice parameter: the smallest k up to `n` with N·2^k ≥ A. -/
def riceK (a n0 n : Nat) : Nat := ((List.range n).find? (fun k => a ≤ n0 * 2 ^ k)).getD n

/-- A and N after a residual mapped to `m`. -/
def riceNext (a n0 m : Nat) : Nat × Nat := if n0 + 1 = 32 then ((a + m + 1) / 2, 16) else (a + m, n0 + 1)

/-- The bits of residual `m` under Rice parameter `k` (R270). -/
def riceBits (n k m : Nat) : List Bool :=
  let q := m / 2 ^ k
  if q < 16 then List.replicate q true ++ [false] ++ bitsMsb k (m % 2 ^ k) else List.replicate 16 true ++ bitsMsb n m

/-- The residual of a value against its prediction, mapped to 0 … 2^n − 1. -/
def chamMap (n v p : Nat) : Nat :=
  let h := 2 ^ (n - 1)
  let u := (v + 2 ^ n - p + h) % 2 ^ n
  if u ≥ h then 2 * (u - h) else 2 * (h - u) - 1

/-- The bits of one array of 4 rows (R270). -/
def codeArray (v : List Nat) (cols n : Nat) : List Bool :=
  let go (st : Nat × Nat × List Bool) (i : Nat) : Nat × Nat × List Bool :=
    let m := chamMap n (v.getD i 0) (chamPred v cols i)
    let k := riceK st.1 st.2.1 n
    let t := riceNext st.1 st.2.1 m
    (t.1, t.2, st.2.2 ++ riceBits n k m)
  ((List.range (4 * cols - 1)).foldl (fun st i => go st (i + 1)) (if n ≥ 6 then 2 ^ (n - 6) else 1, 1, bitsMsb n (v.getD 0 0))).2.2

/-- The value of a mapped residual added to a prediction. -/
def chamUnmap (n m p : Nat) : Nat := (((p : Int) + (if m % 2 = 0 then (m / 2 : Int) else -((m + 1) / 2 : Int))) % 2 ^ n).toNat

/-- One residual read from bits: its mapped value and the bits left; none where they run out. -/
def riceRead (n k : Nat) (l : List Bool) : Option (Nat × List Bool) :=
  let q := min 16 (l.takeWhile id).length
  if q = 16 then (if (l.drop 16).length < n then none else some (natMsb ((l.drop 16).take n), l.drop (16 + n)))
  else if l.length < q + 1 + k then none
  else some (q * 2 ^ k + natMsb ((l.drop (q + 1)).take k), l.drop (q + 1 + k))

/-- `left` more values of an array read after those in `v` (R270). -/
def readArray (cols n : Nat) : Nat → Nat → Nat → List Nat → List Bool → Option (List Nat × List Bool)
  | 0, _, _, v, l => some (v, l)
  | left + 1, a, n0, v, l =>
    match riceRead n (riceK a n0 n) l with
    | none => none
    | some (m, l) =>
      let t := riceNext a n0 m
      readArray cols n left t.1 t.2 (v ++ [chamUnmap n m (chamPred v cols v.length)]) l

/-- A whole array read. -/
def decodeArray (cols n : Nat) (l : List Bool) : Option (List Nat × List Bool) :=
  if l.length < n then none
  else readArray cols n (4 * cols - 1) (if n ≥ 6 then 2 ^ (n - 6) else 1) 1 [natMsb (l.take n)] (l.drop n)

/-- Elements at even, and at odd, places of a list. -/
def evens (l : List Nat) : List Nat := (List.range (cdiv l.length 2)).map (fun i => l.getD (2 * i) 0)
def odds (l : List Nat) : List Nat := (List.range (l.length / 2)).map (fun i => l.getD (2 * i + 1) 0)

/-- A coded block: its bytes before the padding to whole sectors, at truncation `t`. -/
def codeBlock (ten chroma : Bool) (s : List Nat) (t : Nat) : List Byte :=
  let n := (if ten then 10 else 8) - t
  let v := s.map (fun x => x / 2 ^ t)
  packBits (if chroma then codeArray (evens v) 16 n ++ codeArray (odds v) 16 n else codeArray v 32 n)

/-- Sectors of raw data of a block. -/
def rawSectors (ten : Bool) : Nat := if ten then 5 else 4

/-- The raw form (R268). -/
def rawBlock (ten : Bool) (s : List Nat) : List Byte :=
  if ten then natLE 160 (((List.range s.length).map (fun i => s.getD i 0 % 1024 * 1024 ^ i)).sum) else s.map (fun x => BitVec.ofNat 8 x)

/-- The lossy mode of a surface: sector target and largest truncation in force (R272, R279); none for lossless. -/
def lossyOf (ten : Bool) (mode : Word) (ana : Bool) : Option (Nat × Nat) :=
  let lsb := if ana then 16 else 0
  if bitsOf mode lsb 1 = 0 then none
  else some (clampNat 1 (rawSectors ten) (bitsOf mode (lsb + 8) 3), min 4 (bitsOf mode (lsb + 4) 3))

/-- All elements of a list are equal. -/
def allSame (l : List Nat) : Bool := l.all (fun x => x == l.headD 0)

/-- The header byte and the slot bytes a writer gives a block (R267 to R272); a sector target at the raw count keeps it exact (R277). -/
def writeForm (ten chroma : Bool) (lossy : Option (Nat × Nat)) (s : List Nat) : Nat × List Byte :=
  let raw := rawSectors ten
  if chroma && allSame (evens s) && allSame (odds s) then (0, natLE 2 (s.headD 0) ++ natLE 2 (s.getD 1 0))
  else if !chroma && allSame s then (0, natLE 2 (s.headD 0) ++ natLE 2 0)
  else
    let sect (t : Nat) : Nat := cdiv (codeBlock ten chroma s t).length 32
    let coded (t extra : Nat) : Nat × List Byte :=
      let b := codeBlock ten chroma s t
      if sect t < raw then (extra + 8 * t + sect t, b ++ List.replicate (32 * sect t - b.length) 0)
      else (extra + 64 + raw, rawBlock ten s)
    match lossy with
    | none => coded 0 0
    | some (tgt, tmax) =>
      if tgt ≥ raw then coded 0 0
      else match (List.range (tmax + 1)).find? (fun t => sect t ≤ tgt) with
      | some t => coded t 0
      | none => coded tmax 128

/-- A header is valid (R267). -/
def headerValid (ten : Bool) (h : Nat) : Bool :=
  let sect := h % 8
  let t := h / 8 % 8
  if bitAt h 6 then sect == rawSectors ten && t == 0 else if sect = 0 then t == 0 else sect < rawSectors ten && t ≤ 4

/-- The samples of a block (R268, R270, R271); none for a malformed one (R275). -/
def readForm (ten chroma : Bool) (h : Nat) (slot : List Byte) : Option (List Nat) :=
  let sect := h % 8
  let t := h / 8 % 8
  let full := if ten then 10 else 8
  let back (v : Nat) : Nat := if t = 0 then v else v * 2 ^ t + 2 ^ (t - 1)
  if !headerValid ten h then none
  else if bitAt h 6 then
    some ((List.range 128).map (fun i => if ten then leNat slot / 1024 ^ i % 1024 else (slot.getD i 0).toNat))
  else if sect = 0 then
    let a := leNat (slot.take 2)
    let b := leNat ((slot.drop 2).take 2)
    some ((List.range 128).map (fun i => if chroma && i % 2 == 1 then b else a))
  else
    let bits := unpackBits (slot.take (32 * sect))
    if chroma then
      match decodeArray 16 (full - t) bits with
      | none => none
      | some (cb, rest) =>
        match decodeArray 16 (full - t) rest with
        | none => none
        | some (cr, _) => some ((List.range 128).map (fun i => back ((if i % 2 = 0 then cb else cr).getD (i / 2) 0)))
    else (decodeArray 32 (full - t) bits).map (fun r => r.1.map back)

/-- A place in HBM for surfaces: base and geometry. -/
structure Surf where
  base : Nat
  geo : Cham
  ten : Bool
  deriving DecidableEq, Repr

/-- Address of a block's slot, and of its header byte (R265). -/
def Surf.slotAt (f : Surf) (chroma : Bool) (bx byy : Nat) : Nat :=
  f.base + (if chroma then f.geo.chromaAt else 0) + (byy * f.geo.bw + bx) * f.geo.slot
def Surf.headAt (f : Surf) (chroma : Bool) (bx byy : Nat) : Nat :=
  f.base + (if chroma then f.geo.headC else f.geo.headY) + byy * f.geo.hw + bx

/-- A block of samples goes into a surface; the answer also says whether it is an OVER block. -/
def Dev.putBlock (d : Dev) (f : Surf) (lossy : Option (Nat × Nat)) (chroma : Bool) (bx byy : Nat) (s : List Nat) : Dev × Bool :=
  let w := writeForm f.ten chroma lossy s
  ((d.store .hbm (f.slotAt chroma bx byy) w.2).store .hbm (f.headAt chroma bx byy) [BitVec.ofNat 8 w.1], bitAt w.1 7)

/-- The memories as the writes posted so far leave them. -/
def Env.seen (e : Env) (d : Dev) : Env := { e with mem := e.mem.apply d.posted }

/-- The samples of a block of a surface; none where it is malformed. -/
def Env.block (e : Env) (f : Surf) (chroma : Bool) (bx byy : Nat) : Option (List Nat) :=
  readForm f.ten chroma (leNat (e.bytes .hbm (f.headAt chroma bx byy) 1)) (e.bytes .hbm (f.slotAt chroma bx byy) f.geo.slot)

/-- The header bytes of all blocks of a surface. -/
def Env.heads (e : Env) (f : Surf) : List Nat :=
  (List.range f.geo.rowsY).flatMap (fun r => (e.bytes .hbm (f.headAt false 0 r) f.geo.bw).map BitVec.toNat)
    ++ (List.range f.geo.rowsC).flatMap (fun r => (e.bytes .hbm (f.headAt true 0 r) f.geo.bw).map BitVec.toNat)

/-- The histogram of R273: bins T0 to T4, OVER, RAW. -/
def histOf (hs : List Nat) : List Nat :=
  (List.range 5).map (fun t => (hs.filter (fun h => h / 8 % 8 == t)).length)
    ++ [(hs.filter (fun h => bitAt h 7)).length, (hs.filter (fun h => bitAt h 6)).length]

/-- Sectors written per 1,000 raw data sectors, header sectors included (R282); a constant block counts as 1 sector. -/
def fillOf (ten : Bool) (hs : List Nat) : Nat :=
  let data := (hs.map (fun h => max 1 (h % 8))).sum
  if hs.length = 0 then 0 else ((data * 32 + hs.length) * 1000 + hs.length * rawSectors ten * 16) / (hs.length * rawSectors ten * 32)

/-- The samples of one line of a raw-layout picture, from column `x` on, posted (R264): `w` and `h` are those of the layout. -/
def Dev.putRaw (d : Dev) (base w h : Nat) (tenLayout ten chroma : Bool) (line x : Nat) (s : List Nat) : Dev :=
  let a := base + (if chroma then rawChroma w h tenLayout else 0) + line * rawStride w tenLayout + x * (if ten then 2 else 1)
  d.store .hbm a (s.flatMap (fun v => if ten then natLE 2 (v % 1024) else natLE 1 v))

end Sys2Proof.Machine
end

