-- ==== Sys2Proof/Machine/EngineOps.lean ====
section
/-!
DEFINITION. Operations on the pixel engines, the entropy engines and the dispatcher's table that the families of commands
share: service states, job boundaries, quarantine, bindings and loads (R181, R194, R206 to R223, R235 to R249).
-/

namespace Sys2Proof.Machine

def Dev.px (d : Dev) (e : Nat) : Pxe := storeGet (fun _ => Pxe.reset) d.pxes e
def Dev.setPx (d : Dev) (e : Nat) (x : Pxe) : Dev := { d with pxes := storeSet (fun _ => Pxe.reset) d.pxes e x }
def Dev.upPx (d : Dev) (e : Nat) (f : Pxe → Pxe) : Dev := d.setPx e (f (d.px e))
def Dev.en (d : Dev) (e : Nat) : Ene := storeGet (fun _ => Ene.reset) d.enes e
def Dev.setEn (d : Dev) (e : Nat) (x : Ene) : Dev := { d with enes := storeSet (fun _ => Ene.reset) d.enes e x }
def Dev.upEn (d : Dev) (e : Nat) (f : Ene → Ene) : Dev := d.setEn e (f (d.en e))

/-- The background services' state, and the domains whose measurement waits, with `f` applied. -/
def Dev.upBgs (d : Dev) (f : Bgs → Bgs) : Dev := { d with bgs := f d.bgs }
def Dev.upAnts (d : Dev) (f : List Nat → List Nat) : Dev := { d with antWaits := f d.antWaits }

/-! Clocks (R28, R511). -/

/-- The domain has a synthesiser, or the PIPE's PLL (R511). -/
def hasSynth (dom : Nat) : Bool := !(192 ≤ dom && dom ≤ 199) && dom != 216 && dom != 219

/-- The domain's clock runs: its synthesiser is locked; a receive clock while its port is up; the crystal always (R512, R526). -/
def Dev.clockRuns (d : Dev) (dom : Nat) : Bool :=
  if hasSynth dom then d.bit (CLK_STS.LOCK.on dom)
  else if dom = 216 then true else dom != 219 && d.bit (ETH_STS.LINK.on (dom - 192))

/-- The clock domain a page's registers take effect in (R511); a page of the register bus itself is in the fabric's (DEDUCED, log
entry 160). -/
def pageDomain : Pg → Nat → Nat
  | .PXE, i => i
  | .ENE, i => 128 + i
  | .HMC, i | .ARB, i => 160 + i
  | .PSEC, _ | .PSE, _ | .CLS0, _ | .CLS1, _ | .CLS2, _ | .CLS3, _ => 208
  | .SWC, _ | .BPM, _ | .EGS, _ => 209
  | .CHN, _ | .WDP, _ | .RCT, _ => 210
  | .GLB, _ | .ETH, _ => 211
  | .DMA, _ | .PCI, _ => 212
  | .INT0, _ | .INT1, _ | .INT2, _ | .INT3, _ | .HCCC, _ | .HCC, _ => 214
  | .SEC, _ => 215
  | .FLT0, _ | .FLT1, _ | .WDG, _ | .CLK, _ => 216
  | .BGS, _ | .ANT, _ => 217

/-- Does the clock of the page's block run? -/
def Dev.pageClocked (d : Dev) (pg : Pg) (i : Nat) : Bool := d.clockRuns (pageDomain pg i)

/-- A live write waits for the block's clock (R28): the last value written to each bit waits. -/
def Dev.holdLive (d : Dev) (k : Nat) (m v clr : Word) : Dev :=
  let p := storeGet (fun _ => (0, 0, 0)) d.liveHeld k
  if m = 0 ∧ clr = 0 then d
  else { d with liveHeld := storeSet (fun _ => (0, 0, 0)) d.liveHeld k (p.1 ||| m, (p.2.1 &&& ~~~m) ||| (v &&& m), p.2.2 ||| clr) }

/-- A register as it reads but for -W writes: live writes that wait for a stopped clock show (R28). -/
def Dev.shown (d : Dev) (k : Nat) : Word :=
  let h := storeGet (fun _ => (0, 0, 0)) d.liveHeld k
  (d.word k &&& ~~~h.1) ||| (h.2.1 &&& h.1)

/-! The firmware's plans (R476). -/

def Dev.plan (d : Dev) (dom : Nat) : Plan := storeGet (fun _ => Plan.reset) d.bgs.plans dom
def Dev.setPlan (d : Dev) (dom : Nat) (p : Plan) : Dev := d.upBgs (fun b => { b with plans := storeSet (fun _ => Plan.reset) b.plans dom p })

/-- A fault has quarantined a pixel engine at `now`; the plan keeps whether that came within 24 h of the one before (R219). -/
def Dev.noteFault (d : Dev) (now e : Nat) : Dev :=
  let p := d.plan e
  d.setPlan e { p with faultAt := some now, twice := p.faultAt.any (fun t => decide (now ≤ t + 86400000000000)) }

/-! Pixel engines. -/

def Dev.pxeService (d : Dev) (e : Nat) : Nat := d.rd (PXE_STS.SERVICE.on e)
def Dev.pxeSpare (d : Dev) (e : Nat) : Bool := d.bit (PXE_STS.SPARE_ACT.on e)

/-- A job, a load, a check or a self-test is in progress. -/
def Dev.pxeBusy (d : Dev) (e : Nat) : Bool := d.bit (PXE_JOB.ACTIVE.on e) || (d.px e).op != .none

/-- PAGE_STS.IDLE of a pixel engine (R25, R217, R224). -/
def Dev.pxeIdle (d : Dev) (e : Nat) : Bool := d.idleUnless (pagePXE e) (d.pxeBusy e) (d.pxeService e != 1 || d.pxeSpare e)

/-- In service (R217). -/
def Dev.pxeInService (d : Dev) (e : Nat) : Bool := d.pxeService e == 1 && d.enabled (pagePXE e)

/-- The words of a bank: by address, and as the image it was loaded from. -/
def UcBank.word (b : UcBank) (a : Nat) : Nat := storeGet (fun _ => 0) b.words a
def UcBank.image (b : UcBank) : List Nat := (List.range b.len).map b.word

/-- A load writes the words from the bank's first on; those above stay (R209). -/
def UcBank.load (b : UcBank) (l : List Nat) : UcBank :=
  { len := l.length, words := ((List.range l.length).zip l).foldl (fun m w => storeSet (fun _ => 0) m w.1 w.2) b.words }

/-- The words of an image of 8 bytes each, those of one in HBM, and the digest of words: 5 bytes each, bits 7:0 first (R212). -/
def imageWords (bs : List Byte) : List Nat := (List.range (bs.length / 8)).map (fun i => leNat (slice bs (8 * i) 5))
def Env.image (e : Env) (a n : Nat) : List Nat := (List.range n).map (fun i => leNat (e.bytes .hbm (a + 8 * i) 5))
def wordsDigest (l : List Nat) : List Byte := Config.sha384 (l.flatMap (natLE 5))

/-- The fields of a microword (R210). -/
def pxeClass (w : Nat) : Nat := w / 2 ^ 37 % 8
def pxeNext (w : Nat) : Nat := w / 2 ^ 24 % 8192
def pxeNway (w : Nat) : Nat := w / 2 ^ 21 % 8
def pxeCsel (w : Nat) : Nat := w / 2 ^ 16 % 32
def pxeOps (w : Nat) : Nat := w % 2 ^ 16

/-- The next address: NEXT OR the low NWAY bits of the condition group (R192, R211). -/
def ucNext (next nway cond : Nat) : Nat := next ||| cond % 2 ^ nway

/-- The word at `a` is illegal: its NWAY is 5 to 7, or the address it forms lies at or beyond the bank's length (R211). -/
def UcBank.illegal (b : UcBank) (a cond : Nat) : Bool :=
  let w := b.word a
  decide (pxeNway w > 4) || decide (ucNext (pxeNext w) (pxeNway w) cond ≥ b.len)

/-- The word at `a` is illegal whatever its condition group holds. -/
def UcBank.dead (b : UcBank) (a : Nat) : Bool := (List.range 16).all (fun c => b.illegal a c)

def Dev.bankValid (d : Dev) (e bank : Nat) : Bool :=
  d.bit ((if bank = 0 then PXE_UC_STS.VALID0 else PXE_UC_STS.VALID1).on e)
def Dev.bankGen (d : Dev) (e bank : Nat) : Nat := d.rd ((if bank = 0 then PXE_UC_GEN.GEN0 else PXE_UC_GEN.GEN1).on e)

def Pxe.bank (x : Pxe) (bank : Nat) : UcBank := if bank = 0 then x.bank0 else x.bank1

/-- The pc a job may take (R231, R234). -/
def Dev.jobLimit (d : Dev) (e : Nat) : Nat := max 1 (d.rd (PXE_WDOG.LIMIT.on e)) * 4194304

/-- The bank that validly holds a generation (R209). -/
def Dev.bankOf (d : Dev) (e gen : Nat) : Option Nat :=
  if d.bit (PXE_UC_STS.VALID0.on e) && d.rd (PXE_UC_GEN.GEN0.on e) == gen then some 0
  else if d.bit (PXE_UC_STS.VALID1.on e) && d.rd (PXE_UC_GEN.GEN1.on e) == gen then some 1
  else none

/-- The bank whose datapath test a self-test runs: the valid one with the higher generation (R219). -/
def Dev.testBank (d : Dev) (e : Nat) : Option Nat :=
  if d.bankValid e 0 && (!d.bankValid e 1 || d.bankGen e 1 < d.bankGen e 0) then some 0 else some 1

/-- The working set (R249). -/
def Dev.working (d : Dev) : List Nat := (List.range 128).filter (fun e => d.pxeInService e && !d.pxeSpare e)

/-- The engine may be given this job now (R237, R221). -/
def Dev.eligible (d : Dev) (e : Nat) (j : Job) : Bool :=
  d.pxeInService e && d.open_ (pagePXE e) && !d.pxeSpare e && !d.pxeBusy e && !d.bit (PXE_OPP_STS.CHANGING.on e)
    && (d.bankOf e j.gen).isSome && !j.excluded.contains e

/-- An engine enters quarantine (R217): ST_RESULT 0, EVT_STS.QUARANTINED. -/
def Dev.quarantine (d : Dev) (e : Nat) : Dev :=
  ((d.wr (PXE_STS.SERVICE.on e) 2).wr (PXE_STS.ST_RESULT.on e) 0).event (PXE_EVT.QUARANTINED.on e)

/-! Clock domains and Antler measurements (R475). -/

/-- A change of the domain's operating point is in progress. -/
def Dev.changing (d : Dev) (dom : Nat) : Bool := d.bit (CLK_STS.CHANGING.on dom) || (dom < 128 && d.bit (PXE_OPP_STS.CHANGING.on dom))

/-- A measurement runs in the domain: it does not wait for a change, nor for its page to be enabled. -/
def Dev.measuring (d : Dev) (dom : Nat) : Bool := d.bit (ANT_STS.BUSY.on dom) && !d.antWaits.contains dom

/-- A measurement that waits starts where nothing holds it any more. -/
def Dev.antResume (d : Dev) (dom : Nat) : Dev :=
  if d.antWaits.contains dom && d.open_ (pageANT dom) && !d.changing dom then d.upAnts (fun l => l.filter (· != dom)) else d

/-- The steps from the point in force to another: a raise takes the voltage first, what lowers it the frequency first (R221). -/
def Dev.oppStepsTo (d : Dev) (e v f : Nat) : List OppStep :=
  let w := d.rd (PXE_OPP_STS.VSET.on e)
  if w < v then [.voltage v, .frequency f] else if v < w then [.frequency f, .voltage v] else [.frequency f]

/-- A latched operating point is applied, or waits for the domain's Antler measurement; it takes the place of one that is still being
applied (R221). -/
def Dev.startOpp (d : Dev) (e : Nat) : Dev :=
  let v := min 32 (d.rd (PXE_OPP.VSET.on e))
  let f := clampNat 60 130 (d.rd (PXE_OPP.FREQ.on e))
  if d.rd (PXE_OPP_STS.VSET.on e) = v ∧ d.rd (PXE_OPP_STS.FREQ.on e) = f ∧ !d.bit (PXE_OPP_STS.CHANGING.on e) then d
  else
    let d := d.wr (PXE_OPP_STS.CHANGING.on e) 1
    if d.measuring e then d.upPx e (fun x => { x with oppWaits := some (v, f) })
    else d.upPx e (fun x => { x with oppSteps := d.oppStepsTo e v f })

/-- The boundary of a pixel engine without a job: pending -W writes latch (R30), and with them SPARE (R224) and the
operating point (R221).  It takes cycles of the engine's clock, and so waits while that is stopped. -/
def Dev.pxeBoundary (d : Dev) (e : Nat) : Dev :=
  if !d.clockRuns e then d
  else
    let was := d.word (0x100048 + 0x1000 * e)
    let d := d.latch (pagePXE e)
    let d := d.wr (PXE_STS.SPARE_ACT.on e) (d.rd (PXE_CTL.SPARE.on e))
    if d.word (0x100048 + 0x1000 * e) = was then d else d.startOpp e

/-- The job on an engine has ended: the engine has none, a waiting QUAR acts (R218), and the boundary is passed. -/
def Dev.pxeFree (d : Dev) (e : Nat) : Dev :=
  let d := d.setWord (0x10007C + 0x1000 * e) 0
  let d := if (d.px e).quarAfter then (d.upPx e (fun x => { x with quarAfter := false })).quarantine e else d
  d.pxeBoundary e

/-- What the reference cache holds after a job that did not commit, or after a test of the SRAM, is not stated: any block may miss (log entry 190). -/
def Dev.clearCache (d : Dev) (e : Nat) : Dev := d.upPx e (fun x => { x with cache := [] })

/-- A job ends without commit: the pc it took and its cache misses count too (R223); how many is not stated (log entry 86), but for the
pc of one that the watchdog ends. -/
def Dev.pxeSpent (d : Dev) (e : Nat) (cycles : Option Nat) : Dev :=
  let m := d.freeVal 32
  let v := match cycles with | some n => (n, m.2) | none => m.2.freeVal 32
  ((v.2.count (PXE_CNT_REF_MISS.COUNT.on e) m.1).count (PXE_CNT_BUSY.COUNT.on e) v.1).clearCache e

/-- Such a job leaves its engine. -/
def Dev.pxeLose (d : Dev) (e : Nat) : Dev := (d.pxeSpent e none).pxeFree e

/-- A slice leaves an entropy engine before its end: its ec cycles and bins count too (R198); how many is not stated (log entry
86). -/
def Dev.eneLose (d : Dev) (e : Nat) : Dev :=
  let a := d.freeVal 32
  let b := a.2.freeVal 32
  (b.2.count (ENE_CNT_BINS.COUNT.on e) a.1).count (ENE_CNT_BUSY.COUNT.on e) b.1

/-! The dispatcher's table. -/

def Dev.jobs (d : Dev) : List Job := d.wdp.jobs
def Dev.setJobs (d : Dev) (l : List Job) : Dev := { d with wdp := { d.wdp with jobs := l } }

/-- The job an engine runs. -/
def Dev.jobOn (d : Dev) (e : Nat) : Option Job := d.jobs.find? (fun j => j.engine == some e)

/-- The same job: channel, stage, picture and slice. -/
def Job.same (j k : Job) : Bool := j.chn == k.chn && j.stage == k.stage && j.pic == k.pic && j.slice == k.slice

/-- A new ready job enters the table, once. -/
def Dev.addJob (d : Dev) (j : Job) : Dev :=
  if d.jobs.any (·.same j) then d
  else { d with wdp := { d.wdp with jobs := d.wdp.jobs ++ [{ j with seq := d.wdp.seq }], seq := d.wdp.seq + 1 } }

/-- A job leaves the table. -/
def Dev.dropJob (d : Dev) (j : Job) : Dev := d.setJobs (d.jobs.filter (fun k => !k.same j))

/-- The jobs of a channel are discarded; the engines that ran them have none (R52). -/
def Dev.dropJobsOf (d : Dev) (c : Nat) : Dev :=
  let on := d.jobs.filterMap (fun j => if j.chn = c then j.engine else none)
  (d.setJobs (d.jobs.filter (fun j => j.chn != c))).forEach on Dev.pxeLose

/-- Engines that run scheduled jobs, and live jobs (R261). -/
def Dev.busySched (d : Dev) : Nat := (d.jobs.filter (fun j => j.engine.isSome && !j.live)).length
def Dev.busyLive (d : Dev) : Nat := (d.jobs.filter (fun j => j.engine.isSome && j.live)).length
def Dev.inFlight (d : Dev) (c : Nat) : Nat := (d.jobs.filter (fun j => j.chn == c && j.engine.isSome)).length

/-! Entropy engines. -/

def Dev.eneService (d : Dev) (e : Nat) : Nat := d.rd (ENE_STS.SERVICE.on e)
def Dev.eneBusy (d : Dev) (e : Nat) : Bool := (d.en e).running.isSome || d.bit (ENE_CTL.SELFTEST.on e)
def Dev.eneIdle (d : Dev) (e : Nat) : Bool := d.idleUnless (pageENE e) (d.eneBusy e) (d.eneService e != 1)
def Dev.eneInService (d : Dev) (e : Nat) : Bool := d.eneService e == 1 && d.enabled (pageENE e)

/-- The engine a channel is bound to (R205). -/
def Dev.boundTo (d : Dev) (c : Nat) : Option Nat := if d.bit (CHN_ENE_BIND.VALID.on c) then some (d.rd (CHN_ENE_BIND.ENE.on c)) else none

/-- The channels bound to an engine, and its load (R181, R201). -/
def Dev.boundOf (d : Dev) (e : Nat) : List Nat := (List.range 256).filter (fun c => d.boundTo c == some e)
def Dev.eneLoad (d : Dev) (e : Nat) : Nat := ((d.boundOf e).map (fun c => d.rd (CHN_COST_EC.COST.on c))).sum

/-- The engine of lowest load among `l`, ties to the lowest number. -/
def Dev.leastLoaded (d : Dev) : List Nat → Option Nat
  | [] => none
  | e :: r => match d.leastLoaded r with
    | none => some e
    | some f => if d.eneLoad e ≤ d.eneLoad f then some e else some f

/-- A channel is bound to an engine; MOVES rises where it is a move or a rebinding (R205). -/
def Dev.bind (d : Dev) (c e : Nat) (move : Bool) : Dev :=
  let d := (d.wr (CHN_ENE_BIND.VALID.on c) 1).wr (CHN_ENE_BIND.ENE.on c) e
  if move then d.wr (CHN_ENE_BIND.MOVES.on c) (min 255 (d.rd (CHN_ENE_BIND.MOVES.on c) + 1)) else d

/-- An entropy job that has not begun. -/
def newEntropy (c pic slice : Nat) (live : Bool) (deadline : Nat) (hold decode : Bool) : EntJob :=
  { chn := c, pic := pic, slice := slice, live := live, deadline := deadline, seq := 0, hold := hold, decode := decode, made := 0, read := 0
    dry := false, tries := 0 }

/-- An entropy job joins the queue of its channel's engine; without one it waits with the channel (R197). -/
def Dev.addEntropy (d : Dev) (j : EntJob) : Dev :=
  let j := { j with seq := d.wdp.seq }
  let d := { d with wdp := { d.wdp with seq := d.wdp.seq + 1 } }
  match d.boundTo j.chn with
  | some e => d.upEn e (fun x => { x with queue := x.queue ++ [j] })
  | none => { d with unbound := d.unbound ++ [j] }

/-- The entropy jobs of a channel are dropped (R52, R197). -/
def Dev.dropEntropyOf (d : Dev) (c : Nat) : Dev :=
  let d := d.forEach (List.range 32) (fun d e =>
    let x := d.en e
    let d := if x.running.any (fun j => j.chn == c) then d.eneLose e else d
    d.setEn e { x with
      queue := x.queue.filter (fun j => j.chn != c)
      running := if x.running.any (fun j => j.chn == c) then none else x.running
      suspended := x.suspended.filter (fun j => j.chn != c)
      inq := if x.running.any (fun j => j.chn == c) then 0 else x.inq
      outq := x.outq.filter (fun b => b.chn != c) })
  { d with unbound := d.unbound.filter (fun j => j.chn != c) }

/-- Is the engine's own slice the boundary its -W fields wait for?  ENE has no -W field in revision A1; a pending move of a
channel is cancelled with MOVE_REFUSED (R194). -/
def Dev.cancelMoves (d : Dev) (p : Nat → Nat → Bool) : Dev :=
  d.forEach (List.range 32) (fun d e =>
    let x := d.en e
    if x.moves.any (p e) then (d.setEn e { x with moves := x.moves.filter (fun c => !p e c) }).event (ENE_EVT.MOVE_REFUSED.on e) else d)

/-- The binding is released with the reservation (R181, R205); a pending move of the channel is refused with it (R183). -/
def Dev.unbind (d : Dev) (c : Nat) : Dev :=
  (d.cancelMoves (fun _ k => k == c)).setWord (0x40007C + 0x1000 * c) 0

/-- The generation a channel's record holds, and takes (R252). -/
def Dev.genOf (d : Dev) (c : Nat) : Nat := d.rd (WDP_CHN_GEN.GEN.bk c)
def Dev.assignGen (d : Dev) (c g : Nat) : Dev :=
  if d.chActive c then d.wr (WDP_CHN_GEN.PEND.bk c) g
  else (d.wr (WDP_CHN_GEN.GEN.bk c) g).wr (WDP_CHN_GEN.PEND.bk c) 0

end Sys2Proof.Machine
end

