-- ==== Sys2Proof/Machine/RateOps.lean ====
section
/-!
DEFINITION. Slice-deadline rate control: budgets, hard allowances, row quantisers, starvation, repayment and the picture
record (R120 to R139).  Quantisers are kept in the codec's own units; one model unit is `qk` of them (R126).  Powers of two
with a fractional exponent are compared exactly by raising both sides to the 6·qk-th power.
-/

namespace Sys2Proof.Machine

/-- Codec units of a model unit: qindex ÷ 4 for AV1 (R126). -/
def Dev.qk (d : Dev) (c : Nat) : Nat := if d.codec c = 1 then 4 else 1
/-- The codec's largest quantiser (R130). -/
def Dev.qTop (d : Dev) (c : Nat) : Nat := if d.codec c = 1 then 255 else 51

/-- The quantiser limits in force (R144). -/
def Dev.qMax (d : Dev) (c : Nat) : Nat := min (d.qTop c) (d.rd (CHN_RC_QP.QMAX.on c))
def Dev.qMin (d : Dev) (c : Nat) : Nat := min (d.qMax c) (min (d.qTop c) (d.rd (CHN_RC_QP.QMIN.on c)))
def Dev.qInit (d : Dev) (c : Nat) : Nat := min (d.qTop c) (d.rd (CHN_RC_QP.QI.on c))

/-- `m · cx ÷ 1024 · 2^((32 − q) ÷ 6) ≤ t`, with `m` in 16.16 and `q` in codec units, `k` to the model unit. -/
def predictLe (k m cx q t : Nat) : Bool :=
  if q ≤ 32 * k then (m * cx) ^ (6 * k) * 2 ^ (32 * k - q) ≤ (t * 2 ^ 26) ^ (6 * k)
  else (m * cx) ^ (6 * k) ≤ (t * 2 ^ 26) ^ (6 * k) * 2 ^ (q - 32 * k)

/-- The smallest quantiser from `q` upwards, at most `n` steps on, whose prediction is within `t`. -/
def smallestQ (k m cx t q : Nat) : Nat → Nat
  | 0 => q
  | n + 1 => if predictLe k m cx q t then q else smallestQ k m cx t (q + 1) n

/-- The largest number of at most `b` bits whose n-th power is at most `x`. -/
def iroot (n x : Nat) : Nat → Nat → Nat
  | 0, acc => acc
  | b + 1, acc => if (acc + 2 ^ b) ^ n ≤ x then iroot n x b (acc + 2 ^ b) else iroot n x b acc

/-- cx ÷ 1024 · 2^((32 − q) ÷ 6) in 16.16, rounded down (R138). -/
def fitOf (k cx q : Nat) : Nat :=
  let x := (cx * 64) ^ (6 * k)
  iroot (6 * k) (if q ≤ 32 * k then x * 2 ^ (32 * k - q) else x / 2 ^ (q - 32 * k)) 64 0


/-- The value listed for a key, if any. -/
def lookupNat (l : List (Nat × Nat)) (k : Nat) : Option Nat := (l.find? (fun e => e.1 == k)).map (·.2)

/-- Row complexities of channel `c` taken from those of the leader's rows: each leader row's complexity is spread evenly over
its lines, and a row takes the share of the source lines it maps to (DESIGN CHOICE for a member, log entry 23). -/
def Dev.rowCostOf (d : Dev) (c : Nat) (costs : List (Nat × Nat)) (r : Nat) : Nat :=
  let l := d.leaderOf c
  if l = c then (lookupNat costs r).getD 0
  else
    let sh := d.height l
    let lo := r * d.ctu c * sh / max 1 (d.height c)
    let hi := min (d.height c) ((r + 1) * d.ctu c) * sh / max 1 (d.height c)
    sumBy costs (fun e =>
      let a := e.1 * d.ctu l
      let b := min sh (a + d.ctu l)
      if b ≤ a then 0 else e.2 * (min hi b - max lo a) / (b - a))

/-- The weight of a row: its complexity, or its CTUs where no complexity is known (R127). -/
def Dev.rowWeight (d : Dev) (c : Nat) (costs : List (Nat × Nat)) (r : Nat) : Nat :=
  if costs.isEmpty then d.ctuCols c else d.rowCostOf c costs r

/-- The complexities that weigh the rows of a picture: of the picture itself for scheduled channels, of the previous picture for
live ones; none for a picture with no previous picture of its type (R127). -/
def Dev.weightCosts (d : Dev) (c : Nat) (p : Pic) : List (Nat × Nat) :=
  let ch := d.ch c
  if (lookupNat ch.rc.lastQ p.ptype).isNone then []
  else if d.isLive c then ch.rc.prevCost
  else match (d.ch (d.leaderOf c)).src.find? (fun s => s.idx == p.idx) with
    | some s => s.rowCost
    | none => []

/-- The complexity a row's size is predicted from (R126). -/
def Dev.rowCx (d : Dev) (c : Nat) (p : Pic) (r : Nat) : Nat :=
  match (d.ch (d.leaderOf c)).src.find? (fun s => s.idx == p.idx) with
  | some s => d.rowCostOf c s.rowCost r
  | none => 0

def sumRange (a b : Nat) (f : Nat → Nat) : Nat := ((List.range (b - a)).map (fun i => f (a + i))).sum

/-- The coefficient M of a picture (R126). -/
def Rc.model (rc : Rc) (p : Pic) : Nat := if p.ptype = 0 then rc.mI else rc.mP

/-! Rows of a picture. -/

def Pic.slice (p : Pic) (s : Nat) : Option Slice := p.slices.find? (fun x => x.idx == s)
def Pic.upSlice (p : Pic) (s : Nat) (f : Slice → Slice) : Pic :=
  { p with slices := p.slices.map (fun x => if x.idx = s then f x else x) }

/-- Slices none of whose encode jobs was issued. -/
def Pic.unstarted (p : Pic) : List Slice := p.slices.filter (fun s => !s.issued)
/-- Bytes of the picture's committed slices, and the hard allowances of those in flight (R128). -/
def Pic.spent (p : Pic) : Nat := sumBy (p.slices.filter (·.encoded)) (·.bytes)
def Pic.reserved (p : Pic) : Nat := sumBy (p.slices.filter (fun s => s.issued && !s.encoded)) (·.h)

/-- Budget, to the nearest byte, and hard allowance of a slice when its first encode job is issued (R128). -/
def Dev.sliceFigures (d : Dev) (c : Nat) (p : Pic) (s : Nat) : Nat × Nat :=
  let un := p.unstarted
  let fl := d.sliceFloor c s
  let flUn := sumBy un (fun x => d.sliceFloor c x.idx)
  let costs := d.weightCosts c p
  let w (x : Nat) : Nat := sumRange (d.rowFrom c x) (d.rowTo c x) (d.rowWeight c costs)
  let wUn := sumBy un (fun x => w x.idx)
  let free := p.budget - p.spent - p.reserved - flUn
  let part := if wUn = 0 then (Config.evenShare free un.length).toNat else (2 * free * w s + wUn) / (2 * wUn)
  let n := max 1 (min (d.par c) un.length)
  (fl + part, fl + (p.cap - p.spent - p.reserved - flUn) / n)

/-- The free budget G of a row as it starts, plus what is taken from it: `none` stands for 0 or less (R130). -/
def Dev.freeBudget (d : Dev) (c : Nat) (p : Pic) (s row sofar : Nat) : Option Nat :=
  let total := if d.rd (CHN_RC_MODE.MODE.on c) = 2 then p.cap else p.budget
  let others := sumBy (p.slices.filter (fun x => x.issued && !x.encoded && x.idx != s)) (fun x => max x.b x.produced)
  let taken := p.spent + others + sofar + d.floorOf c (d.rowTo c s - row) 1
    + sumBy p.unstarted (fun x => d.sliceFloor c x.idx)
  if total ≤ taken then none else some (total - taken)

/-- The reference row's quantiser (R127): nearest row above that has one, else the first row of the last picture of the type,
else QI. -/
def Dev.refQ (d : Dev) (c : Nat) (p : Pic) (row : Nat) : Nat :=
  let above := (p.slices.flatMap (fun s => s.rowQ.map (fun e => (e.1, e.2.1)))).filter (fun e => e.1 < row)
  match above.foldl (fun (b : Option (Nat × Nat)) e => match b with | some x => if e.1 > x.1 then some e else b | none => some e) none with
  | some e => e.2
  | none => (lookupNat (d.ch c).rc.lastQ p.ptype).getD (d.qInit c)

/-- The level-1 prediction of a row and the later ones of its slice is at most `t` bytes (R126, R130). -/
def Dev.levelOneFits (d : Dev) (c : Nat) (p : Pic) (s : Slice) (row t : Nat) : Bool :=
  predictLe (d.qk c) ((d.ch c).rc.model p) (sumRange row (d.rowTo c s.idx) (d.rowCx c p)) (d.qTop c) (4 * t)

/-- Quantiser and starvation level of a row whose encode job reaches it (R127, R130, R162).  A free budget F below 0 leaves the row less than
its floor; where that leaves nothing, no quantiser keeps within it, and the codec's largest is clipped to QMIN to QMAX.  In CQ the layer
offset of layer 0, to which random-access and P pictures belong, is 0 (DESIGN CHOICE, log entry 41). -/
def Dev.rowChoice (d : Dev) (c : Nat) (p : Pic) (s : Slice) (row sofar : Nat) : Nat × Nat :=
  let rc := (d.ch c).rc
  let k := d.qk c
  let m := rc.model p
  let last2 := s.rowQ.any (fun e => e.2.2 == 2)
  let forced2 := match p.level2From with | some r => r ≤ row | none => false
  if last2 || forced2 then (d.qTop c, 2)
  else if (d.freeBudget c p s.idx row sofar).isNone then
    if d.levelOneFits c p s row (s.h - sofar) && sofar ≤ s.h then (d.qTop c, 1) else (d.qTop c, 2)
  else if d.rd (CHN_RC_MODE.MODE.on c) = 2 then
    (clampNat (d.qMin c) (d.qMax c) (d.qInit c + (if p.layer = 0 then 0 else Config.layerOffset p.layer)), 0)
  else
    let after := d.rowTo c s.idx - row - 1
    let f : Int := (s.b : Int) - sofar - (if after = 0 then 0 else d.floorOf c after 1 : Nat)
    let costs := d.weightCosts c p
    let wAll := sumRange row (d.rowTo c s.idx) (d.rowWeight c costs)
    let den := max 1 wAll
    let share : Int := if wAll = 0 then Config.evenShare f (after + 1) else f * d.rowWeight c costs row
    let t : Int := share + (d.floorOf c 1 1 * den : Nat)
    let q := clampNat (d.qMin c) (d.qMax c) (if t < 0 then d.qTop c else smallestQ k (m * den) (d.rowCx c p row) t.toNat 0 (d.qTop c))
    let ref := d.refQ c p row
    let step := max 1 (d.rd (CHN_RC_MODE.QSTEP.on c)) * k
    (clampNat (ref - step) (ref + step) q, 0)

/-- The type weight of a picture in 64ths (R124). -/
def Dev.typeWeight (d : Dev) (c : Nat) (p : Pic) : Nat :=
  if p.ptype = 0 then 16 * max 4 (d.rd (CHN_RC_MODE.IRAP_MULT.on c))
  else if d.hierB (d.leaderOf c) then (d.ch c).rc.bw / 256 ^ min 3 p.layer % 256
  else 64

/-- The complexity of a picture: the sum over its rows. -/
def Dev.picCost (d : Dev) (c : Nat) (p : Pic) : Nat := sumRange 0 (d.ctuRows c) (d.rowCx c p)

/-- Filler of a picture that would leave B below 0 after the drain (R122): `total` are its bytes, B_start its occupancy. -/
def Dev.fillerOf (d : Dev) (c total bStart : Nat) : Nat :=
  let mode := d.rd (CHN_RC_MODE.MODE.on c)
  let drain := (((d.ch c).rc.drainRate * 125 * d.rateDen c + (d.ch c).rc.drainFrac) / max 1 (d.rateNum c))
  if (mode = 0 ∨ (mode = 3 ∧ d.bit (CHN_RC_MODE.FILL.on c))) ∧ bStart + total < drain then drain - (bStart + total) else 0

/-- Rate control of a picture begins: buffer parameters at a random-access picture (R121), B_start and hard cap (R123), nominal
budget, instalment and P (R124, R132); after a scene change the last picture's fit replaces M_P (R135).
Instalments are charged to coded pictures only: a hold picture has no budget, and pays none (DESIGN CHOICE, log entry 171). -/
def Dev.rcStart (d : Dev) (c : Nat) (p : Pic) (overhead : Nat) : Dev × Pic :=
  let ch := d.ch c
  let rc := ch.rc
  let mode := d.rd (CHN_RC_MODE.MODE.on c)
  let first := !ch.coded
  let rap := p.ptype == 0
  let bmax := if first || rap then d.bmax c else rc.bmax
  let drainRate := if first || rap then (if mode = 0 ∨ mode = 3 then d.targetNow c else d.peakNow c) else rc.drainRate
  let bStart := if first then bmax * (100 - d.rd (CHN_RC_BUF.INIT_PCT.on c)) / 100 else rc.occ
  let n := d.targetNow c * 125 * d.rateDen c + rc.nomFrac
  let nominal := n / max 1 (d.rateNum c)
  let weighted := nominal * d.typeWeight c p
  let cost := d.picCost c p
  let mean := if rc.history.sum = 0 then (max 1 (Config.meanCost cost), 1) else (rc.history.sum, rc.history.length)
  let base : Int := match mode with
    | 0 => ((weighted : Int) + 4 * ((bmax : Int) - 2 * (bStart : Int))) / 64
    | 1 => ((weighted * cost * mean.2 / (64 * mean.1) : Nat) : Int)
    | _ => ((weighted / 64 : Nat) : Int)
  let floor := d.picFloor c
  let cap := bmax - bStart - overhead
  let due := rc.debt.headD 0
  let room := (base - (overhead : Int) - (floor : Int)).toNat
  let inst := if mode = 2 then 0 else min due room
  let debt := match rc.debt.tail with
    | [] => if due - inst = 0 then [] else [due - inst]
    | x :: r => (x + (due - inst)) :: r
  let want := (base - (overhead : Int) - (inst : Int)).toNat
  let budget := if mode = 2 then cap else min cap (max floor want)
  let clip := mode != 2 && decide (max floor want > cap)
  let rc := { rc with bmax := bmax, drainRate := drainRate, occ := bStart, nomFrac := n % max 1 (d.rateNum c), debt := debt
                      mP := rc.sceneFit.getD rc.mP, age := if rc.sceneFit.isSome then 1 else rc.age, sceneFit := none }
  let d := d.upCh c (fun x => { x with rc := rc })
  (d, { p with rcStarted := true, overhead := overhead, budget := budget, nominal := nominal, instal := inst, cap := cap
               capClip := clip, bStart := bStart })

/-- A committed model set latches at the context's next picture (R137).  `age` counts the picture that first uses a model as 1, and the register
shows one less (DESIGN CHOICE, log entry 107). -/
def Dev.latchModel (d : Dev) (c : Nat) : Dev :=
  let rc := (d.ch c).rc
  match rc.staged with
  | some (mp, mi, bw, seq) =>
    (d.upCh c (fun x => { x with rc := { rc with mP := mp, mI := mi, bw := bw, staged := none, age := 1 } })).wr (RCT_CTX_SEQ.SEQ.bk c) seq
  | none => d.upCh c (fun x => { x with rc := { rc with age := min 65536 (rc.age + 1) } })

/-- The drain of one picture period, with the fraction carried (R120). -/
def Dev.drainOf (d : Dev) (c : Nat) (rc : Rc) : Nat × Nat :=
  let n := rc.drainRate * 125 * d.rateDen c + rc.drainFrac
  (n / max 1 (d.rateNum c), n % max 1 (d.rateNum c))

/-- 8 instalments of an overspend, added to those already due (R132). -/
def addDebt (debt : List Nat) (o : Nat) : List Nat :=
  (List.range (max 8 debt.length)).map (fun i => debt.getD i 0 + (if i = 0 then o / 8 + o % 8 else if i < 8 then o / 8 else 0))

/-- The picture record of R138.  A CQ or hold picture has no P: its BUDGET is 0 (DESIGN CHOICE, log entry 172). -/
def Dev.recordOf (d : Dev) (c : Nat) (p : Pic) (bytes level starved qavg time : Nat) : List Byte :=
  natLE 2 c ++ natLE 2 p.idx ++ natLE 1 p.ptype ++ natLE 1 level ++ natLE 1 (min 255 starved) ++ natLE 1 qavg
    ++ natLE 4 bytes ++ natLE 4 (if d.rd (CHN_RC_MODE.MODE.on c) = 2 ∨ p.ptype = 3 then 0 else p.budget)
    ++ natLE 4 (sumBy p.slices (·.fit)) ++ natLE 4 (sumBy p.slices (·.fitBytes)) ++ natLE 4 p.bStart ++ natLE 4 time

/-- Records the ring holds: 0, or a power of 2 from 64 to 4,096 (R146). -/
def Dev.recSize (d : Dev) : Nat :=
  let n := d.rd RCT_REC_SIZE.N
  if [64, 128, 256, 512, 1024, 2048, 4096].contains n then n else 0

/-- A picture record goes into the ring, or is dropped (R136, R146). -/
def Dev.writeRecord (d : Dev) (rec : List Byte) : Dev :=
  let n := d.recSize
  if n = 0 ∨ (d.rd RCT_REC_WR.IDX + 1) % n = d.rd RCT_REC_RD.IDX % n then (d.count RCT_REC_DROP.COUNT 1).event RCT_EVT.REC_DROP
  else
    let d := d.store .sram (d.rd RCT_REC_BASE.OFF + 32 * (d.rd RCT_REC_WR.IDX % n)) rec
    (d.wr RCT_REC_WR.IDX ((d.rd RCT_REC_WR.IDX + 1) % n)).event RCT_EVT.REC_AVAIL

/-- The coded pictures' figures at the picture's commit (R120, R122, R132, R138, R145): `coded` is the bytes after overhead. QAVG of a
picture with no unstarved row is 0 (DESIGN CHOICE, log entry 172). After a hold picture the row weights stay those of the last coded picture
(DESIGN CHOICE, log entry 208). -/
def Dev.rcCommit (d : Dev) (now c : Nat) (p : Pic) (coded : Nat) : Dev × Pic :=
  let ch := d.ch c
  let rc := ch.rc
  let mode := d.rd (CHN_RC_MODE.MODE.on c)
  let total := p.overhead + coded
  let (drain, frac) := d.drainOf c rc
  let filler := d.fillerOf c total p.bStart
  let occ := p.bStart + total + filler - drain
  let excess := if p.ptype = 3 ∨ mode = 2 ∨ p.still then 0
    else if mode = 3 then total + p.instal - p.nominal else coded - p.budget
  let debt := if excess = 0 then rc.debt else addDebt rc.debt excess
  let starved := (p.slices.flatMap (·.starved)).length
  let level := (p.slices.flatMap (fun s => s.rowQ.map (fun e => e.2.2))).foldl max 0
  let rows := (p.slices.flatMap (fun s => s.rowQ.filter (fun e => !s.starved.contains e.1)))
  let qavg := if rows.isEmpty then 0 else sumBy rows (fun e => e.2.1) / rows.length / d.qk c
  let first := ((p.slices.flatMap (fun s => s.rowQ)).find? (fun e => e.1 == 0)).map (fun e => e.2.1)
  let lastQ := match first with
    | some q => (p.ptype, q) :: rc.lastQ.filter (fun e => e.1 != p.ptype)
    | none => rc.lastQ
  let costs := match (d.ch (d.leaderOf c)).src.find? (fun s => s.idx == p.idx) with | some s => s.rowCost | none => rc.prevCost
  let age := min 65535 (rc.age - 1)
  let hist := if p.ptype = 3 then rc.history else (d.picCost c p :: rc.history).take 32
  let d := d.upCh c (fun x => { x with
    coded := true
    rc := { rc with occ := occ, drainFrac := frac, debt := debt, lastQ := lastQ, prevCost := costs, history := hist } })
  let d := ((((d.wr (CHN_RC_STS.QAVG.on c) qavg).wr (CHN_RC_STS.CAP_CLIP.on c) (ofBool p.capClip)).wr (CHN_RC_STS.FILLED.on c)
    (ofBool (filler != 0))).wr (CHN_RC_STS.LEVEL.on c) level).wr (CHN_RC_STS.STARVED.on c) (min 255 starved)
  let d := d.wr (CHN_RC_STS.PEAK_CLIP.on c) (ofBool (d.peakAsSet c > d.levelRate c))
  let d := ((d.wr (CHN_RC_LAST_BYTES.VALUE.on c) (total + filler)).wr (CHN_RC_OCC.VALUE.on c) occ).wr (CHN_RC_DEBT.VALUE.on c) debt.sum
  let d := (d.wr (CHN_RC_MODEL_AGE.VALUE.on c) age).count (CHN_CNT_STARVED.COUNT.on c) starved
  let d := if starved = 0 then d else d.event (CHN_EVT.STARVED.on c)
  let d := d.writeRecord (d.recordOf c p (total + filler) level starved qavg (now % 2 ^ 32))
  (d, { p with rcDone := true, filler := filler })

end Sys2Proof.Machine
end

