-- ==== Sys2Proof/Machine/StreamOps.lean ====
section
/-!
DEFINITION. Operations on streams that the families of commands share: state changes (R49 to R54), source pictures (R84, R85,
R161, R166), pictures and their jobs (R83, R84, R93, R97 to R99, R238), hold and still pictures (R160 to R165), and the
completion of slices and pictures.
-/

namespace Sys2Proof.Machine

/-! Channel states. -/

/-- A pending generation is taken at the channel's picture boundary, or at once outside RUNNING, HOLDING and DRAINING (R214, R252). -/
def Dev.takeGen (d : Dev) (c : Nat) : Dev :=
  let p := d.rd (WDP_CHN_GEN.PEND.bk c)
  if p = 0 then d else (d.wr (WDP_CHN_GEN.GEN.bk c) p).wr (WDP_CHN_GEN.PEND.bk c) 0

/-! DMA rings (R397). -/

def ringKey (c : Nat) : RingId → Nat
  | .h2d => 2 * c
  | .d2h => 2 * c + 1

def Dev.ring (d : Dev) (c : Nat) (r : RingId) : Ring := storeGet (fun _ => Ring.reset) d.dma.rings (ringKey c r)
def Dev.upRing (d : Dev) (c : Nat) (r : RingId) (f : Ring → Ring) : Dev :=
  { d with dma := { d.dma with rings := storeSet (fun _ => Ring.reset) d.dma.rings (ringKey c r) (f (d.ring c r)) } }

/-- The stream channel stops under a descriptor in progress (R404, R409). -/
def Dev.cutRing (d : Dev) (c : Nat) (r : RingId) : Dev :=
  if (d.ring c r).active.isSome then d.upRing c r (fun y => { y with cut := true }) else d

/-- A channel changes state: STATE_CHG; outside RUNNING, HOLDING and DRAINING its -W writes latch at once (R30, R49), and it takes a
pending generation (R252; DEDUCED, log entry 196).  In safe state no state changes (R444). -/
def Dev.setState (d : Dev) (c st : Nat) : Dev :=
  if d.safe then d
  else
    let d := (d.wr (CHN_STATE.STATE.on c) st).event (CHN_EVT.STATE_CHG.on c)
    let d := if st = 2 ∨ st = 3 then d else d.cutRing c .h2d
    if st = 2 ∨ st = 3 ∨ st = 4 then d else (d.latch (pageCHN c)).takeGen c

/-- The capacity reservation and the entropy binding are released (R49, R181). -/
def Dev.release (d : Dev) (c : Nat) : Dev := (d.upCh c (fun x => { x with reserved := false, resLive := false })).unbind c

/-- Buffers of a channel go back to their groups (R365); stream control is requester 0x0B3. -/
def Dev.freeAll (d : Dev) (pool : Nat) (l : List (Nat × Nat)) : Dev :=
  d.forEach l (fun d e => d.requestBpm (.free 0x0B3 pool e.1 e.2))

/-- A sink discards `n` packets of output `o` (R357). -/
def Dev.sinkDiscs (d : Dev) (o n : Nat) : Dev := if n = 0 then d else (d.count (SWC_CNT_SINK_DISC.COUNT.bk o) n).event SWC_EVT.SINK_DISC
def Dev.sinkDisc (d : Dev) (o : Nat) : Dev := (d.count (SWC_CNT_SINK_DISC.COUNT.bk o) 1).event SWC_EVT.SINK_DISC

/-- The work of a channel is discarded: jobs in flight, coded bytes not yet packetised, jitter-buffer contents (R52). -/
def Dev.discard (d : Dev) (c : Nat) : Dev :=
  let d := (d.dropJobsOf c).dropEntropyOf c
  let ch := d.ch c
  let d := ((d.freeAll 1 (ch.slc.map (fun b => (b.group, b.addr)))).freeAll 0 ch.jbBufs).cutRing c .d2h
  d.upCh c (fun x => { x with
    slc := [], jbBufs := [], pics := [], claims := [], ringHead := 0, out := [], src := [], storing := none, dropping := false, stores := []
    scaled := [], anaPics := []
    dec := { x.dec with jb := [], part := 0, partPkts := 0, frag := false, tsOn := false, aus := [], dpb := [], outQ := [], stop := none }
    hold := { x.hold with expected := none, dues := [], enterNext := none, stillDue := false } })

/-- Every sink of the channel has taken the whole slice (R371, R401). -/
def Dev.sliceGone (d : Dev) (c : Nat) (o : SliceOut) : Bool :=
  o.ended && (!d.bit (CHN_SINK.EGRESS.on c) || o.toNet ≥ o.bytes.length) && (!d.bit (CHN_SINK.HOST.on c) || o.toHost > o.bytes.length)

/-- The SLC buffers of a slice whose last byte every sink has taken (R371, R401). -/
def Dev.slcTaken (d : Dev) (c : Nat) (o : SliceOut) : List SlcBuf :=
  let held := (d.ch c).slc.filter (fun b => b.pic == o.pic && b.slice == o.slice)
  if d.sliceGone c o then held
  else
    let sure := if d.bit (CHN_SINK.EGRESS.on c) then min o.bytes.length o.toNet else o.bytes.length
    let sure := if d.bit (CHN_SINK.HOST.on c) then min sure o.toHost else sure
    held.take (held.length - (cdiv o.bytes.length 65536 - sure / 65536))

/-- Output slices that every sink has taken leave, and SLC buffers whose bytes every sink has taken go back (R371, R401). -/
def Dev.sweepOut (d : Dev) (c : Nat) : Dev :=
  let l := (d.ch c).out.flatMap (d.slcTaken c)
  let d' := d.freeAll 1 (l.map (fun b => (b.group, b.addr)))
  d'.upCh c (fun x => { x with out := x.out.filter (fun o => !d.sliceGone c o), slc := x.slc.filter (fun b => !l.contains b) })

/-- Hold pictures begin: HOLDING, with its cause (R163).  The repayment schedule is cleared (R134). -/
def Dev.enterHolding (d : Dev) (now c cause : Nat) : Dev :=
  let d := (d.setState c 3).event (CHN_EVT.HOLD_ENTER.on c)
  let d := ((d.wr (CHN_HOLD_STS.CAUSE.on c) cause).wr (CHN_HOLD_STS.PICS.on c) 0).wr (CHN_HOLD_STS.STILL_SHOWN.on c) 0
  let d := d.wr (CHN_RC_DEBT.VALUE.on c) 0
  d.upCh c (fun x => { x with rc := { x.rc with debt := [] }
                              hold := { x.hold with since := now, stillDue := false, stillDone := false, enterNext := none } })

/-! Pictures. -/

def Chan.pic (x : Chan) (o : Nat) : Option Pic := x.pics.find? (fun p => p.order == o)
def Chan.picAt (x : Chan) (idx : Nat) : Option Pic := x.pics.find? (fun p => p.idx == idx && p.ptype != 3)
def Chan.upPic (x : Chan) (o : Nat) (f : Pic → Pic) : Chan :=
  { x with pics := x.pics.map (fun p => if p.order = o then f p else p) }
def Dev.upPic (d : Dev) (c o : Nat) (f : Pic → Pic) : Dev := d.upCh c (fun x => x.upPic o f)
def Dev.upSlice (d : Dev) (c o s : Nat) (f : Slice → Slice) : Dev := d.upPic c o (fun p => p.upSlice s f)
def Chan.srcAt (x : Chan) (idx : Nat) : Option SrcPic := x.src.find? (fun s => s.idx == idx)
def Dev.upSrc (d : Dev) (l idx : Nat) (f : SrcPic → SrcPic) : Dev :=
  d.upCh l (fun x => { x with src := x.src.map (fun s => if s.idx = idx then f s else s) })

/-- A slice with nothing done; `filtered` says whether the boundary above it needs a seam job (R93). -/
def newSlice (i : Nat) (filtered : Bool) : Slice :=
  { idx := i, readyAt := none, deadline := 0, scaled := false, issued := false, encoded := false
    seamed := i == 0 || !filtered, entropyMade := false, written := 0, reached := 0, done := false, b := 0, h := 0, produced := 0, bytes := 0, rowQ := [], sofar := [], filter := []
    starved := [], fit := 0, fitBytes := 0, reissued := false, abandoned := false, tries := 0, late := false, lateUs := 0
    area := 0 }

/-- Filtering crosses the channel's slice boundaries (R93). -/
def Dev.crossFilter (d : Dev) (c : Nat) : Bool := d.codec c == 1 || d.bit (CHN_ENC_TOOLS.XSLICE_LF.on c)

/-- The coding of the channel's next picture starts: -W writes latch, and a committed model is taken (R30, R137). -/
def Dev.picBoundary (d : Dev) (c : Nat) : Dev := (d.latch (pageCHN c)).latchModel c

/-- A picture joins those the channel codes; its jobs run on the generation assigned by then (R214). -/
def Dev.addPic (d : Dev) (c : Nat) (t : Take) (n : Nat) : Dev :=
  let d := d.takeGen c
  let tsOf (k : Nat) : Nat := match (d.ch (d.leaderOf c)).src.find? (fun s => s.idx == k) with | some s => s.ts | none => 0
  let p : Pic := { idx := t.idx, ts := tsOf t.idx, tuTs := (t.shown.getD t.idx :: t.shows).map tsOf, ptype := t.ptype, layer := t.layer, order := t.order, decided := false, forced := t.forced
                   due := t.due, still := t.still, gen := d.genOf c, refs := t.refs, gop := t.gop, unit := t.unit, prevRap := t.prevRap
                   hidden := t.hidden, delimiter := t.delimiter, shows := t.shows, isRef := t.isRef, tools := d.word (CHN_ENC_TOOLS.AQ.on c).base
                   level2From := none, rcStarted := false, rcDone := false
                   overhead := 0, budget := 0, nominal := 0, instal := 0, cap := 0, capClip := false, bStart := 0
                   filler := 0, slices := (List.range n).map (fun i => newSlice i (d.crossFilter c)) }
  d.upCh c (fun x => { x with pics := x.pics ++ [p], nextOrder := max x.nextOrder (t.order + 1) })

/-- Random access is due at a source picture of the leader, whatever the forcing causes: its first since RUNNING, or the periodic
one (R98). -/
def Dev.rapDue (d : Dev) (l idx : Nat) : Bool :=
  match (d.ch l).lastRap with
  | none => true
  | some r =>
    let n := d.rd (CHN_ENC_GOP.IRAP_LEN.on l)
    (n != 0 && idx - r ≥ n)

/-- The channel has begun its stream. -/
def Chan.begun (x : Chan) : Bool := x.coded || !x.pics.isEmpty

/-- The channel codes the leader's picture `idx`, a random-access picture of the leader's where `rap` holds: from its first picture on
(R48, R50), at its phase of DIV (R46). -/
def Dev.codes (d : Dev) (c idx : Nat) (rap : Bool) : Bool :=
  let l := d.leaderOf c
  decide (idx ≥ (d.ch c).startIdx) &&
    (c == l || rap || (if d.hierB l then (d.ch c).begun
      else match (d.ch l).lastRap with | some r => (idx - r) % d.divOf c == 0 | none => true))

/-- The channels of the group that take source pictures: those RUNNING, a leader that drains; for a still picture those that hold. -/
def Dev.takers (d : Dev) (l : Nat) (still : Bool) : List Nat :=
  (d.groupOf l).filter (fun g => d.chState g == 2 || (still && d.chState g == 3) || (d.chState l == 4 && g == l))

/-- A channel takes a picture: random access where the leader's is (`rap`), at its first, and where it was forced in a member (R98). -/
def Dev.takeFor (d : Dev) (g : Nat) (t : Take) (rap fl : Bool) : Dev :=
  if ((d.ch g).picAt t.idx).isSome || !d.codes g t.idx rap then d
  else
    let first := !(d.ch g).begun
    let fm := t.ptype != 2 && !t.still && (d.ch g).force && d.isMember g
    let due := rap || first || fm
    let d := d.addPic g { t with ptype := if due then 0 else t.ptype, due := due, forced := fl || fm } (d.nSlices g)
    d.upCh g (fun x => { x with force := if fl || fm then false else x.force, startIdx := if first then t.idx else x.startIdx })

/-- The channels of the group take source picture `idx` alone. -/
def Dev.takePicture (d : Dev) (l idx : Nat) (still : Bool) : Dev :=
  if (match (d.ch l).srcAt idx with | some s => s.taken | none => true) then d
  else
    let fl := (d.ch l).force && !still
    let rap := still || fl || d.rapDue l idx
    let t : Take := { idx := idx, ptype := 1, layer := 0, order := (d.ch l).nextOrder, gop := idx, unit := 1, prevRap := (d.ch l).lastRap
                      due := rap, forced := fl, still := still, refs := [] }
    let d := d.forEach (d.takers l still) (fun d g => d.takeFor g t rap fl)
    (d.upSrc l idx (fun s => { s with taken := true })).upCh l (fun x => { x with
      force := if fl then false else x.force, lastRap := if rap then some idx else x.lastRap, nextOrder := max x.nextOrder (t.order + 1) })

/-- The newest picture in coding order that others may refer to. -/
def Dev.pastRef (d : Dev) (g : Nat) : Nat :=
  ((d.ch g).pics.filter (fun p => p.ptype != 2)).foldl (fun o p => max o p.order) ((d.ch g).refs.headD 0)

/-- The orders a channel's pictures can refer to, newest first, with one put in its place. -/
def insertRef (o : Nat) : List Nat → List Nat
  | [] => [o]
  | x :: r => if o ≥ x then o :: x :: r else x :: insertRef o r

/-! Random access asked for after pictures were taken (R98, R99). -/

/-- Jobs of a channel's picture that no engine runs leave the table, and the picture with them. -/
def Dev.untakeFor (d : Dev) (g : Nat) (p : Pic) : Dev :=
  let d := d.forEach (d.jobs.filter (fun j => j.chn == g && j.pic == p.order && j.stage != 0 && j.engine.isNone)) Dev.dropJob
  d.upCh g (fun x => { x with pics := x.pics.filter (fun q => q.order != p.order) })

/-- A picture of the leader that was taken and none of whose encode jobs was issued is dealt out again in a low-delay group, with the
group's random access as it stands now: the channels that do not code it lose it, those that do take it. -/
def Dev.redeal (d : Dev) (l : Nat) (p : Pic) : Dev :=
  let rap := p.forced || d.rapDue l p.idx
  let d := d.forEach (d.takers l false) (fun d g =>
    match (d.ch g).picAt p.idx with
    | some q =>
      if q.decided then d
      else if !d.codes g p.idx rap then d.untakeFor g q
      else
        let first := !(d.ch g).coded && (d.ch g).pics.all (fun r => r.order ≥ q.order)
        let due := rap || first || q.forced
        d.upPic g q.order (fun q => { q with due := due, ptype := if due then 0 else 1 })
    | none => d.takeFor g { idx := p.idx, ptype := 1, layer := 0, order := p.order, gop := p.gop, unit := 1, prevRap := p.prevRap, due := rap
                            forced := false, still := false, refs := [] } rap p.forced)
  if rap then d.upCh l (fun x => { x with lastRap := some p.idx }) else d

/-- Pictures sorted by their source index. -/
def sortPics (l : List Pic) : List Pic :=
  l.foldl (fun r p => r.takeWhile (fun q => q.idx ≤ p.idx) ++ p :: r.dropWhile (fun q => q.idx ≤ p.idx)) []

/-- A source picture that a low-delay leader has taken becomes a random-access picture in the whole group, and the pictures after it follow
its phase (R46, R98, R99). -/
def Dev.makeRap (d : Dev) (l idx : Nat) (forced : Bool) : Dev :=
  match (d.ch l).picAt idx with
  | none => d
  | some p =>
    let d := d.forEach (d.groupOf l) (fun d g => match (d.ch g).picAt idx with
      | some q => if q.decided then d else d.upPic g q.order (fun q => { q with due := true, ptype := 0, forced := q.forced || forced })
      | none => d)
    let d := d.upCh l (fun x => { x with lastRap := some idx })
    let d := d.forEach ((d.takers l false).filter (fun g => ((d.ch g).picAt idx).isNone)) (fun d g =>
      d.takeFor g { idx := idx, ptype := 1, layer := 0, order := p.order, gop := p.gop, unit := 1, prevRap := p.prevRap, due := true
                    forced := forced, still := false, refs := [] } true forced)
    d.forEach (sortPics ((d.ch l).pics.filter (fun q => q.idx > idx && q.ptype != 3 && !q.decided))) (fun d q => d.redeal l q)

/-- The pictures of a hierarchical-B group from mini-GOP `gop` on are no longer taken: none of their encode jobs was issued. -/
def Dev.untakeGops (d : Dev) (l gop : Nat) : Dev :=
  let mine (p : Pic) : Bool := p.gop ≥ gop && p.ptype != 3 && !p.decided
  let prev := match sortPics ((d.ch l).pics.filter mine) with | p :: _ => p.prevRap | [] => (d.ch l).lastRap
  let d := d.forEach (d.groupOf l) (fun d g =>
    let gone := (d.ch g).pics.filter mine
    let f := gone.any (·.forced)
    (d.forEach gone (fun d p => d.untakeFor g p)).upCh g (fun x => { x with force := x.force || f }))
  d.upCh l (fun x => { x with lastRap := prev, src := x.src.map (fun s => if s.idx ≥ gop then { s with taken := false } else s) })

/-- An encode job of the mini-GOP was issued in some channel of the group. -/
def Dev.gopIssued (d : Dev) (l gop : Nat) : Bool := (d.groupOf l).any (fun g => (d.ch g).pics.any (fun p => p.gop == gop && p.decided))

/-- An encode job of the source picture was issued in some channel of the group. -/
def Dev.picIssued (d : Dev) (l idx : Nat) : Bool :=
  (d.groupOf l).any (fun g => match (d.ch g).picAt idx with | some q => q.decided | none => false)

/-- The lowest of some numbers. -/
def leastNat : List Nat → Option Nat
  | [] => none
  | x :: r => match leastNat r with | some y => some (min x y) | none => some x

/-- At the first encode job of a picture it keeps its type, and the pictures it refers to are settled (R97, R99). -/
def Dev.decide_ (d : Dev) (c o : Nat) : Dev :=
  match (d.ch c).pic o with
  | none => d
  | some p =>
    if p.decided then d
    else
      let ch := d.ch c
      let refs := if p.ptype = 0 then [] else if p.ptype = 2 then p.refs
        else (ch.refs.filter (· < o)).take (d.rd (CHN_ENC_REFS.NREF.on c))
      let keep := if p.ptype = 0 then ch.refs.filter (· > o) else ch.refs
      let d := d.upCh c (fun x => { x.upPic o (fun q => { q with decided := true, refs := refs }) with
        refs := if p.ptype = 2 then x.refs else (insertRef o keep).take 8
        refIdx := ((o, p.idx) :: x.refIdx).take 24 })
      if p.forced then (d.count (CHN_CNT_IRAP_FORCED.COUNT.on c) 1).event (CHN_EVT.IRAP_FORCED.on c) else d

/-- The picture as its encode jobs find it: at the first of them its coding starts, with its rate control (R30, R123). -/
def Dev.beginPic (d : Dev) (c : Nat) (p : Pic) (overhead : Nat) : Dev × Pic :=
  if p.rcStarted then (d, p)
  else
    let d := d.picBoundary c
    d.rcStart c { p with tools := d.word (CHN_ENC_TOOLS.AQ.on c).base } overhead

/-! Readiness of jobs (R84). -/

/-- Source lines a slice of a channel depends on: its own last line, or the lowest line its scaler taps reach (R84; the reach is
the mapped line and 4 taps below it, DEDUCED from the worked example). -/
def Dev.linesNeeded (d : Dev) (c s : Nat) : Nat :=
  if d.isScaled c then min (d.height (d.sourceOf c)) (cdiv (d.lineTo c s * d.height (d.sourceOf c)) (d.height c) + 4) else d.lineTo c s

/-- The leader's slices whose analysis covers the source lines of a slice. -/
def Dev.analysisFor (d : Dev) (c s : Nat) : List Nat :=
  let l := d.leaderOf c
  if l = c then [s]
  else
    let lo := d.lineFrom c s * d.height l / max 1 (d.height c)
    let hi := cdiv (d.lineTo c s * d.height l) (max 1 (d.height c))
    (List.range (d.nSlices l)).filter (fun t => d.lineFrom l t < hi && lo < d.lineTo l t)

/-- Estimates of R235: tenths of a pc per pixel and stage. -/
def Dev.estimate (d : Dev) (c stage area : Nat) : Nat :=
  let q := if d.quality c then 2 else 1
  area * (match stage with | 0 => 16 * q | 1 => 3 | 2 => 24 * q | 3 => 0 | _ => 10) / 10

def Dev.sliceArea (d : Dev) (c s : Nat) : Nat := d.width c * (d.lineTo c s - d.lineFrom c s)

/-- A job of a slice. -/
def Dev.mkJob (d : Dev) (c stage pic slice deadline gen area : Nat) : Job :=
  { chn := c, stage := stage, pic := pic, slice := slice, live := d.isLive c, deadline := deadline, gen := gen, attempts := 0
    excluded := [], estimate := d.estimate c stage area, seq := 0, reissue := none, engine := none }

/-- The deadline of a slice whose jobs became ready at `t` (R238); `unit` is the length of a scheduled unit in pictures. -/
def Dev.deadlineAt (d : Dev) (c t unit : Nat) : Nat :=
  if d.isLive c then t + d.slicePeriod c + 450000 else t + (unit + 1) * d.period c

/-- Source luma samples an analysis job covers (R61, R86). -/
def Dev.analysisArea (d : Dev) (l s : Nat) : Nat :=
  let src := d.sourceOf l
  d.width src * ((d.lineTo l s - d.lineFrom l s) * d.height src / max 1 (d.height l))

/-- The source picture whose analysis the analysis of a slice reads is analysed near it (R83, R86: vectors reach 68 lines). -/
def Dev.prevAnalysed (d : Dev) (l idx s : Nat) : Bool :=
  idx == 0 || (match (d.ch l).srcAt (idx - 1) with
    | none => true
    | some p => ((List.range (d.nSlices l)).filter (fun t => d.lineFrom l t < d.lineTo l s + 68 && d.lineFrom l s < d.lineTo l t + 68)).all
        (fun t => p.anaDone.contains t))

/-- The time at which the source lines of a channel's slice, in a scheduled group the whole picture or mini-GOP, were stored (R84, R238); none
before. -/
def Dev.storedTime (d : Dev) (l c s : Nat) (p : SrcPic) : Option Nat :=
  if d.isLive l && !p.exit && !p.still then (p.stored.find? (fun e => e.1 ≥ d.linesNeeded c s)).map (·.2)
  else match (d.ch l).picAt p.idx with
    | some q => p.doneAt.map (fun t => ((d.ch l).src.filter (fun k => q.gop ≤ k.idx && k.idx < q.gop + q.unit)).foldl (fun m k => max m (k.doneAt.getD 0)) t)
    | none => p.doneAt

/-- Jobs of source picture `p` of leader `l` whose inputs are present enter the table (R83, R84).  The deadlines of a slice run from the
time at which its source lines, in a scheduled channel its mini-GOP, were stored (R238). -/
def Dev.readyPicture (d : Dev) (l : Nat) (p : SrcPic) : Dev :=
  let unit := match (d.ch l).picAt p.idx with | some q => q.unit | none => 1
  let gen := match (d.ch l).picAt p.idx with | some q => q.gen | none => d.genOf l
  -- analysis
  let d := d.forEach (List.range (d.nSlices l)) (fun d s => match d.storedTime l l s p with
    | some t => if !p.anaDone.contains s && d.prevAnalysed l p.idx s then
        d.addJob (d.mkJob l 0 p.idx s (d.deadlineAt l t unit) gen (d.analysisArea l s))
      else d
    | none => d)
  -- scale and encode
  d.forEach ((d.groupOf l).filter (fun g => ((d.ch g).picAt p.idx).isSome)) (fun d g =>
    match (d.ch g).picAt p.idx with
    | none => d
    | some q => d.forEach q.slices (fun d sl => match d.storedTime l g sl.idx p with
        | none => d
        | some t =>
          let dl := match sl.readyAt with | some _ => sl.deadline | none => d.deadlineAt g t q.unit
          let d := if sl.readyAt.isSome then d
            else d.upSlice g q.order sl.idx (fun x => { x with readyAt := some t, deadline := dl })
          let d := if d.isScaled g && !sl.scaled then d.addJob (d.mkJob g 1 q.order sl.idx dl q.gen (d.sliceArea g sl.idx)) else d
          if !sl.encoded && (sl.scaled || !d.isScaled g) && (if d.isLive g then d.analysisFor g sl.idx else List.range (d.nSlices l)).all (fun t => p.anaDone.contains t) then
            d.addJob (d.mkJob g 2 q.order sl.idx dl q.gen (d.sliceArea g sl.idx))
          else d))

/-- The dyadic order of a mini-GOP of `n` pictures after picture `lo`: offset, layer, offsets of the two references; the last
picture first (R97). -/
def dyadic : Nat → Nat → Nat → Nat → List (Nat × Nat × Nat × Nat)
  | 0, _, _, _ => []
  | f + 1, lo, hi, layer =>
    if hi ≤ lo + 1 then []
    else
      let m := (lo + hi) / 2
      (m, layer, lo, hi) :: dyadic f lo m (layer + 1) ++ dyadic f m hi (layer + 1)

/-- The pictures of a mini-GOP of `n` in coding order: offset from its first picture, counted from 1, layer, and the offsets it refers to,
0 for the picture before the mini-GOP (R97). -/
def miniPlan (n : Nat) : List (Nat × Nat × List Nat) :=
  if n = 0 then [] else (n, 0, []) :: (dyadic 4 0 n 1).map (fun e => (e.1, e.2.1, [e.2.2.1, e.2.2.2]))

/-- The random-access picture is a CRA, whose leading pictures may refer to pictures before it (R98, R110). -/
def Dev.isCra (d : Dev) (c : Nat) : Bool := d.codec c == 0 && d.hierB (d.leaderOf c) && d.bit (CHN_ENC_GOP.IRAP_TYPE.on (d.leaderOf c))

/-- A channel takes a mini-GOP of `n` pictures from `first` on, in coding order from `base` on.  A random-access picture forced in a member
is its first source picture, and the rest is a mini-GOP of its own (R99).  A random-access picture other than HEVC's comes last in coding
order too, being one that pictures before it cannot follow: the pictures before it are a shorter mini-GOP (R98; DEDUCED, log entry 206).  In
HEVC the pictures before it do not refer past it where it is no CRA. -/
def Dev.takeGopFor (d : Dev) (g first n base : Nat) (rap : Bool) (prev : Option Nat) : Dev :=
  let own := d.isMember g && (d.ch g).force && (d.ch g).begun
  let k := ofBool own
  let past := if own then base else d.pastRef g
  let late := rap && d.codec g != 0
  let plan := if late then miniPlan (n - k - 1) ++ [(n - k, 0, [])] else miniPlan (n - k)
  let ref (o : Nat) : Nat := if o = 0 then past else base + k + plan.findIdx (fun e => e.1 == o)
  let t : Take := { idx := first, ptype := 1, layer := 0, order := base, gop := first, unit := n - k, prevRap := prev, due := rap
                    forced := false, still := false, refs := [] }
  -- an AV1 frame is coded hidden where an earlier one in output order is still to come; a temporal unit ends with a shown frame
  let hid (i : Nat) : Bool := d.codec g == 1 && (match plan[i]? with | some e => (plan.drop (i + 1)).any (fun f => f.1 < e.1) | none => false)
  let d := if own then d.takeFor g { t with unit := 1 } false false else d
  d.forEach ((List.range plan.length).zip plan) (fun d e =>
    d.takeFor g { t with
      hidden := hid e.1, delimiter := e.1 == 0 || !hid (e.1 - 1)
      shown := if hid e.1 then ((plan.drop e.1).zipIdx e.1).find? (fun f => !hid f.2) |>.map (fun f => first + k + f.1.1 - 1) else none
      isRef := e.2.2.1 == 0 || plan.any (fun f => f.2.2.contains e.2.1)
      -- the frames next in output order that were coded hidden before this one
      shows := if hid e.1 then [] else
        ((List.range n).map (fun i => e.2.1 + 1 + i)).takeWhile (fun o => ((List.range e.1).any (fun i => hid i && (plan[i]?).any (fun f => f.1 == o))))
          |>.map (fun o => first + k + o - 1)
      idx := first + k + e.2.1 - 1, ptype := if e.2.2.1 = 0 then 1 else 2, layer := e.2.2.1, order := base + k + e.1
      refs := (e.2.2.2.filter (fun o => o != 0 || !rap || late || d.isCra g)).map ref } (rap && e.2.1 == n - k) false)

/-- A complete mini-GOP of a hierarchical-B leader is taken for coding: `first` to `last`, the last one first (R97). -/
def Dev.takeMiniGop (d : Dev) (l first last : Nat) : Dev :=
  let n := last + 1 - first
  let base := (d.ch l).nextOrder
  let rap := d.rapDue l last
  let prev := (d.ch l).lastRap
  let d := d.forEach (d.takers l false) (fun d g => d.takeGopFor g first n base rap prev)
  d.upCh l (fun x => { x with
    lastRap := if rap then some last else x.lastRap, nextOrder := max x.nextOrder (base + n)
    src := x.src.map (fun s => if first ≤ s.idx && s.idx ≤ last then { s with taken := true } else s) })

/-- Pictures stored in full and not yet taken by the leader, in order. -/
def Dev.untaken (d : Dev) (l : Nat) : List Nat :=
  ((d.ch l).src.filter (fun p => p.doneAt.isSome && !p.bad && !p.taken && !p.late)).map (·.idx)

/-- A stored picture of a scheduled group is not taken while CHN_HOLD_CMD.ENTER is in force and its deadline is still to come: it is bad
if ENTER is still in force then (R161, R162). -/
def Dev.awaits (d : Dev) (l idx : Nat) : Bool :=
  !d.isLive l && d.bit (CHN_HOLD_STS.FORCED.on l)
    && (d.ch l).hold.dues.any (fun e => e.2.1 == idx && (match e.2.2 with | .judge _ => true | _ => false))

/-- A hierarchical-B leader takes its stored pictures as soon as a mini-GOP is complete: at its BLEN-th picture, or at a picture
due as random access (DEDUCED, log entry 24).  A drain takes what is held (R51); `n` bounds the number of mini-GOPs. -/
def Dev.takeHier (l : Nat) : Nat → Dev → Dev
  | 0, d => d
  | n + 1, d =>
    match (d.untaken l).takeWhile (fun i => !d.awaits l i) with
    | [] => d
    | f :: r =>
      if d.rapDue l f || (d.ch l).force then Dev.takeHier l n (d.takePicture l f false)
      else
        match (f :: r).find? (fun i => d.rapDue l i || i + 1 - f ≥ d.mini l) with
        | some e => Dev.takeHier l n (d.takeMiniGop l f e)
        | none => if d.chState l = 4 then d.takeMiniGop l f ((f :: r).getLastD f) else d

/-- The group's pictures and jobs brought up to date after source lines were stored or jobs committed. -/
def Dev.refresh (d : Dev) (l : Nat) : Dev :=
  let ch := d.ch l
  let d := if d.hierB l then (if d.chState l = 2 ∨ d.chState l = 4 then Dev.takeHier l 16 d else d)
    else d.forEach ch.src (fun d p =>
      if !p.bad && !p.late && !d.awaits l p.idx && (d.isLive l && !p.exit || p.doneAt.isSome) && (d.chState l == 2) then d.takePicture l p.idx false
      else d)
  d.forEach (d.ch l).src (fun d p =>
    if (d.chState l == 2 || d.chState l == 4 || p.still || d.picIssued l p.idx) && ((d.groupOf l).any (fun g => ((d.ch g).picAt p.idx).isSome))
    then d.readyPicture l p else d)

/-- CHN_ENC_FORCE.IRAP (R98, R99, R116): the first picture in source order none of whose encode jobs is issued, with hierarchical B pictures
the first source picture of the first mini-GOP so; in a leader for the whole group, in a member for it alone. -/
def Dev.forceRap (d : Dev) (c : Nat) : Dev :=
  let l := d.leaderOf c
  let mine := (d.ch c).pics.filter (fun p => p.ptype != 3 && !p.still)
  let pend (d : Dev) : Dev := d.upCh c (fun x => { x with force := true })
  if d.hierB l then
    match leastNat ((mine.filter (fun p => if l = c then !d.gopIssued l p.gop else !mine.any (fun q => q.gop == p.gop && q.decided))).map (·.gop)) with
    | none => pend d
    | some g0 =>
      if l = c then (pend (d.untakeGops l g0)).refresh l
      else
        let gone := mine.filter (fun p => p.gop == g0)
        match sortPics gone, leastNat (gone.map (·.order)) with
        | p :: _, some base =>
          let anchor := gone.any (fun q => q.due && q.layer == 0 && q.idx != p.idx)
          let d := pend (d.forEach gone (fun d q => d.untakeFor c q))
          let d := d.takeGopFor c p.idx gone.length base anchor p.prevRap
          let d := if gone.length = 1 then d
            else d.upCh c (fun x => { x with pics := x.pics.map (fun q =>
              if q.gop > g0 then { q with refs := q.refs.map (fun o => if o = base then base + 1 else o) } else q) })
          d.refresh l
        | _, _ => pend d
  else
    match leastNat ((mine.filter (fun p => if l = c then !d.picIssued l p.idx else !p.decided)).map (·.idx)) with
    | none => pend d
    | some i =>
      if l = c then (d.makeRap l i true).refresh l
      else match (d.ch c).picAt i with
        | some p => d.upPic c p.order (fun p => { p with due := true, ptype := 0, forced := true })
        | none => pend d

/-- A scene change makes a picture of a scheduled leader with SCENE_IRAP a random-access picture: in a hierarchical-B group its mini-GOP
ends before it (R98). -/
def Dev.sceneRap (d : Dev) (l idx : Nat) : Dev :=
  match (d.ch l).picAt idx with
  | none => d
  | some p =>
    if p.due || p.decided then d
    else if !d.hierB l then (if d.picIssued l idx then d else (d.makeRap l idx false).refresh l)
    else if d.gopIssued l p.gop then d
    else
      let d := d.untakeGops l p.gop
      let d := if p.gop < idx then d.takeMiniGop l p.gop (idx - 1) else d
      let force := (d.ch l).force
      let d := d.upCh l (fun x => { x with lastRap := none, force := false })
      ((d.takePicture l idx false).upCh l (fun x => { x with force := x.force || force })).refresh l

/-! Source pictures. -/

/-- Lowest source store no picture holds. -/
def Dev.freeStore (d : Dev) (l : Nat) : Option Nat :=
  (List.range (d.rd (CHN_ENC_SRC_BUFS.NBUF.on l))).find? (fun k => !(d.ch l).src.any (fun p => p.store == k && !p.still))

/-- The time stamp of a picture (R374): that of its source picture, and of the pictures already taken from it. -/
def Dev.stampPic (d : Dev) (l idx ts : Nat) : Dev :=
  let d := d.upSrc l idx (fun p => { p with ts := ts, dated := true })
  d.forEach (d.groupOf l) (fun d g => match (d.ch g).picAt idx with
    | some q => d.upPic g q.order (fun q => { q with ts := ts })
    | none => d)

/-- The first source line of the picture being stored is stored (R374): pictures without an RTP time stamp of their own take the device time. -/
def Dev.dateSrc (d : Dev) (now l : Nat) : Dev :=
  match (d.ch l).storing.bind (d.ch l).srcAt with
  | some p => if p.dated then d else d.stampPic l p.idx (now * 9 / 100000 % 2 ^ 32)
  | none => d

/-- A source picture begins to be stored, or is dropped where no store is free (R84, R85); `ts` is its own time stamp, if it has one. -/
def Dev.srcOpen (d : Dev) (l : Nat) (ts : Option Nat) : Dev :=
  let ch := d.ch l
  match d.freeStore l with
  | some k =>
    let p : SrcPic := { idx := ch.nextIdx, ts := ts.getD 0, dated := ts.isSome, lines := 0, good := 0, partLines := [], doneAt := none, bad := false
                        store := k, still := false, exit := false, anaDone := [], rowCost := [], intraWins := 0, blocks := 0
                        mode := d.word (0x400240 + 0x1000 * l) }
    let d := d.upCh l (fun x => { x with src := x.src ++ [p], storing := some ch.nextIdx, nextIdx := ch.nextIdx + 1, dropping := false })
    (d.wr (CHN_ENC_SRC_LINE.PIC.on l) ch.nextIdx).wr (CHN_ENC_SRC_LINE.LINES.on l) 0
  | none => d.upCh l (fun x => { x with dropping := true, storing := none })

/-- Luma lines of the picture being stored are complete up to `n` (R84). -/
def Dev.srcLines (d : Dev) (now l n : Nat) : Dev :=
  match (d.ch l).storing with
  | none => d
  | some i =>
    let n := min n (d.height (d.sourceOf l))
    let d := if n = 0 then d else d.dateSrc now l
    let d := d.upSrc l i (fun p => { p with
      stored := if p.lines < n then p.stored ++ [(n, now)] else p.stored
      lines := max p.lines n, good := if p.bad then p.good else max p.good n })
    let d := d.wr (CHN_ENC_SRC_LINE.LINES.on l) (match (d.ch l).srcAt i with | some p => p.lines | none => 0)
    if d.chState l = 3 then d else d.refresh l

/-- The deadline of the next source picture: its expected time plus the grace; none while the group has no picture clock (R161). -/
def Dev.deadlineOf (d : Dev) (l : Nat) : Option Nat := (d.ch l).hold.expected.map (· + d.rd (CHN_HOLD_CFG.GRACE.on l) * 100000)

/-- A hold picture of the picture time `idx` in every channel of the group that codes it and has coded a picture; one entropy job
each, due 450 µs after `deadline` (R160, R162, R163, R238). -/
def Dev.holdPicture (d : Dev) (l idx deadline : Nat) : Dev :=
  let o := (d.ch l).nextOrder
  let d := d.upCh l (fun x => { x with nextOrder := o + 1 })
  d.forEach ((d.groupOf l).filter (fun g => (d.chState g == 2 || d.chState g == 3) && (d.ch g).coded && d.codes g idx false)) (fun d g =>
    let r := d.pastRef g
    let d := (d.picBoundary g).addPic g { idx := idx, ptype := 3, layer := 0, order := o, gop := idx, unit := 1, prevRap := none, due := false
                                          forced := false, still := false, refs := [r] } 1
    let d := d.upCh g (fun x => { x with
      refs := (insertRef o x.refs).take 8
      refIdx := ((o, idx) :: x.refIdx).take 24
      stores := match lookupNat x.stores r with | some k => (o, k) :: x.stores | none => x.stores })
    let d := d.upPic g o (fun p => { p with
      decided := true, ts := (deadline - d.rd (CHN_HOLD_CFG.GRACE.on l) * 100000) * 9 / 100000 % 2 ^ 32 })
    let d := d.upSlice g o 0 (fun s => { s with
      readyAt := some deadline, deadline := deadline + 450000, entropyMade := true, issued := true, encoded := true, seamed := true })
    let d := if d.chState g = 3 then d.wr (CHN_HOLD_STS.PICS.on g) (min 65535 (d.rd (CHN_HOLD_STS.PICS.on g) + 1)) else d
    d.addEntropy (newEntropy g o 0 (d.isLive g) (deadline + 450000) true false))

/-- A source picture is dropped for want of a store: counted, and covered by a hold picture at its deadline, without a miss (R85). -/
def Dev.srcDrop (d : Dev) (now l : Nat) : Dev :=
  let ch := d.ch l
  let d := (d.count (CHN_ENC_SRC_DROP.COUNT.on l) 1).upCh l (fun x => { x with nextIdx := ch.nextIdx + 1 })
  match d.deadlineOf l with
  | none => d.holdPicture l ch.nextIdx now
  | some t => d.upCh l (fun x => { x with hold := { x.hold with
      expected := x.hold.expected.map (· + d.period l), dues := x.hold.dues ++ [(t, ch.nextIdx, .cover)] } })

/-- A source picture leaves its store without being coded: its analysis jobs not yet issued leave with it. -/
def Dev.srcDiscard (d : Dev) (l idx : Nat) : Dev :=
  (d.setJobs (d.jobs.filter (fun j => !(j.chn == l && j.stage == 0 && j.pic == idx && j.engine.isNone)))).upCh l (fun x => { x with
    src := x.src.filter (fun p => p.idx != idx), storing := if x.storing = some idx then none else x.storing })

/-- The first row of channel `g` that needs a source line past `good` (R162). -/
def Dev.firstBadRow (d : Dev) (g good : Nat) : Nat :=
  let rows := List.range (d.ctuRows g)
  let need (r : Nat) : Nat :=
    let line := min (d.height g) ((r + 1) * d.ctu g)
    if d.isScaled g then min (d.height (d.sourceOf g)) (cdiv (line * d.height (d.sourceOf g)) (d.height g) + 4) else line
  (rows.find? (fun r => need r > good)).getD (d.ctuRows g)

/-- The rows of a live picture after its last correct line are coded at level 2 (R162). -/
def Dev.levelRows (d : Dev) (l idx : Nat) : Dev :=
  match (d.ch l).srcAt idx with
  | none => d
  | some p => d.forEach (d.groupOf l) (fun d g =>
      match (d.ch g).picAt idx with
      | none => d
      | some q => d.upPic g q.order (fun q => { q with level2From := some (min (q.level2From.getD (d.ctuRows g)) (d.firstBadRow g p.good)) }))

/-- The picture being stored is found bad (R161): in a live channel what follows is coded at level 2 (R162). -/
def Dev.markBad (d : Dev) (l idx : Nat) : Dev :=
  let d := d.upSrc l idx (fun p => { p with bad := true })
  if d.isLive l then d.levelRows l idx else d

/-- A live picture is completed: its rows after the last correct line are coded at level 2 (R162). -/
def Dev.completeBad (d : Dev) (now l idx : Nat) : Dev :=
  match (d.ch l).srcAt idx with
  | none => d
  | some _ =>
    let d : Dev := if d.chState l = 2 then d.takePicture l idx false else d
    let d := d.levelRows l idx
    let d := d.upSrc l idx (fun p => { p with
      bad := true, lines := d.height (d.sourceOf l), stored := p.stored ++ [(d.height (d.sourceOf l), now)], doneAt := some (p.doneAt.getD now) })
    let d := d.upCh l (fun x => { x with storing := if x.storing = some idx then none else x.storing
                                         dropping := if x.storing = some idx then true else x.dropping })
    match (d.ch l).srcAt idx with
    | some p => d.readyPicture l p
    | none => d

/-- The picture is not coded: its pictures and jobs leave every channel of the group, and random access it was taken for is due again. -/
def Dev.dropPicture (d : Dev) (l idx : Nat) : Dev :=
  let own := (d.ch l).picAt idx
  let d := d.forEach (d.groupOf l) (fun d g =>
    match (d.ch g).picAt idx with
    | none => d
    | some q => (d.untakeFor g q).upCh g (fun x => { x with force := x.force || q.forced }))
  let d := d.upSrc l idx (fun s => { s with taken := false })
  match own with
  | some p => if p.due then d.upCh l (fun x => { x with lastRap := p.prevRap }) else d
  | none => d

/-- The group leaves HOLDING at a good picture, which is coded as random access in every channel (R166). -/
def Dev.leaveHolding (d : Dev) (l idx : Nat) : Dev :=
  let d := (d.dropPicture l idx).upSrc l idx (fun p => { p with exit := true })
  let d := d.upCh l (fun x => { x with
    lastRap := none
    hold := { x.hold with enterNext := none, stillDue := false, dues := x.hold.dues.filter (fun e => match e.2.2 with | .judge _ => true | _ => false) } })
  d.forEach ((d.groupOf l).filter (fun g => d.chState g == 3)) (fun d g => (d.setState g 2).event (CHN_EVT.HOLD_EXIT.on g))

/-- Source pictures of an incomplete mini-GOP are discarded; hold pictures take their picture times (R164), each with its own
expected time (R374). -/
def Dev.dropMiniGop (d : Dev) (now l : Nat) : Dev :=
  if !d.hierB l then d
  else d.forEach (d.untaken l) (fun d i =>
    let t := match (d.ch l).srcAt i with | some p => p.due.getD now | none => now
    ((d.srcDiscard l i).count (CHN_ENC_SRC_DROP.COUNT.on l) 1).holdPicture l i t)

/-- One miss is counted (R161). -/
def Dev.countMiss (d : Dev) (l : Nat) : Dev :=
  (d.upCh l (fun x => { x with hold := { x.hold with misses := x.hold.misses + 1 } })).count (CHN_HOLD_MISS.COUNT.on l) 1

/-- The count of misses has reached CHN_HOLD_CFG.ENTER_N (R163). -/
def Dev.missesReach (d : Dev) (l : Nat) : Bool := decide ((d.ch l).hold.misses ≥ max 1 (d.rd (CHN_HOLD_CFG.ENTER_N.on l)))

/-- HOLDING starts at the next deadline (R163). -/
def Dev.enterSoon (d : Dev) (l cause : Nat) : Dev :=
  d.upCh l (fun x => { x with hold := { x.hold with enterNext := some (x.hold.enterNext.getD cause) } })

/-- A deadline to come is noted (R161 to R163). -/
def Dev.noteDue (d : Dev) (l t idx : Nat) (w : Due) : Dev :=
  d.upCh l (fun x => { x with hold := { x.hold with dues := x.hold.dues ++ [(t, idx, w)] } })

/-- CHN_HOLD_CMD.ENTER is in force for the group of leader `l` (R167). -/
def Dev.forced (d : Dev) (l : Nat) : Bool := d.bit (CHN_HOLD_STS.FORCED.on l)

/-- The deadline of a picture that was stored in time, if that is what the note is for. -/
def judgeOf (e : Nat × Nat × Due) : Bool := match e.2.2 with | .judge _ => true | _ => false

/-- The group enters HOLDING with a cause (R163): the pictures of its incomplete mini-GOP leave first (R164). -/
def Dev.groupHolding (d : Dev) (now l cause : Nat) : Dev :=
  let d := d.dropMiniGop now l
  d.forEach ((d.groupOf l).filter (fun g => d.chState g == 2)) (fun d g => d.enterHolding now g cause)

/-- HOLDING starts where it is due at this deadline (R163). -/
def Dev.enterIfDue (d : Dev) (now l : Nat) : Dev :=
  match (d.ch l).hold.enterNext with
  | some k => if d.chState l = 2 then d.groupHolding now l k else d
  | none => d

/-- Deadlines that passed by `now` while ENTER was not in force: the pictures stored in time for them are good (R161).  After a decode channel
left RUNNING the first of them is the deadline at which HOLDING starts (R163). -/
def Dev.passGood (d : Dev) (now l : Nat) : Dev :=
  if d.forced l then d
  else
    let past (e : Nat × Nat × Due) : Bool := judgeOf e && e.1 ≤ now
    let lost := (d.ch l).hold.enterNext == some 3 && (d.ch l).hold.dues.any past
    let d := d.upCh l (fun x => { x with hold := { x.hold with dues := x.hold.dues.filter (fun e => !past e) } })
    if lost then d.enterIfDue now l else d

/-- A bad picture has been stored (R162, R163, R166): a live one is completed, one of a scheduled channel or of a group that holds is
covered at its deadline `t`. -/
def Dev.srcBad (d : Dev) (now l idx t cause : Nat) : Dev :=
  let due := (d.ch l).hold.enterNext.isSome
  let d := d.countMiss l
  if d.chState l = 3 then
    if d.picIssued l idx then d.completeBad now l idx
    else ((d.dropPicture l idx).srcDiscard l idx).noteDue l t idx .cover
  else if d.isLive l then
    let d := if due then d.noteDue l t idx .enter else if d.missesReach l then d.enterSoon l cause else d
    d.completeBad now l idx
  else
    let d := if d.missesReach l then d.enterSoon l cause else d
    ((((d.dropPicture l idx).srcDiscard l idx).dropMiniGop now l).noteDue l t idx .cover)

/-- The still picture is taken for coding at a deadline (R165). -/
def Dev.takeStill (d : Dev) (now l idx : Nat) : Dev :=
  let h := d.height (d.sourceOf l)
  let p : SrcPic := { idx := idx, ts := 0, lines := h, good := h, partLines := [], doneAt := some now, bad := false
                      store := 255, still := true, exit := false, anaDone := [], rowCost := [], intraWins := 0, blocks := 0
                      mode := d.word (0x400240 + 0x1000 * l) }
  let d := d.upCh l (fun x => { x with src := x.src ++ [p], hold := { x.hold with
    stillDue := false, stillDone := true, stillAddr := d.rd (CHN_HOLD_STILL_ADDR.ADDR.on l) * 4096 } })
  let d := d.takePicture l idx true
  let d := d.forEach ((d.groupOf l).filter (fun g => ((d.ch g).picAt idx).isSome)) (fun d g => d.wr (CHN_HOLD_STS.STILL_SHOWN.on g) 1)
  d.refresh l

/-- The still picture where it is due, else a hold picture, for a picture time (R163, R165). -/
def Dev.holdOrStill (d : Dev) (now l idx t : Nat) : Dev :=
  if d.chState l == 3 && (d.ch l).hold.stillDue then d.takeStill now l idx else d.holdPicture l idx t

/-- A picture that was stored in time, `m` misses before it, is bad since ENTER was in force at its deadline `t` (R161 to R163).  A
live one was coded as it came; one of a scheduled channel is replaced where none of its encode jobs was issued. -/
def Dev.judged (d : Dev) (now l t idx m : Nat) : Dev :=
  let later := (d.ch l).hold.dues.find? judgeOf
  let d := (d.upCh l (fun x => { x with hold := match later with
    | some e => { x.hold with dues := x.hold.dues.map (fun k => if k = e then
        (k.1, k.2.1, match k.2.2 with | .judge n => .judge (n + m + 1) | w => w) else k) }
    | none => { x.hold with misses := x.hold.misses + m + 1 } })).count (CHN_HOLD_MISS.COUNT.on l) 1
  let reach := d.missesReach l
  if d.chState l != 2 then d
  else if d.isLive l then (if reach then d.enterSoon l 4 else d)
  else
    let free := match (d.ch l).srcAt idx with | some s => !(s.taken && d.hierB l) && !d.picIssued l idx | none => false
    let d := if free then ((d.dropPicture l idx).srcDiscard l idx).dropMiniGop now l else d
    let d := if reach then d.groupHolding now l 4 else d
    if free then d.holdOrStill now l idx t else d

/-- The last line of the picture being stored is stored (R161, R163, R166).  A picture that comes after its deadline was missed there: it
is not coded, but the picture clock goes on from it. -/
def Dev.srcDone (d : Dev) (now l : Nat) : Dev :=
  match (d.ch l).storing.bind (d.ch l).srcAt with
  | none => d
  | some p =>
    let i := p.idx
    let due := d.deadlineOf l
    let d := (d.passGood now l).upSrc l i (fun p => { p with doneAt := some now, due := due })
    let d := d.upCh l (fun x => { x with storing := none, hold := { x.hold with expected := some (now + d.period l) } })
    if p.late then (d.srcDiscard l i).refresh l
    else if p.bad then (d.srcBad now l i (due.getD now) 2).refresh l
    else
      let m := (d.ch l).hold.misses
      let d := match due with | some t => d.noteDue l t i (.judge m) | none => d
      let d := d.upCh l (fun x => { x with hold := { x.hold with misses := 0 } })
      let d :=
        if d.chState l = 3 then
          if d.picIssued l i then d
          else if d.forced l then ((d.dropPicture l i).srcDiscard l i).noteDue l (due.getD now) i .cover
          else d.leaveHolding l i
        else if (d.ch l).hold.enterNext.isSome then d.noteDue l (due.getD now) i .enter else d
      d.refresh l

/-- A store is freed when the last encode job of every channel that reads the picture has committed (R85). -/
def Dev.srcFree (d : Dev) (l idx : Nat) : Dev :=
  match (d.ch l).srcAt idx with
  | none => d
  | some p =>
    let readers := (d.groupOf l).filterMap (fun g => (d.ch g).picAt idx)
    if p.doneAt.isSome && p.anaDone.length ≥ d.nSlices l && p.taken && readers.all (fun q => q.slices.all (·.encoded))
    then d.srcDiscard l idx else d

/-! Channels that stop. -/

/-- A decode channel left RUNNING, or a drain of it ends without its work: the groups it feeds hold from their next deadline, or at once where
they have no picture clock (R48, R163, R246). -/
def Dev.linkLost (d : Dev) (now c : Nat) : Dev :=
  d.forEach ((d.linkedTo c).filter (fun l => d.chState l == 2)) (fun d l =>
    let d := d.passGood now l
    if (d.ch l).hold.expected.isSome then d.upCh l (fun x => { x with hold := { x.hold with enterNext := some 3 } })
    else d.groupHolding now l 3)

/-- Source pictures that no channel reads any more leave their stores (R85). -/
def Dev.sweepSrc (d : Dev) (l : Nat) : Dev := d.forEach (d.ch l).src (fun d p => d.srcFree l p.idx)

/-- The work of a channel is discarded; a member's pictures no longer hold the leader's source stores. -/
def Dev.discardOne (d : Dev) (c : Nat) : Dev := if d.isMember c then (d.discard c).sweepSrc (d.leaderOf c) else d.discard c

/-- One channel enters STOPPED_ERR with a code (R53, R54). -/
def Dev.stopOne (d : Dev) (c code : Nat) : Dev :=
  ((d.discardOne c).wr (CHN_STATE.ERR.on c) code).setState c 5 |>.event (CHN_EVT.STOPPED.on c)

/-- A channel stops; the members of a leader stop with GROUP_STOPPED, and the group of a decode channel that leaves RUNNING holds (R48,
R54). -/
def Dev.stopChannel (d : Dev) (now c code : Nat) : Dev :=
  let members := if d.isDecode c ∨ d.isMember c then [] else (d.membersOf c).filter d.chActive
  let feeds := d.isDecode c && d.chActive c
  let d := (d.stopOne c code).forEach members (fun d m => d.stopOne m 0x41)
  if feeds then d.linkLost now c else d

/-- One channel is aborted (R52). -/
def Dev.abortOne (d : Dev) (c : Nat) : Dev := ((d.discardOne c).setState c 1).release c

/-- ABORT by command or by hardware: a leader aborts its members, the group of a decode channel that leaves RUNNING holds (R48). -/
def Dev.abortChannel (d : Dev) (now c : Nat) : Dev :=
  let members := if d.isDecode c ∨ d.isMember c then [] else (d.membersOf c).filter d.chActive
  let feeds := d.isDecode c && d.chActive c
  let d := (d.abortOne c).forEach members Dev.abortOne
  if feeds then d.linkLost now c else d

/-! Slices and pictures completed. -/

/-- The slice status word (R245). -/
def statusWord (c idx : Nat) (s : Slice) (decode : Bool) : Nat :=
  c * 2 ^ 56 + idx % 65536 * 2 ^ 40 + s.idx % 256 * 2 ^ 32 + ofBool s.reissued * 2 ^ 31 + ofBool s.late * 2 ^ 30
    + ofBool s.abandoned * 2 ^ 29 + ofBool decode * 2 ^ 28 + min 15 s.tries * 2 ^ 24 + s.idx / 256 % 16 * 2 ^ 20 + min 1048575 s.lateUs

/-- The word of a flagged slice is held in WDP_LAST_FLAG (R245). -/
def Dev.flagWord (d : Dev) (w : Nat) (s : Slice) : Dev :=
  if s.reissued || s.late || s.abandoned then d.wr WDP_LAST_FLAG.WORD w else d

/-- A slice that completes at `now` is late where its deadline is past (R239). -/
def Dev.lateness (d : Dev) (now c : Nat) (s : Slice) : Dev × Slice :=
  if now ≤ s.deadline then (d, s)
  else
    let d := (d.count (CHN_CNT_LATE.COUNT.on c) 1).count WDP_CNT_LATE.COUNT 1
    ((d.event (CHN_EVT.LATE.on c)).event WDP_EVT.LATE, { s with late := true, lateUs := cdiv (now - s.deadline) 1000 })

/-- A slice is flagged reissued, once (R244). -/
def Dev.markReissued (d : Dev) (c o s : Nat) : Dev :=
  match ((d.ch c).pic o).bind (·.slice s) with
  | none => d
  | some x =>
    if x.reissued then d
    else
      let d := d.upSlice c o s (fun y => { y with reissued := true })
      let d := (d.count (CHN_CNT_REISSUED.COUNT.on c) 1).count WDP_CNT_REISSUED.COUNT 1
      (d.event (CHN_EVT.REISSUED.on c)).event WDP_EVT.REISSUE

/-- LAST_TYPE and GOP_POS after a committed picture (R117). -/
def Dev.picStatus (d : Dev) (c : Nat) (p : Pic) : Dev :=
  let d := d.wr (CHN_ENC_STS.LAST_TYPE.on c) p.ptype
  d.wr (CHN_ENC_STS.GOP_POS.on c) (if p.ptype = 0 then 0 else min 65535 (d.rd (CHN_ENC_STS.GOP_POS.on c) + 1))

/-- A picture whose slices are all coded is complete: it counts, and leaves the table of pictures. -/
def Dev.picDone (d : Dev) (c o : Nat) : Dev :=
  match (d.ch c).pic o with
  | none => d
  | some p =>
    if p.slices.all (·.done) && p.slices.all (fun s => s.encoded && s.seamed) && p.rcDone then
      let bytes := p.overhead + sumBy p.slices (·.bytes) + p.filler
      let d := (d.count (CHN_CNT_PIC.COUNT.on c) 1).count (CHN_CNT_BYTES.COUNT.on c) bytes
      let d := if p.ptype = 3 then d.count (CHN_CNT_HOLD.COUNT.on c) 1 else d
      d.upCh c (fun x => { x with pics := x.pics.filter (fun q => q.order != o)
                                  claims := x.claims.filter (fun e => e.pic != o) })
    else d

end Sys2Proof.Machine
end

