-- ==== Sys2Proof/Machine/Payload.lean ====
section
/-!
DEFINITION. What a decode channel reads in the packets that reach it: RTP payload formats and MPEG-TS packets (R148).  The formats
themselves are those of the payload specifications and of MPEG-2 systems, which the spec names (PRESUMED, log entry 176).
-/

namespace Sys2Proof.Machine

/-- A leb128 number: value and bytes used. -/
def leb128 : List Byte → Nat → Nat × Nat
  | [], _ => (0, 0)
  | b :: r, sh =>
    if b.toNat < 128 then (b.toNat * 2 ^ sh, 1)
    else let t := leb128 r (sh + 7); (b.toNat % 128 * 2 ^ sh + t.1, t.2 + 1)

/-- The total size of the NAL units of an aggregation packet, each behind its 16-bit size; none where they do not fill it. -/
def aggregated : Nat → List Byte → Option Nat
  | 0, _ => none
  | fuel + 1, bs =>
    let n := beNat (slice bs 0 2)
    if bs.length < 3 ∨ n = 0 ∨ bs.length < n + 2 then none
    else if bs.length = n + 2 then some n
    else (aggregated fuel (bs.drop (n + 2))).map (· + n)

/-- The total size of the OBU elements behind an aggregation header: `w` of them, the last without its size, or where `w` is 0 each with
its size; none where they do not fill the packet. -/
def obuElements : Nat → Nat → List Byte → Option Nat
  | 0, _, _ => none
  | fuel + 1, w, bs =>
    if w = 1 then (if bs.isEmpty then none else some bs.length)
    else
      let z := leb128 (bs.take 8) 0
      if z.2 = 0 ∨ z.1 = 0 ∨ bs.length < z.1 + z.2 then none
      else
        let rest := bs.drop (z.1 + z.2)
        if w = 0 ∧ rest.isEmpty then some z.1 else (obuElements fuel (w - 1) rest).map (· + z.1)

/-- A fragment, with start and end bits `f`, of `n` bytes behind a NAL header of `hn`: the bytes it adds, and whether the unit goes on. -/
def fragment (frag : Bool) (f hn n : Nat) : Option (Nat × Bool) :=
  let start := bitAt f 7
  let stop := bitAt f 6
  if n = 0 || (start && stop) || start == frag then none else some (n + (if start then hn else 0), !stop)

/-- One RTP payload: the bytes of the bitstream it carries, and whether a fragmented unit goes on behind it; `frag` says whether one was
going on before it.  None where its header is inconsistent (R155).  A packet type that R148 does not accept is taken as inconsistent (DESIGN
CHOICE, log entry 176). -/
def unpackRtp (codec : Nat) (frag : Bool) (bs : List Byte) : Option (Nat × Bool) :=
  let b0 := (bs.getD 0 0).toNat
  if codec = 1 then
    let z := bitAt b0 7
    let y := bitAt b0 6
    if z != frag || (z && bitAt b0 3) then none
    else (obuElements bs.length (b0 / 16 % 4) (bs.drop 1)).map (fun n => (n, y))
  else
    let hn := if codec = 0 then 2 else 1
    let ty := if codec = 0 then b0 / 2 % 64 else b0 % 32
    let agg := if codec = 0 then 48 else 24
    let fu := if codec = 0 then 49 else 28
    let single : Bool := if codec = 0 then ty < 48 else 1 ≤ ty && ty < 24
    if ty = fu then fragment frag (bs.getD hn 0).toNat hn (bs.length - (hn + 1))
    else if frag then none
    else if ty = agg then (aggregated bs.length (bs.drop (if codec = 0 then 2 else 1))).map (fun n => (n, false))
    else if single && bs.length > hn then some (bs.length, false)
    else none

/-- The PTS of a PES header, where it has one. -/
def pesPts (bs : List Byte) : Nat :=
  let v (k : Nat) : Nat := (bs.getD k 0).toNat
  if bitAt (v 7) 7 then v 9 / 2 % 8 * 2 ^ 30 + v 10 * 2 ^ 22 + v 11 / 2 * 2 ^ 15 + v 12 * 2 ^ 7 + v 13 / 2 else 0

/-- One MPEG-TS packet. -/
def tsPacket (p : List Byte) : TsPkt :=
  let v (k : Nat) : Nat := (p.getD k 0).toNat
  let has := bitAt (v 3) 4
  let data := if has then p.drop (if bitAt (v 3) 5 then min 188 (5 + v 4) else 4) else []
  let start := has && bitAt (v 1) 6
  let head := 9 + (data.getD 8 0).toNat
  let len := beNat (slice data 4 2)
  { pid := v 1 % 32 * 256 + v 2, cc := v 3 % 16, counts := has, err := bitAt (v 1) 7, start := start
    pts := if start then pesPts data else 0, total := if start && len != 0 then some (len + 6 - head) else none
    bytes := if start then data.length - head else data.length }

/-- The 188-byte packets of a datagram, 1 to 7 of them; none where it is no such datagram (R148). -/
def tsPackets (bs : List Byte) : Option (List TsPkt) :=
  let n := bs.length / 188
  let l := (List.range n).map (fun k => slice bs (188 * k) 188)
  if bs.length % 188 = 0 ∧ 1 ≤ n ∧ n ≤ 7 ∧ l.all (fun p => p.head? == some 0x47) then some (l.map tsPacket) else none

/-! What the decoder accepts (R152, R155). -/

/-- The profile is one of the codec's, and admits the format. -/
def profileAdmits (p : Profile) (codec : Nat) (ten c422 : Bool) : Bool :=
  match p with
  | .main => codec == 0 && !ten && !c422
  | .main10 => codec == 0 && !c422
  | .main422 => codec == 0
  | .av1Main => codec == 1 && !c422
  | .constrainedBaseline | .h264Main | .high => codec == 2 && !ten && !c422
  | .other => false

/-- The highest level of R152, as the standard codes it. -/
def highestLevel (codec : Nat) : Nat := match codec with | 1 => 13 | 2 => 51 | _ => 156

/-- A stream inside the table of R152. -/
def auSupported (i : AuInfo) (codec : Nat) : Bool :=
  profileAdmits i.profile codec i.tenBit i.c422 && decide (i.level ≤ highestLevel codec) && i.unsupported.isEmpty

/-- The levels of R152: those the Todon codes, and H.264 levels 5 and 5.1. -/
def decodeLevels (codec : Nat) : List Level :=
  levelsOf codec ++ (if codec = 2 then [⟨50, 22080, 589824, 135000, 0, 135000, 0, 24, 0, 0⟩, ⟨51, 36864, 983040, 240000, 0, 240000, 0, 24, 0, 0⟩] else [])

/-- Bytes of the largest coded picture of a stream's level and tier: its largest CPB, for AV1 one second at its largest bit rate (R155;
PRESUMED, log entry 177). -/
def auLargest (i : AuInfo) (codec : Nat) : Option Nat :=
  ((decodeLevels codec).find? (fun l => l.code == i.level)).map fun l =>
    let factor := match i.profile with | .main422 => 1667 | .high => 1250 | _ => 1000
    (if codec = 1 then (if i.tier then l.brHigh else l.brMain) else (if i.tier then l.cpbHigh else l.cpbMain)) * factor / 8

end Sys2Proof.Machine
end

