-- ==== Sys2Proof/Machine/Coding.lean ====
section
/-!
DEFINITION. What an encode channel's jobs compute and code (chapter 4): source samples, the analysis picture (R86) and the scaled source
(R95), starting vectors and the search they bound (R88 to R90), adaptive quantisation (R92), the tools of each standard (R103 to R105), and
what the headers of a picture say (R96, R98, R100, R102, R106, R107, R112, R113, R121, R122, R160).
-/

namespace Sys2Proof.Machine

/-! Surfaces and samples. -/

/-- The surface of a channel's store: the reconstruction of an encode or decode channel, of this size and format. -/
def Dev.reconSurf (d : Dev) (c store w h : Nat) (ten c422 : Bool) : Surf :=
  { base := d.storeAt c (if d.isDecode c then 4 else 3) store, geo := chamOf w h ten c422 false, ten := ten }

/-- The source store of a leader with a SURFACE source. -/
def Dev.linkSurf (d : Dev) (l store : Nat) : Surf :=
  let s := d.sourceOf l
  { base := d.storeAt l 0 store, geo := chamOf (d.width s) (d.height s) (d.tenBit s) (d.c422 s) false, ten := d.tenBit s }

/-- The analysis picture of source picture `idx` (R86): the source decimated by 2, luma only. -/
def Dev.analysisSurf (d : Dev) (l idx : Nat) : Surf :=
  let s := d.sourceOf l
  { base := d.storeAt l 1 (idx % max 1 ((d.storePlan l).getD 1 (0, 0)).1)
    geo := chamOf (d.width s / 2) (d.height s / 2) (d.tenBit s) false true, ten := d.tenBit s }

/-- The scaled source store of a channel's picture (R83, R115). -/
def Dev.scaledSurf (d : Dev) (c o : Nat) : Surf :=
  { base := d.storeAt c 2 ((lookupNat (d.ch c).scaled o).getD 0), geo := chamOf (d.width c) (d.height c) (d.tenBit c) (d.c422 c) false, ten := d.tenBit c }

/-- The sample at column `x` of line `y` of a block-coded surface. -/
def Env.sample (e : Env) (f : Surf) (chroma : Bool) (x y : Nat) : Nat :=
  ((e.block f chroma (x / 32) (y / 4)).getD []).getD (y % 4 * 32 + x % 32) 0

/-- A sample of the leader's source picture (R262, R264): the store of a surface link is Chamois, other stores and the still picture are
raw.  In the chroma plane Cb and Cr alternate. -/
def Dev.srcSample (d : Dev) (e : Env) (l : Nat) (p : SrcPic) (chroma : Bool) (x y : Nat) : Nat :=
  if d.rd (CHN_SRC.KIND.on l) == 3 && !p.still then e.sample (d.linkSurf l p.store) chroma x y
  else
    let ten := d.tenBit l
    let base := if p.still then (d.ch l).hold.stillAddr else d.storeAt l 0 p.store
    let a := base + (if chroma then rawChroma (d.width l) (d.height l) ten else 0) + y * rawStride (d.width l) ten + x * (if ten then 2 else 1)
    if ten then leNat (e.bytes .hbm a 2) % 1024 else leNat (e.bytes .hbm a 1)

/-- Lines of the chroma plane of a picture. -/
def chromaLines (h : Nat) (c422 : Bool) : Nat := if c422 then h else cdiv h 2

/-- The block rows `rows` of a plane of a surface are written: the samples `g` of an area of `w` by `h` samples, beyond it a copy of the
nearest (R265).  The answer counts OVER blocks. -/
def Dev.putRows (d : Dev) (f : Surf) (lossy : Option (Nat × Nat)) (chroma : Bool) (w h : Nat) (rows : List Nat) (g : Nat → Nat → Nat) :
    Dev × Nat :=
  let near (x : Nat) : Nat := if chroma then 2 * min (x / 2) ((w - 1) / 2) + x % 2 else min x (w - 1)
  rows.foldl (fun t byy => (List.range f.geo.bw).foldl (fun t bx =>
    let s := (List.range 128).map (fun i => g (near (32 * bx + i % 32)) (min (4 * byy + i / 32) (h - 1)))
    let r := t.1.putBlock f lossy chroma bx byy s
    (r.1, t.2 + ofBool r.2)) t) (d, 0)

/-- Block rows of a plane that lie in luma lines `lo` to `hi`; the last lines of the picture take the padding with them. -/
def blockRows (lo hi height rows per : Nat) : List Nat :=
  (List.range rows).filter (fun r => lo ≤ r * per && (r * per < hi || (hi ≥ height && lo < hi)))

/-! The analysis picture (R86). -/

/-- [1 2 1]/4 in each direction around an even place of a plane of `w` by `h` samples, edges repeated. -/
def decimate (g : Nat → Nat → Nat) (w h x y : Nat) : Nat :=
  let f (i : Nat) : Nat := if i = 1 then 2 else 1
  let l9 := (List.range 9).map (fun k => g (min (2 * x + k % 3 - 1) (w - 1)) (min (2 * y + k / 3 - 1) (h - 1)))
  let sum := ((List.range 9).map (fun k => f (k % 3) * f (k / 3) * l9.getD k 0)).sum
  sum / 16 + (if sum % 16 = 0 then 0 else Config.decimRound l9 % 2)

/-- A sample of the analysis picture of source picture `p`. -/
def Dev.decimated (d : Dev) (e : Env) (l : Nat) (p : SrcPic) (x y : Nat) : Nat :=
  decimate (d.srcSample e l p false) (d.width (d.sourceOf l)) (d.height (d.sourceOf l)) x y

/-- First source line of a leader's slice, and the line after its last (R84, R86). -/
def Dev.srcFrom (d : Dev) (l s : Nat) : Nat := d.lineFrom l s * d.height (d.sourceOf l) / max 1 (d.height l)
def Dev.srcTo (d : Dev) (l s : Nat) : Nat := d.lineTo l s * d.height (d.sourceOf l) / max 1 (d.height l)

/-- The 16 by 16 source blocks of a leader's slice, in raster order: those whose first line lies in it. -/
def Dev.anaBlocks (d : Dev) (l s : Nat) : List (Nat × Nat) :=
  ((List.range (cdiv (d.height (d.sourceOf l)) 16)).filter (fun r => d.srcFrom l s ≤ 16 * r && 16 * r < d.srcTo l s)).flatMap
    (fun r => (List.range (cdiv (d.width (d.sourceOf l)) 16)).map (fun b => (b, r)))

/-- The distances that the pictures of a mini-GOP of `n` have from their references. -/
def planDists (n : Nat) : List Nat :=
  (miniPlan n).flatMap (fun e => if e.2.1 = 0 then [e.1] else e.2.2.map (fun o => (e.1 - o) + (o - e.1)))

/-- Distances at which vectors are searched (R86): 1, and in a hierarchical-B leader those its mini-GOP uses, of the pictures whose analysis
pictures the stores still hold; a picture time without a source picture has none (DESIGN CHOICE, log entry 204). -/
def Dev.anaDists (d : Dev) (l idx : Nat) : List Nat :=
  let unit := match (d.ch l).picAt idx with | some p => p.unit | none => 1
  let all := if d.hierB l then 1 :: planDists unit else [1]
  (List.range 8).filterMap (fun i =>
    if all.contains (i + 1) && decide (i + 1 ≤ idx) && (d.ch l).anaPics.contains (idx - (i + 1)) then some (i + 1) else none)

/-- A plane of `w` by `h` samples, its edges repeated beyond it (DESIGN CHOICE for the searches of R86, log entry 204). -/
def inPlane (w h : Nat) (g : Nat → Nat → Nat) (x y : Int) : Int := g (min x.toNat (w - 1)) (min y.toNat (h - 1))

/-- The differences between the `n` by `n` block of one plane at a place and that of another displaced by a vector. -/
def blockDiff (n : Nat) (a b : Int → Int → Int) (x y : Int) (v : Int × Int) : List Int :=
  (List.range (n * n)).map (fun (i : Nat) => a (x + (i % n : Nat)) (y + (i / n : Nat)) - b (x + v.1 + (i % n : Nat)) (y + v.2 + (i / n : Nat)))

/-- The vectors of at most `a` in the horizontal and `b` in the vertical direction. -/
def window (a b : Nat) : List (Int × Int) :=
  (List.range ((2 * a + 1) * (2 * b + 1))).map (fun k => (((k % (2 * a + 1) : Nat) : Int) - a, ((k / (2 * a + 1) : Nat) : Int) - b))

/-- A vector the analysis can find in the block at (`bx`, `byy`) (R86): the best of the 25 around twice a coarse vector which the full search
finds best.  Of vectors equally good the spec prefers none. -/
def vecFound (cur ref : Int → Int → Int) (curC refC : Int → Int → Int) (bx byy : Nat) (v : AnaVec) : Bool :=
  let coarse (c : Int × Int) : Nat := ((blockDiff 4 curC refC (4 * bx) (4 * byy) c).map Int.natAbs).sum
  let fine (c : Int × Int) : Nat := Config.satd (blockDiff 8 cur ref (8 * bx) (8 * byy) c)
  v.x % 2 == 0 && v.y % 2 == 0 && v.cost == fine (v.x / 2, v.y / 2)
    && (window 48 16).any (fun c => (window 2 2).any (fun n => v.x / 2 == 2 * c.1 + n.1 && v.y / 2 == 2 * c.2 + n.2)
        && (window 2 2).all (fun n => decide (v.cost ≤ fine (2 * c.1 + n.1, 2 * c.2 + n.2)))
        && (window 48 16).all (fun k => decide (coarse c ≤ coarse k)))

/-- What an analysis job finds of a slice (R83, R86): every block of it once, a vector for each distance, the inter cost at distance 1 where it
is searched, and the intra cost of the block. -/
def Dev.analysisFits (d : Dev) (e : Env) (l idx s : Nat) (r : JobResult) : Bool :=
  match (d.ch l).srcAt idx with
  | none => true
  | some p =>
    let w := d.width (d.sourceOf l) / 2
    let h := d.height (d.sourceOf l) / 2
    let dists := d.anaDists l idx
    let own := d.decimated (e.seen d) l p
    let cur := inPlane w h own
    let curC := inPlane (w / 2) (h / 2) (decimate own w h)
    decide (r.blocks.map (fun b => (b.bx, b.byy)) = d.anaBlocks l s)
      && r.blocks.all (fun b =>
        b.vecs.map (·.dist) == dists
          && b.vecs.all (fun v =>
            let old := (e.seen d).sample (d.analysisSurf l (idx - v.dist)) false
            vecFound cur (inPlane w h old) curC (inPlane (w / 2) (h / 2) (decimate old w h)) b.bx b.byy v)
          && (match b.vecs.find? (fun v => v.dist == 1) with | some v => b.inter == v.cost | none => true)
          && (let at_ (i j : Nat) : Nat := own (min i (w - 1)) (min j (h - 1))
              b.intra == Config.intraEstimate ((List.range 64).map (fun i => at_ (8 * b.bx + i % 8) (8 * b.byy + i / 8)))
                (if b.byy = 0 then [] else (List.range 8).map (fun i => at_ (8 * b.bx + i) (8 * b.byy - 1)))
                (if b.bx = 0 then [] else (List.range 8).map (fun i => at_ (8 * b.bx - 1) (8 * b.byy + i)))))

/-- The CTU row of the leader in which a source block lies (R87). -/
def Dev.blockRow (d : Dev) (l byy : Nat) : Nat := 16 * byy * d.height l / max 1 (d.height (d.sourceOf l)) / d.ctu l

/-! The scaled source (R95, R114). -/

/-- The source position `a` ÷ `b`, as a whole sample and a phase in 64ths. -/
def scaleAt (a b : Nat) : Nat × Nat := (a / max 1 b, a % max 1 b * 64 / max 1 b)

/-- The source position of sample `i` of `n` where the source has `m`: the mapping starts at the first sample (PRESUMED, log entry 168). -/
def scalePos (m n i : Nat) : Nat × Nat := scaleAt (i * m) n

/-- The source chroma line of an output chroma line (R95).  Where 4:2:2 becomes 4:2:0, output line `y` lies at luma line 2y for location type
2, half a line below it for type 0. -/
def Dev.chromaPos (d : Dev) (c y : Nat) : Nat × Nat :=
  let s := d.sourceOf c
  if d.c422 s && !d.c422 c then
    if d.bit (CHN_ENC_SCALE.CLOC.on c) then scaleAt (2 * y * d.height s) (d.height c) else scaleAt ((4 * y + 1) * d.height s) (2 * d.height c)
  else scalePos (chromaLines (d.height s) (d.c422 s)) (chromaLines (d.height c) (d.c422 c)) y

/-- One pass of the scaler (R95). -/
def scalePass (vertical : Bool) (filter : Nat) (chroma : Bool) (phase : Nat) (taps : List Int) : Int :=
  Config.scaleRound vertical ((List.range taps.length).map (fun k => Config.scaleCoef filter chroma phase k * taps.getD k 0)).sum

/-- The depth of a scaled sample: 10 to 8 bits is (s + 2) >> 2, clipped to 255 (R95). -/
def depthTo (src out : Bool) (v : Nat) : Nat := if src && !out then min 255 ((v + 2) / 4) else v

/-- The scaler's coefficient set in force; 3 is taken as 0 (R114). -/
def Dev.scaleFilter (d : Dev) (c : Nat) : Nat := match d.rd (CHN_ENC_SCALE.FILTER.on c) with | 3 => 0 | f => f

/-- A sample of a channel's scaled source (R95): the window of the source around the mapped place, edges repeated, filtered line by line and
then down the column (PRESUMED, log entry 168). -/
def Dev.scaledSample (d : Dev) (e : Env) (c filter : Nat) (p : SrcPic) (chroma : Bool) (x y : Nat) : Nat :=
  let s := d.sourceOf c
  let l := d.leaderOf c
  let ws := if chroma then d.width s / 2 else d.width s
  let wc := if chroma then d.width c / 2 else d.width c
  let hs := if chroma then chromaLines (d.height s) (d.c422 s) else d.height s
  let px := scalePos ws wc (if chroma then x / 2 else x)
  let py := if chroma then d.chromaPos c y else scalePos hs (d.height c) y
  let n := if chroma then 4 else 8
  let at_ (i j : Nat) : Int :=
    let sx := min (px.1 + i - (n / 2 - 1)) (ws - 1)
    (d.srcSample e l p chroma (if chroma then 2 * sx + x % 2 else sx) (min (py.1 + j - (n / 2 - 1)) (hs - 1)) : Nat)
  let line (j : Nat) : Int := scalePass false filter chroma px.2 ((List.range n).map (fun i => at_ i j))
  let v := scalePass true filter chroma py.2 ((List.range n).map line)
  depthTo (d.tenBit s) (d.tenBit c) (min (if d.tenBit s then 1023 else 255) v.toNat)

/-! Vectors of encode jobs (R88 to R90). -/

/-- Division to the nearest integer, halves away from zero. -/
def roundDiv (a : Int) (b : Nat) : Int :=
  let n : Int := (2 * a.natAbs + b) / (2 * max 1 b : Nat)
  if a < 0 then -n else n

/-- The distance, in source pictures, of a picture from the reference of order `o`: negative for one that follows it. -/
def Dev.refDist (d : Dev) (c : Nat) (p : Pic) (o : Nat) : Int :=
  match lookupNat (d.ch c).refIdx o with | some i => (p.idx : Int) - i | none => 1

/-- A channel that takes the analysis vectors as they are: a leader with an unscaled output (R88). -/
def Dev.ownVectors (d : Dev) (c : Nat) : Bool := !d.isMember c && !d.isScaled c

/-- The starting vector of a channel's 16 by 16 block (R88) for the reference of order `o`.  The analysis distance used is the
reference's own where it was searched, else 1 (DEDUCED, log entry 169). -/
def Dev.startVec (d : Dev) (c : Nat) (p : Pic) (o bx byy : Nat) : Option (Int × Int) :=
  let l := d.leaderOf c
  let s := d.sourceOf c
  let own := d.ownVectors c
  let bx := if own then bx else min ((16 * bx + 8) * d.width s / max 1 (d.width c)) (d.width s - 1) / 16
  let byy := if own then byy else min ((16 * byy + 8) * d.height s / max 1 (d.height c)) (d.height s - 1) / 16
  let dist := d.refDist c p o
  ((d.ch l).srcAt p.idx).bind (fun q => (q.vecs.find? (fun b => b.bx == bx && b.byy == byy)).bind (fun b =>
    ((b.vecs.find? (fun v => (v.dist : Int) == dist)).or (b.vecs.find? (fun v => v.dist == 1))).map (fun v =>
      if own then (v.x, v.y)
      else (roundDiv (v.x * d.width c * dist) (d.width s * v.dist), roundDiv (v.y * d.height c * dist) (d.height s * v.dist)))))

/-- Reach of the integer search around the start (R88). -/
def Dev.searchReach (d : Dev) (c : Nat) : Nat := if d.ownVectors c || d.divOf c ≥ 2 then 8 else 4

/-- Blocks of 16 by 16 that a coding block covers. -/
def covers16 (b : CodedBlock) : List (Nat × Nat) :=
  (List.range (max 1 (b.size / 16))).flatMap (fun r => (List.range (max 1 (b.size / 16))).map (fun k => (b.x / 16 + k, b.y / 16 + r)))

/-- A searched vector, in quarter samples, lies within the search of a starting vector of the block or of the zero vector, with its half-
and quarter-sample refinement (R88). -/
def Dev.searched (d : Dev) (c : Nat) (p : Pic) (b : CodedBlock) (o : Nat) (x y : Int) : Bool :=
  let reach := 4 * d.searchReach c + 3
  ((0, 0) :: (covers16 b).filterMap (fun k => d.startVec c p o k.1 k.2)).any (fun v =>
    decide ((x - 4 * v.1).natAbs ≤ reach) && decide ((y - 4 * v.2).natAbs ≤ reach))

/-- The analysis cost of a block of a leader at a reference distance: that of the blocks it covers, none where one was not searched. -/
def Dev.anaCost (d : Dev) (c : Nat) (p : Pic) (b : CodedBlock) (dist : Int) : Option Nat :=
  match (d.ch (d.leaderOf c)).srcAt p.idx with
  | none => none
  | some q => (covers16 b).foldl (fun (t : Option Nat) k => match t,
      ((q.vecs.find? (fun z => z.bx == k.1 && z.byy == k.2)).bind (fun z => z.vecs.find? (fun v => (v.dist : Int) == dist))) with
    | some n, some v => some (n + v.cost)
    | _, _ => none) (some 0)

/-- References the fast preset searches for a block (R90): the nearest on each side, and those whose analysis cost is within 10 % of its.
A reference without an analysis cost is not (DEDUCED, log entry 169). -/
def Dev.refSearched (d : Dev) (c : Nat) (p : Pic) (b : CodedBlock) (o : Nat) : Bool :=
  let dist := d.refDist c p o
  let same := (p.refs.map (d.refDist c p)).filter (fun k => decide (0 < k) == decide (0 < dist))
  let near := same.foldl (fun (m : Int) k => if k.natAbs < m.natAbs then k else m) dist
  d.quality c || dist == near || (match d.anaCost c p b dist, d.anaCost c p b near with
    | some a, some n => decide (10 * a ≤ 11 * n)
    | _, _ => false)

/-- Sizes a coding block can have (R90, R103 to R105), and its partitions. -/
def Dev.sizeCoded (d : Dev) (c : Nat) (b : CodedBlock) : Bool :=
  if d.codec c = 2 then b.size == 16
  else
    [64, 32, 16, 8].contains b.size && decide (b.size ≤ d.ctu c)
      && (d.codec c != 0 || b.part.val != 3 || (b.mode.isSome && b.size == 8))

/-- Sizes of a block's intra prediction and of its transforms (R103 to R105), the latter no smaller than its transform splits make them
(R90). -/
def Dev.transformsFit (d : Dev) (c : Nat) (b : CodedBlock) : Bool :=
  let codec := d.codec c
  let side := if b.part.val = 3 then b.size / 2 else b.size
  (b.mode.isNone || ((if codec = 2 then [4, 8, 16] else [4, 8, 16, 32]).contains b.pred && decide (b.pred ≤ b.size)))
    && decide (b.txDepth ≤ (if d.quality c then 2 else 1))
    && b.tx.all (fun t =>
      (if codec = 2 then [4, 8] else [4, 8, 16, 32]).contains t.1 && (if codec = 2 then [4, 8] else [4, 8, 16, 32]).contains t.2
        && (t.1 == t.2 || (codec == 1 && (t.1 == 2 * t.2 || t.2 == 2 * t.1))) && decide (max t.1 t.2 ≤ b.size)
        && (codec == 2 || decide (min 32 side ≤ max t.1 t.2 * 2 ^ b.txDepth)))

/-- Intra modes of a prediction block of a codec: 35, 56 directions with DC, three smooth and paeth, or H.264's nine and four. -/
def modeCount (codec pred : Nat) : Nat := match codec with | 0 => 35 | 1 => 61 | _ => if pred = 16 then 4 else 9

/-- Vectors a block has in one list of references. -/
def blockParts (b : CodedBlock) : Nat := match b.part.val with | 0 => 1 | 3 => 4 | _ => 2

/-- What the presets evaluate for a block (R90): sizes 64 and 8 with the fast preset only after an early split test; 11 or 19 intra modes
by SATD, 3 or 8 of those and the most-probable ones in full; the best merge candidate or all; one or two refined vectors of each
reference searched.  Where a codec has fewer modes, all of them. -/
def Dev.trialFits (d : Dev) (c : Nat) (p : Pic) (b : CodedBlock) : Bool :=
  let q := d.quality c
  let t := b.trial
  (q || d.codec c == 2 || [32, 16].contains b.size || t.split)
    && (match b.mode with
      | some m =>
        let all := t.satd ++ t.probable
        decide all.Nodup && t.satd.length == min (if q then 19 else 11) (modeCount (d.codec c) b.pred - t.probable.length)
          && decide t.full.Nodup && t.full.length == min (if q then 8 else 3) all.length && t.full.all all.contains && t.full.contains m
      | none =>
        let places := (List.range p.refs.length).filter (fun i => (p.refs[i]?).any (d.refSearched c p b))
        decide (t.merges ≤ (if d.codec c = 0 then 5 else t.merges)) && t.merged == (if q then t.merges else min 1 t.merges)
          && t.vectors.map (·.1) == places
          && t.vectors.all (fun e => e.2.length == (if q then 2 else 1) * blockParts b
            && e.2.all (fun v => (p.refs[e.1]?).any (fun o => d.searched c p b o v.1 v.2)))
          && (match b.cand with
            | some i => decide (i < t.merges)
            | none => b.mvs.all (fun v => t.vectors.any (fun e => e.1 == v.1 && e.2.contains v.2))))

/-- Quantiser of a row of a slice, and its starvation level, where it has been given them. -/
def Slice.rowLevel (s : Slice) (row : Nat) : Nat := match s.rowQ.find? (fun q => q.1 == row) with | some q => q.2.2 | none => 0

/-- CTUs of a slice in raster order: row and column. -/
def Dev.ctusOf (d : Dev) (c s : Nat) : List (Nat × Nat) :=
  (List.range (d.rowTo c s - d.rowFrom c s)).flatMap (fun r => (List.range (d.ctuCols c)).map (fun k => (d.rowFrom c s + r, k)))

/-- The starvation level a CTU of a slice was coded at: that of its row (R130), from the recoded one on 2 (R131). -/
def Dev.ctuLevel (d : Dev) (c : Nat) (s : Slice) (r : JobResult) (row col : Nat) : Nat :=
  match r.recodedFrom with
  | some k => if k ≤ (row - d.rowFrom c s.idx) * d.ctuCols c + col then 2 else s.rowLevel row
  | none => s.rowLevel row

/-- The row holds a CTU that R131 recoded. -/
def Dev.rowRecoded (d : Dev) (c : Nat) (s : Slice) (r : JobResult) (row : Nat) : Bool :=
  match r.recodedFrom with
  | some k => decide (k < (row + 1 - d.rowFrom c s.idx) * d.ctuCols c)
  | none => false

/-- Coded bytes of a row of the slice. -/
def Dev.rowBytes (d : Dev) (c s : Nat) (r : JobResult) (row : Nat) : Nat :=
  ((r.ctuBytes.drop ((row - d.rowFrom c s) * d.ctuCols c)).take (d.ctuCols c)).sum

/-- What a starved row may code (R130). -/
def Dev.starvedBlock (d : Dev) (c : Nat) (p : Pic) (level : Nat) (b : CodedBlock) : Bool :=
  if p.ptype = 0 then
    (b.size == if d.codec c = 2 then 16 else d.ctu c) && (b.mode == some .dc || (level == 1 && b.mode == some .planar)) && (level == 1 || !b.residual)
  else b.cand == some 0 && b.mode.isNone && (level == 1 || !b.residual)

/-- A coding block that an encode job of slice `s` can code (R88 to R90, R97, R130). -/
def Dev.blockFits (d : Dev) (c : Nat) (p : Pic) (s : Slice) (r : JobResult) (b : CodedBlock) : Bool :=
  let level := d.ctuLevel c s r (b.y / d.ctu c) (b.x / d.ctu c)
  decide (b.x < d.width c) && decide (d.lineFrom c s.idx ≤ b.y) && decide (b.y < d.lineTo c s.idx) && d.sizeCoded c b
    && b.x % b.size == 0 && b.y % b.size == 0 && d.transformsFit c b
    && (if level = 0 then d.trialFits c p b else d.starvedBlock c p level b)
    && (if b.mode.isSome then b.mvs.isEmpty && b.cand.isNone
      else p.ptype != 0 && !b.mvs.isEmpty && decide (b.mvs.length ≤ 4 * (if p.ptype = 2 then 2 else 1))
        && b.mvs.all (fun v => (p.refs[v.1]?).isSome && decide (v.2.1.natAbs ≤ 1024) && decide (v.2.2.natAbs ≤ 384)))

/-- The row quantiser is signalled at the first coding block of each row (R92); one that is coded without residual has none to signal. -/
def Dev.quantSignalled (d : Dev) (c : Nat) (s : Slice) (r : JobResult) : Bool :=
  s.rowQ.all (fun q => match r.coded.find? (fun b => b.y / d.ctu c == q.1) with
    | some b => d.ctuLevel c s r q.1 (b.x / d.ctu c) == 2 || b.quant == some q.2.1
    | none => true)

/-! Tools (R103 to R105, R112). -/

/-- A tool that a channel's pictures can use: those the table of its codec lists, with the enables of CHN_ENC_TOOLS that the picture latched. -/
def Dev.toolAllowed (d : Dev) (c : Nat) (p : Pic) (t : CodingTool) : Bool :=
  let on (f : Field) : Bool := f.ofWord p.tools == 1
  let hb := d.hierB (d.leaderOf c)
  match d.codec c, t with
  | _, .rdoqLast => on CHN_ENC_TOOLS.RDOQ_EN
  | _, .rdoqLevels => on CHN_ENC_TOOLS.RDOQ_EN && d.quality c
  | _, .deblocking => on CHN_ENC_TOOLS.DBK_EN
  | _, .quarterSample => true
  | _, .flatMatrices => true
  | _, .dct => true
  | 0, .intra35 | 0, .merge5 | 0, .amvp | 0, .dst4 | 0, .signHiding | 0, .cabac => true
  | 0, .tmvp => on CHN_ENC_TOOLS.TMVP_EN
  | 0, .sao => on CHN_ENC_TOOLS.SAO_EN
  | 1, .directionalDelta | 1, .smooth | 1, .paeth | 1, .chromaFromLuma | 1, .reducedTxSet | 1, .tileGroupPerSlice => true
  | 1, .tiles => true
  | 1, .refMv => on CHN_ENC_TOOLS.TMVP_EN
  | 1, .compoundAverage => hb
  | 1, .hiddenFrames => hb
  | 1, .cdef => on CHN_ENC_TOOLS.CDEF_EN
  | 1, .interpRegular | 1, .interpSmooth | 1, .interpSharp => true
  | 2, .cabac | 2, .intra4 | 2, .intra8 | 2, .intra16 | 2, .transform8 => true
  | 2, .spatialDirect => hb && p.ptype == 2
  | _, _ => false

/-! Adaptive quantisation (R92). -/

/-- The complexity of a CTU of a leader with an unscaled output: that of its blocks. -/
def ctuCost (q : SrcPic) (ctu row col : Nat) : Nat :=
  sumBy (q.vecs.filter (fun b => 16 * b.bx / ctu == col && 16 * b.byy / ctu == row)) (fun b => min b.inter b.intra)

/-- round(STRENGTH ÷ 4 × log2(`a` ÷ `b`)) clipped to −4 to +4, compared in powers of two; halves are rounded away from zero (DESIGN CHOICE,
log entry 205: the spec names no rule for them). -/
def aqOffset (strength a b : Nat) : Int :=
  let ge (t : Int) : Bool :=
    let e := 4 * t - 2
    let l := a ^ strength * 2 ^ (-e).toNat
    let r := b ^ strength * 2 ^ e.toNat
    if t > 0 then decide (l ≥ r) else decide (l > r)
  let n : Int := (([-3, -2, -1, 0, 1, 2, 3, 4] : List Int).filter ge).length
  n - 4

/-- The offsets a CTU may have: the one of R92; any in range where a complexity is 0, and in a channel whose CTUs are not the leader's
(DESIGN CHOICE, log entry 170: the spec states neither). -/
def Dev.aqOffsets (d : Dev) (c : Nat) (p : Pic) (row col : Nat) : List Int :=
  let all : List Int := [-4, -3, -2, -1, 0, 1, 2, 3, 4]
  let strength := CHN_ENC_TOOLS.AQ.ofWord p.tools
  if strength = 0 then [0]
  else match (d.ch (d.leaderOf c)).srcAt p.idx with
    | none => all
    | some q =>
      let a := d.rowCostOf c q.rowCost row
      let b := ctuCost q (d.ctu c) row col * d.ctuCols c
      if !d.ownVectors c || a = 0 || b = 0 then all else [aqOffset strength a b]

/-- The quantisers of a slice's CTUs (R92): the row's with the CTU's offset, clipped to the codec's range; the largest in starved coding. -/
def Dev.ctuQFits (d : Dev) (c : Nat) (p : Pic) (s : Slice) (r : JobResult) : Bool :=
  let l := d.ctusOf c s.idx
  decide (r.ctuQ.length = l.length) && (l.zip r.ctuQ).all (fun e =>
    let q := match s.rowQ.find? (fun k => k.1 == e.1.1) with | some k => k.2.1 | none => 0
    if d.ctuLevel c s r e.1.1 e.1.2 != 0 then e.2 == d.qTop c
    else (d.aqOffsets c p e.1.1 e.1.2).any (fun o => e.2 == clampNat 0 (d.qTop c) ((q : Int) + o * d.qk c).toNat))

/-- SAO or CDEF parameters: one for each CTU where the channel codes them, else none (R93, R103 to R105); one of 8 strengths of the frame with
CDEF; at level 2 those of the CTU to the left (R130). -/
def Dev.filterFits (d : Dev) (c : Nat) (p : Pic) (s : Slice) (r : JobResult) : Bool :=
  let on := match d.codec c with
    | 0 => CHN_ENC_TOOLS.SAO_EN.ofWord p.tools == 1
    | 1 => CHN_ENC_TOOLS.CDEF_EN.ofWord p.tools == 1
    | _ => false
  let l := d.ctusOf c s.idx
  r.filter.length == (if on then l.length else 0) && (d.codec c != 1 || r.filter.all (· < 8))
    && (List.range r.filter.length).all (fun i => match l[i]? with
      | some (row, col + 1) => d.ctuLevel c s r row (col + 1) != 2 || r.filter[i]? == r.filter[i - 1]?
      | _ => true)

/-- The sizes of a slice's CTUs (R129, R131, R139): what the job had produced as each row started stands, of the first attempt as of a
reissue; up to a CTU that is not at level 2, the bytes so far leave the floor of the rest within the hard allowance; the CTUs at level 2 to
the end of the slice take no more than their floor. -/
def Dev.sizesFit (d : Dev) (c : Nat) (s : Slice) (r : JobResult) : Bool :=
  let l := d.ctusOf c s.idx
  let upTo (k : Nat) : Nat := (r.ctuBytes.take k).sum
  let rest (k : Nat) : Nat := if l.length ≤ k then 0 else 8 * (l.length - k) + 64
  let last (k : Nat) : Bool := match l[k]? with | some e => d.ctuLevel c s r e.1 e.2 == 2 | none => false
  r.ctuBytes.length == l.length && s.rowQ.length == d.rowTo c s.idx - d.rowFrom c s.idx && decide (r.ctuBytes.sum ≤ s.h)
    && s.sofar.all (fun e => e.2 == upTo ((e.1 - d.rowFrom c s.idx) * d.ctuCols c))
    && (match r.recodedFrom with | some k => decide (k < l.length) | none => true)
    && (List.range l.length).all (fun k => last k || decide (upTo (k + 1) + rest (k + 1) ≤ s.h))
    && (List.range l.length).all (fun k => !last k || (k != 0 && last (k - 1)) || decide (r.ctuBytes.sum - upTo k ≤ rest k))

/-- The place of an area of `w` by `h` luma samples that is nearest to place (`x`, `y`) of a plane (R265). -/
def nearestIn (chroma c422 : Bool) (w h x y : Nat) : Nat × Nat :=
  let pw := if chroma then 2 * cdiv w 2 else w
  let ph := if chroma && !c422 then cdiv h 2 else h
  (if x < pw then x else if chroma then pw - 2 + x % 2 else pw - 1, min y (ph - 1))

/-- Every sample that the blocks hold outside the area repeats the area's nearest one, from the blocks of the same job; no block is written
twice (R265). -/
def paddingFits (c422 : Bool) (w h : Nat) (l : List ChamWrite) : Bool :=
  decide ((l.map (fun b => (b.chroma, b.bx, b.byy))).Nodup) && l.all (fun b => (List.range 128).all (fun k =>
    let at_ := (32 * b.bx + k % 32, 4 * b.byy + k / 32)
    let p := nearestIn b.chroma c422 w h at_.1 at_.2
    p == at_ || (match l.find? (fun q => q.chroma == b.chroma && q.bx == p.1 / 32 && q.byy == p.2 / 4) with
      | some q => b.samples.getD k 0 == q.samples.getD (32 * (p.2 % 4) + p.1 % 32) 0
      | none => false)))

/-- Chamois blocks of a job that lie in luma lines `lo` to `hi` of a surface; `last` takes the padding below with them. -/
def writesIn (f : Surf) (c422 : Bool) (lo hi : Nat) (last : Bool) (l : List ChamWrite) : Bool :=
  l.all (fun b =>
    let per := if b.chroma && !c422 then 8 else 4
    b.surface == .recon && decide (b.bx < f.geo.bw) && decide (b.byy < if b.chroma then f.geo.rowsC else f.geo.rowsY)
      && b.samples.length == 128 && decide (lo ≤ b.byy * per) && (last || decide (b.byy * per < hi)))

/-- The blocks of a surface in luma lines `lo` to `hi`, those of its padding with the last lines of the picture (R265). -/
def surfBlocks (f : Surf) (c422 : Bool) (lo hi height : Nat) : List (Bool × Nat × Nat) :=
  let of (chroma : Bool) (rows per : Nat) : List (Bool × Nat × Nat) :=
    (blockRows lo hi height rows per).flatMap (fun y => (List.range f.geo.bw).map (fun x => (chroma, x, y)))
  of false f.geo.rowsY 4 ++ of true f.geo.rowsC (if c422 then 4 else 8)

/-- A job writes all blocks of its lines (R265). -/
def writesAll (f : Surf) (c422 : Bool) (lo hi height : Nat) (l : List ChamWrite) : Bool :=
  (surfBlocks f c422 lo hi height).all (l.map (fun b => (b.chroma, b.bx, b.byy))).contains

/-- The padding to the right of a block and below it is written with it (R265). -/
def paddingWith (f : Surf) (c422 : Bool) (w h : Nat) (l : List ChamWrite) : Bool :=
  (surfBlocks f c422 0 h h).all (fun b =>
    let p := nearestIn b.1 c422 w h (32 * b.2.1) (4 * b.2.2)
    !l.any (fun q => q.chroma == b.1 && q.bx == p.1 / 32 && q.byy == p.2 / 4) || l.any (fun q => q.chroma == b.1 && q.bx == b.2.1 && q.byy == b.2.2))

/-- Width and height as coded: HEVC pads to whole CTUs, H.264 to whole macroblocks, AV1 codes the size (R100). -/
def Dev.codedSize (d : Dev) (c : Nat) : Nat × Nat :=
  let k := match d.codec c with | 0 => d.ctu c | 1 => 1 | _ => 16
  (roundUp (d.width c) k, roundUp (d.height c) k)

/-- Luma rows a slice's job leaves unfiltered at the top and at the bottom: 8 at a boundary that a seam job filters (R93). -/
def Dev.plainRows (d : Dev) (c : Nat) (p : Pic) (s : Slice) : Nat × Nat :=
  (if d.crossFilter c && s.idx != 0 then 8 else 0, if d.crossFilter c && s.idx + 1 != p.slices.length then 8 else 0)

/-- The SAO or CDEF parameters of the CTU rows above and below the boundary of slice `s`, as their encode jobs coded them (R93). -/
def Dev.seamFilter (d : Dev) (c : Nat) (p : Pic) (s : Nat) : List Nat :=
  match p.slice (s - 1), p.slice s with
  | some a, some b => a.filter.drop (a.filter.length - d.ctuCols c) ++ b.filter.take (d.ctuCols c)
  | _, _ => []

/-- A result of an encode job (R88 to R93, R103 to R105, R129, R131, R265).  Neither the engine, its clock, PAR nor the number of the attempt
has a part in it (R91). -/
def Dev.encodeFits (d : Dev) (c : Nat) (p : Pic) (s : Slice) (f : Surf) (r : JobResult) : Bool :=
  d.sizesFit c s r && r.coded.all (d.blockFits c p s r) && d.quantSignalled c s r && r.tools.all (d.toolAllowed c p) && d.ctuQFits c p s r
    && d.filterFits c p s r && r.plain == d.plainRows c p s
    && writesAll f (d.c422 c) (d.lineFrom c s.idx) (d.lineTo c s.idx) (d.height c) r.cham
    && writesIn f (d.c422 c) (d.lineFrom c s.idx) (d.lineTo c s.idx) (s.idx + 1 == p.slices.length) r.cham
    && paddingFits (d.c422 c) (d.codedSize c).1 (d.codedSize c).2 r.cham

/-! Headers. -/

/-- The profile of a channel (R102). -/
def Dev.profile (d : Dev) (c : Nat) : Profile :=
  match d.codec c with
  | 2 => .high
  | 1 => .av1Main
  | _ => if d.c422 c then .main422 else if d.tenBit c then .main10 else .main

/-- The sample aspect ratio of a scaled channel (R96). -/
def Dev.sar (d : Dev) (c : Nat) : Sar :=
  if !d.isScaled c then .absent
  else
    let s := d.sourceOf c
    let a := d.width s * d.height c
    let b := d.height s * d.width c
    let g := max 1 (Nat.gcd a b)
    if a / g > 65535 ∨ b / g > 65535 then .unspecified else .ratio (a / g) (b / g)

/-- The colour description and metadata of a picture (R107, R113): the decoded stream's where FROM_SRC is 1 and the source is a surface
link, else that of CHN_ENC_COLOUR, without metadata; code 2 in all three fields omits it. -/
def Dev.colourOf (d : Dev) (c : Nat) (idx : Nat) : Option (Nat × Nat × Nat × Bool) × List Byte × List Byte :=
  let l := d.leaderOf c
  let drop (v : Nat × Nat × Nat × Bool) : Option (Nat × Nat × Nat × Bool) := if v.1 == 2 && v.2.1 == 2 && v.2.2.1 == 2 then none else some v
  match (if d.bit (CHN_ENC_COLOUR.FROM_SRC.on c) && d.rd (CHN_SRC.KIND.on l) == 3 then (d.ch l).srcAt idx else none) with
  | some q => (q.colour.bind drop, q.mastering, q.light)
  | none => (drop (d.rd (CHN_ENC_COLOUR.PRIMARIES.on c), d.rd (CHN_ENC_COLOUR.TRANSFER.on c), d.rd (CHN_ENC_COLOUR.MATRIX.on c),
      d.bit (CHN_ENC_COLOUR.FULL_RANGE.on c)), [], [])

/-- The stream is signalled as constant bit rate (R122). -/
def Dev.constantRate (d : Dev) (c : Nat) : Bool :=
  let mode := d.rd (CHN_RC_MODE.MODE.on c)
  mode == 0 || (mode == 3 && d.bit (CHN_RC_MODE.FILL.on c))

/-- The parameter sets, or sequence header, of a random-access picture, with the buffer model in force from it on (R121). -/
def Dev.streamHdr (d : Dev) (c idx : Nat) : StreamHdr :=
  let z := d.codedSize c
  let col := d.colourOf c idx
  { profile := d.profile c, level := d.rd (CHN_ENC_LEVEL.LEVEL.on c), tier := d.bit (CHN_ENC_LEVEL.TIER.on c), width := d.width c
    height := d.height c, codedW := z.1, codedH := z.2, cropRight := z.1 - d.width c, cropBottom := z.2 - d.height c, sar := d.sar c
    colour := col.1, mastering := col.2.1, light := col.2.2, hrdRate := (d.ch c).rc.drainRate, hrdSize := (d.ch c).rc.bmax
    cbr := d.constantRate c, tmvp := d.codec c != 2 && d.bit (CHN_ENC_TOOLS.TMVP_EN.on c), sao := d.codec c == 0 }

/-- The kind of a picture (R98, R103 to R105). -/
def Dev.kindOf (d : Dev) (c : Nat) (p : Pic) : PicKind :=
  if p.ptype != 0 then (if p.ptype = 3 && d.codec c = 0 then .trailR else .inter)
  else match d.codec c with
    | 1 => .keyFrame
    | 2 => .idr
    | _ => if !d.hierB (d.leaderOf c) then .idrNLp else if d.isCra c then .cra else .idrWRadl

/-- A signed 4-bit register field clipped to −6 to +6 (R112). -/
def offset6 (v : Nat) : Int := max (-6) (min 6 (signedOf 4 v))

/-- How every block of a hold picture is coded (R160). -/
def Dev.holdSkip (d : Dev) (c : Nat) : BlockSkip := match d.codec c with | 0 => .merge0 | 1 => .globalMv | _ => .pSkip

/-- The headers of a picture whose coding begins; a hold picture is one slice, or tile group, of one reference without loop filters, TMVP or
any block that is not skipped, and in AV1 refreshes the LAST slot (R160). -/
def Dev.picHdr (d : Dev) (c : Nat) (p : Pic) : PicHdr :=
  let coded := p.ptype != 3
  let av1 := d.codec c == 1
  let on (f : Field) : Bool := coded && f.ofWord p.tools == 1
  { kind := d.kindOf c p, params := if p.ptype = 0 then some (d.streamHdr c p.idx) else none, delimiter := p.delimiter, hidden := p.hidden
    shows := p.shows, slices := p.slices.length, refs := p.refs.length, tmvp := d.codec c != 2 && on CHN_ENC_TOOLS.TMVP_EN
    skip := if coded then none else some (d.holdSkip c), refreshLast := av1 && !coded
    deblock := on CHN_ENC_TOOLS.DBK_EN, sao := d.codec c == 0 && on CHN_ENC_TOOLS.SAO_EN
    cdef := av1 && on CHN_ENC_TOOLS.CDEF_EN, across := d.crossFilter c
    tcOff := if av1 then 0 else offset6 (CHN_ENC_TOOLS.TC_OFF.ofWord p.tools)
    betaOff := if av1 then 0 else offset6 (CHN_ENC_TOOLS.BETA_OFF.ofWord p.tools) }

end Sys2Proof.Machine
end

