-- ==== Sys2Proof/Machine/DecodeOps.lean ====
section
/-!
DEFINITION. Operations of decode channels: assembling access units (R148, R149), damage and the stop it leads to (R155 to R158),
the decoded pictures and their output to host stores and the surface link (R150, R151, R262, R274).
-/

namespace Sys2Proof.Machine

def Dev.dc (d : Dev) (c : Nat) : Dec := (d.ch c).dec
def Dev.upDec (d : Dev) (c : Nat) (f : Dec → Dec) : Dev := d.upCh c (fun x => { x with dec := f x.dec })

/-! The syntax ring (R186 to R188): claims fill chunk after chunk, and a chunk is free again when no claim lies in it any more (DESIGN
CHOICE, log entry 178). -/

/-- The chunks a claim lies in and has not given back, counted since OPEN. -/
def Claim.chunks (k : Claim) : List Nat :=
  let a := k.start / 262144
  if k.len = 0 then [] else ((List.range ((k.start + k.len - 1) / 262144 + 1 - a)).map (· + a)).filter (fun n => !k.gone.contains n)

def Chan.ringChunks (x : Chan) : List Nat := x.claims.flatMap Claim.chunks

/-- Where the next claim starts: behind the last one while its chunk is held, else in a new chunk. -/
def Chan.ringStart (x : Chan) : Nat :=
  if x.ringChunks.contains (x.ringHead / 262144) then x.ringHead else cdiv x.ringHead 262144 * 262144

/-- A claim of `n` bytes fits in the free part of the ring. -/
def Dev.ringFits (d : Dev) (c n : Nat) : Bool :=
  let x := d.ch c
  decide ((x.ringChunks ++ Claim.chunks { pic := 0, slice := 0, start := x.ringStart, len := n }).eraseDups.length ≤ x.synChunks)

/-- A claim is made; it shrinks to what was written; claims are given up (R188). -/
def Dev.claim (d : Dev) (c pic slice n : Nat) : Dev :=
  d.upCh c (fun x => { x with claims := x.claims ++ [{ pic := pic, slice := slice, start := x.ringStart, len := n }], ringHead := x.ringStart + n })
def Dev.shrink (d : Dev) (c pic slice n : Nat) : Dev :=
  d.upCh c (fun x =>
    match x.claims.find? (fun k => k.pic == pic && k.slice == slice) with
    | none => x
    | some k => { x with
        claims := x.claims.map (fun q => if q = k then { q with len := min q.len n } else q)
        ringHead := if x.ringHead = k.start + k.len then k.start + min k.len n else x.ringHead })
/-- Chunks of a unit's claim in which every segment is reconstructed, and no syntax is still to come, go back (R188). -/
def Dev.releaseChunks (d : Dev) (c au : Nat) : Dev :=
  match (d.dc c).aus.find? (fun a => a.idx == au) with
  | none => d
  | some a =>
    let open_ := ((d.ch c).pics.filter (fun p => p.idx == au)).flatMap (fun p => p.slices.filter (fun s => !s.done))
    d.upCh c (fun x => { x with claims := x.claims.map (fun k => if k.pic != au then k
      else { k with gone := k.gone ++ k.chunks.filter (fun n =>
        (a.whole || decide ((n + 1) * 262144 ≤ k.start + a.syn))
          && open_.all (fun s => decide (k.start + s.synAt + s.written ≤ n * 262144) || decide ((n + 1) * 262144 ≤ k.start + s.synAt))) }) })
def Dev.unclaim (d : Dev) (c : Nat) (p : Claim → Bool) : Dev :=
  d.upCh c (fun x => { x with claims := x.claims.filter (fun k => !p k) })

/-- PKT buffers of units and packets that a decode channel holds: `n` of them, the oldest, go back to the pool (R365). -/
def Dev.freePkts (d : Dev) (c n : Nat) : Dev :=
  let l := (d.ch c).jbBufs
  (d.upCh c (fun x => { x with jbBufs := l.drop n })).freeAll 0 (l.take n)

/-- A packet is discarded and counted (R148, R149, R157); the sink's discard counter of the switch output counts it too (R357). -/
def Dev.pktDisc (d : Dev) (c : Nat) : Dev :=
  (d.count (CHN_DEC_PKT_DISC.COUNT.on c) 1).sinkDisc 8

/-! The surface link (R84, R85, R262, R274). -/

/-- Blocks of one plane copied from a decode channel's frame store to the leader's source store. -/
def Dev.copyBlocks (d : Dev) (e : Env) (src dst : Surf) (lossy : Option (Nat × Nat)) (chroma : Bool) (rows : List Nat) :
    Dev × Nat :=
  let one (t : Dev × Nat) (byy bx : Nat) : Dev × Nat :=
    match (e.seen t.1).block src chroma bx byy with
    | none => t
    | some s =>
      let r := t.1.putBlock dst lossy chroma bx byy s
      (r.1, t.2 + ofBool r.2)
  rows.foldl (fun t r => (List.range dst.geo.bw).foldl (fun t bx => one t r bx) t) (d, 0)

/-- Some block of lines `lo` to `hi` of a surface is malformed, or a sector that its header names holds uncorrectable HBM data (R266, R275,
R292). -/
def Dev.badBlocks (d : Dev) (e : Env) (f : Surf) (c422 : Bool) (lo hi height : Nat) : Bool :=
  let bad (chroma : Bool) (r bx : Nat) : Bool :=
    let head := leNat ((e.seen d).bytes .hbm (f.headAt chroma bx r) 1)
    ((e.seen d).block f chroma bx r).isNone || d.poisoned (f.slotAt chroma bx r) (32 * max 1 (head % 8)) || d.poisoned (f.headAt chroma bx r) 1
  let any (chroma : Bool) (rows : List Nat) : Bool := rows.any (fun r => (List.range f.geo.bw).any (bad chroma r))
  any false (blockRows lo hi height f.geo.rowsY 4) || any true (blockRows lo hi height f.geo.rowsC (if c422 then 4 else 8))

/-- The frame store of a decoded picture. -/
def Dev.decSurf (d : Dev) (c : Nat) (p : DecPic) : Surf :=
  d.reconSurf c (p.store.getD 0) p.info.width p.info.height p.info.tenBit p.info.c422

/-- Lines `lo` to `hi` of a decoded picture cannot be read. -/
def Dev.unreadable (d : Dev) (e : Env) (c : Nat) (p : DecPic) (lo hi : Nat) : Bool :=
  p.store.isSome && d.badBlocks e (d.decSurf c p) p.info.c422 lo hi p.info.height

/-- The output converter writes lines `lo` to `hi` of picture `p` into the leader's source picture `i` (R274, R282). -/
def Dev.copyLink (d : Dev) (e : Env) (c : Nat) (p : DecPic) (l i lo hi : Nat) : Dev :=
  match (d.ch l).srcAt i, p.store with
  | some sp, some k =>
    let src := d.reconSurf c k p.info.width p.info.height p.info.tenBit p.info.c422
    let dst := d.linkSurf l sp.store
    let lossy := lossyOf dst.ten (sp.linkMode.getD sp.mode) false
    let h := d.height (d.sourceOf l)
    let per := if p.info.c422 then 4 else 8
    let a := d.copyBlocks e src dst lossy false (blockRows lo hi h dst.geo.rowsY 4)
    let b := a.1.copyBlocks e src dst lossy true (blockRows lo hi h dst.geo.rowsC per)
    b.1.count (CHN_SURF_OVER_CNT.COUNT.on l) (a.2 + b.2)
  | _, _ => d

/-- The histogram of a lossy surface-link picture, when its last block row is written (R273, R281). -/
def Dev.linkHist (d : Dev) (e : Env) (l i : Nat) : Dev :=
  match (d.ch l).srcAt i with
  | none => d
  | some sp =>
    let f := d.linkSurf l sp.store
    if (lossyOf f.ten (sp.linkMode.getD sp.mode) false).isNone then d
    else
      let h := histOf ((e.seen d).heads f)
      let d := d.wr (CHN_SURF_HSTS.SRC_PIC.on l) i
      d.forEach (List.range 7) (fun d k => d.wr ((CHN_SURF_HSRC.BLOCKS k).on l) (h.getD k 0))

/-! Output (R150, R151). -/

/-- Host output stores handed over and not yet released. -/
def Dev.outUsed (d : Dev) (c : Nat) : Nat :=
  let n := max 1 (d.rd (CHN_DEC_CFG.NOUT.on c))
  let w := d.rd (CHN_DEC_OUT_WR.IDX.on c)
  let r := d.rd (CHN_DEC_OUT_RD.IDX.on c)
  if d.rd (CHN_DEC_OUT_WR.WRAP.on c) = d.rd (CHN_DEC_OUT_RD.WRAP.on c) then w - r else n + w - r

/-- A ring index advanced: its WRAP toggles when IDX returns to 0 (R173). -/
def Dev.outAdvance (d : Dev) (c : Nat) : Dev :=
  let i := d.rd (CHN_DEC_OUT_WR.IDX.on c) + 1
  if i ≥ d.rd (CHN_DEC_CFG.NOUT.on c) then
    (d.wr (CHN_DEC_OUT_WR.IDX.on c) 0).wr (CHN_DEC_OUT_WR.WRAP.on c) (1 - d.rd (CHN_DEC_OUT_WR.WRAP.on c))
  else d.wr (CHN_DEC_OUT_WR.IDX.on c) i

/-- Primaries, transfer, matrix and full-range flag; 2, 2, 2, 0 where the stream has none (R151). -/
def colourBytes : Option (Nat × Nat × Nat × Bool) → List Byte
  | some v => natLE 1 v.1 ++ natLE 1 v.2.1 ++ natLE 1 v.2.2.1 ++ natLE 1 (ofBool v.2.2.2)
  | none => natLE 1 2 ++ natLE 1 2 ++ natLE 1 2 ++ natLE 1 0

/-- The output record of R151. -/
def outRecord (p : DecPic) (now : Nat) : List Byte :=
  natLE 4 (toSigned 32 p.poc) ++ natLE 8 p.ts ++ natLE 2 p.info.width ++ natLE 2 p.info.height
    ++ natLE 1 (ofBool p.info.tenBit + 2 * ofBool p.info.c422)
    ++ natLE 1 (ofBool p.info.rap + 2 * ofBool p.info.filmGrain + 4 * ofBool p.gap)
    ++ colourBytes p.info.colour
    ++ natLE 2 0 ++ natLE 8 now

/-- One block row of a plane copied into a host output store in raw layout (R264, R274). -/
def Dev.copyRawRow (d : Dev) (e : Env) (c : Nat) (p : DecPic) (f : Surf) (base : Nat) (chroma : Bool) (byy : Nat) : Dev :=
  let lines := if chroma then (if p.info.c422 then p.info.height else cdiv p.info.height 2) else p.info.height
  d.forEach (List.range f.geo.bw) (fun d bx =>
    match (e.seen d).block f chroma bx byy with
    | none => d
    | some s => d.forEach (List.range 4) (fun d r =>
        let x := 32 * bx
        if 4 * byy + r < lines ∧ x < p.info.width then
          d.putRaw base (d.width c) (d.height c) (d.tenBit c) p.info.tenBit chroma (4 * byy + r) x
            ((s.drop (32 * r)).take (min 32 (p.info.width - x)))
        else d))

/-- The block rows in lines `lo` to `hi` of a picture are copied into the host output store that is next (R150, R274). -/
def Dev.copyOut (d : Dev) (e : Env) (c : Nat) (p : DecPic) (lo hi : Nat) : Dev :=
  let store := d.rd (CHN_DEC_OUT_BASE.ADDR.on c) + 4096 + d.rd (CHN_DEC_OUT_PITCH.BYTES.on c) * d.rd (CHN_DEC_OUT_WR.IDX.on c)
  if p.store.isNone then d
  else
    let f := d.decSurf c p
    let d := d.forEach (blockRows lo hi p.info.height f.geo.rowsY 4) (fun d r => d.copyRawRow e c p f store false r)
    d.forEach (blockRows lo hi p.info.height f.geo.rowsC (if p.info.c422 then 4 else 8)) (fun d r => d.copyRawRow e c p f store true r)

/-- A picture whose last row is in its host output store is handed over: its record, then CHN_DEC_OUT_WR advances (R150). -/
def Dev.handOver (d : Dev) (e : Env) (c : Nat) (p : DecPic) : Dev :=
  (d.store .hbm (d.rd (CHN_DEC_OUT_BASE.ADDR.on c) + 32 * d.rd (CHN_DEC_OUT_WR.IDX.on c)) (outRecord p e.now)).outAdvance c

/-- A decoded picture is known by its access unit and its place in it. -/
def DecPic.key (p : DecPic) : Nat × Nat := (p.idx, p.frame)
def Dev.decPic (d : Dev) (c : Nat) (k : Nat × Nat) : Option DecPic := (d.dc c).dpb.find? (fun p => p.key == k)
def Dev.upDpb (d : Dev) (c : Nat) (k : Nat × Nat) (f : DecPic → DecPic) : Dev :=
  d.upDec c (fun x => { x with dpb := x.dpb.map (fun p => if p.key = k then f p else p) })

/-- Frame `p` comes before frame `q` in decode order. -/
def DecPic.before (p q : DecPic) : Bool := decide (p.idx < q.idx) || (p.idx == q.idx && decide (p.frame < q.frame))

/-- The decoded picture whose jobs are those of picture `p` of the channel. -/
def Dev.decOf (d : Dev) (c : Nat) (p : Pic) : Option DecPic := d.decPic c (p.idx, p.layer)

/-- Pictures leave the frame stores once reconstructed, output, and no longer referred to. -/
def Dev.trimDpb (d : Dev) (c : Nat) : Dev :=
  d.upDec c (fun x => { x with dpb := x.dpb.filter (fun p => !p.ready || p.isRef || p.toOut || p.linkWait) })

/-- The pictures released for output that host output stores still wait for, in output order. -/
def Dev.outWaits (d : Dev) (c : Nat) : List (Nat × Nat) :=
  (d.dc c).outQ.filter (fun k => match d.decPic c k with | some p => p.toOut | none => false)

/-- The picture is the next to go to a host output store (R150). -/
def Dev.outNext (d : Dev) (c : Nat) (k : Nat × Nat) : Bool := (d.outWaits c).head? == some k

/-- A host output store is free for the picture that is next. -/
def Dev.outFree (d : Dev) (c : Nat) : Bool := decide (d.outUsed c < d.rd (CHN_DEC_CFG.NOUT.on c))

/-- The leader a decode channel feeds, where it takes source pictures. -/
def Dev.linkLeader (d : Dev) (c : Nat) : Option Nat := (d.linkedTo c).find? (fun l => d.chState l == 2 || d.chState l == 3)

/-- The decoded picture differs in size or format from the leader's CHN_PIC_SIZE or CHN_FORMAT (R161; log entry 162). -/
def Dev.linkBad (d : Dev) (l : Nat) (p : DecPic) : Bool :=
  p.info.width != d.width l || p.info.height != d.height l || p.info.tenBit != d.tenBit l || p.info.c422 != d.c422 l

/-- A picture that the link was copying into a group which holds by now, because its decode channel left RUNNING, is not the one the group
leaves HOLDING with: it is dropped, unless slices of it are being coded (R166). -/
def Dev.linkStale (d : Dev) (c l i : Nat) : Bool :=
  d.chState l == 3 && d.chState c != 2 && !d.picIssued l i && (match (d.ch l).srcAt i with | some s => !s.late | none => false)

/-- Lines of picture `p` in place are copied into the leader's source picture `i`; the first block row settles its surface mode (R274,
R277).  A block that cannot be read stops the copy and aborts the decode channel (R275, R292). -/
def Dev.linkRows (d : Dev) (e : Env) (c : Nat) (p : DecPic) (l i : Nat) : Dev :=
  let from_ := match (d.ch l).srcAt i with | some s => s.lines | none => 0
  if d.linkBad l p || p.lines ≤ from_ then d
  else if d.unreadable e c p from_ p.lines then d.abortChannel e.now c
  else
    let mode := d.word (0x400240 + 0x1000 * l)
    let d := d.upSrc l i (fun s => { s with linkMode := some (s.linkMode.getD mode) })
    (d.copyLink e c p l i from_ p.lines).srcLines e.now l p.lines

/-- The link's part of the picture at the head of the output order: a source store is taken when one is free, the rows in place
are copied, and the source picture ends with the last of them (R84, R85).  A group that holds takes no picture of a decode channel that has
left RUNNING (R166). -/
def Dev.linkStep (d : Dev) (e : Env) (c : Nat) (p : DecPic) : Dev :=
  let drop_ (d : Dev) : Dev := d.upDpb c p.key (fun q => { q with linkWait := false })
  if !p.linkWait then d
  else match d.linkLeader c with
    | none => drop_ d
    | some l =>
      if d.chState l = 3 ∧ d.chState c ≠ 2 ∧ p.linkIdx.isNone then drop_ d
      else
      let d := match p.linkIdx with
        | some _ => d
        | none =>
          if (d.freeStore l).isNone then d
          else
            let i := (d.ch l).nextIdx
            let d := d.srcOpen l none
            let d := d.upSrc l i (fun s => { s with colour := p.info.colour, mastering := p.info.mastering, light := p.info.light })
            let d := if d.linkBad l p then d.markBad l i else d
            d.upDpb c p.key (fun q => { q with linkIdx := some i })
      match (d.decPic c p.key).bind (·.linkIdx) with
      | none => d
      | some i =>
        if d.linkStale c l i then drop_ ((d.dropPicture l i).srcDiscard l i)
        else
        let d := d.linkRows e c p l i
        if p.ready && (d.decPic c p.key).isSome then
          drop_ ((if d.linkBad l p then d.dateSrc e.now l else d.linkHist e l i).srcDone e.now l)
        else d

/-- The host's part of the picture at the head of the output order: it claims a store where it has none, its rows are copied as they commit,
and with the last of them it is handed over (R150, R274). A block that cannot be read stops the copy and aborts the channel (R275, R292).
How much is copied at once is DEDUCED (log entries 17 and 230). -/
def Dev.hostStep (d : Dev) (e : Env) (c : Nat) (p : DecPic) : Dev :=
  if !p.toOut || !(p.claimed || d.outFree c) then d
  else if d.unreadable e c p p.outLines p.lines then d.abortChannel e.now c
  else
    let d := (d.copyOut e c p p.outLines p.lines).upDpb c p.key (fun q => { q with claimed := true, outLines := p.lines })
    if p.ready then (d.handOver e c p).upDpb c p.key (fun q => { q with toOut := false, outLines := 0 }) else d

/-- The pictures released for output are output as far as stores allow, in output order; `n` bounds the number taken. -/
def Dev.outStep (e : Env) (c : Nat) : Nat → Dev → Dev
  | 0, d => d
  | n + 1, d =>
    match (d.dc c).outQ with
    | [] => d.trimDpb c
    | au :: rest =>
      match d.decPic c au with
      | none => Dev.outStep e c n (d.upDec c (fun x => { x with outQ := rest }))
      | some p =>
        let d := d.linkStep e c p
        let d := if (d.decPic c au).isSome then d.hostStep e c p else d
        match d.decPic c au with
        | none => d
        | some q =>
          if q.ready && !q.toOut && !q.linkWait then
            let d := d.upDec c (fun x => { x with outQ := rest })
            let d := if q.again = 0 then d else d.upDpb c au (fun q => { q with
              again := q.again - 1, toOut := d.bit (CHN_SINK.HOST.on c), linkWait := d.bit (CHN_SINK.SURFACE.on c), claimed := false
              linkIdx := none })
            Dev.outStep e c n d
          else d

/-- Every picture of a unit before `au` that is still to be output is released, in order of its count (R157, R51). -/
def Dev.flush (d : Dev) (c au : Nat) : Dev :=
  let x := d.dc c
  let todo := x.dpb.filter (fun p => p.idx < au && (p.toOut || p.linkWait) && !x.outQ.contains p.key)
  let sorted := todo.foldl (fun (l : List DecPic) p => l.takeWhile (fun q => q.poc ≤ p.poc) ++ p :: l.dropWhile (fun q => q.poc ≤ p.poc)) []
  d.upDec c (fun x => { x with outQ := x.outQ ++ sorted.map (·.key) })

/-! Damage (R155 to R158). -/

/-- What is held of units from `au` on is discarded: units, their entropy and reconstruct jobs, the jitter buffer (R157). -/
def Dev.dropUnits (d : Dev) (c au : Nat) : Dev :=
  let x := d.ch c
  let keep := x.dec.aus.filter (fun a => a.idx < au)
  let held := sumBy keep (fun a => if a.whole then 0 else a.pkts)
  let gone := x.pics.filter (fun p => p.idx ≥ au)
  let d := d.forEach gone (fun d p =>
    let l := d.jobs.filter (fun j => j.chn == c && j.pic == p.order)
    d.forEach l (fun d j => match j.engine with | some e => (d.dropJob j).pxeLose e | none => d.dropJob j))
  let d := d.forEach (List.range 32) (fun d e =>
    let y := d.en e
    let d := if y.running.any (fun j => j.chn == c && j.pic ≥ au) then d.eneLose e else d
    d.setEn e { y with
      queue := y.queue.filter (fun j => !(j.chn == c && j.pic ≥ au))
      running := if y.running.any (fun j => j.chn == c && j.pic ≥ au) then none else y.running
      inq := if y.running.any (fun j => j.chn == c && j.pic ≥ au) then 0 else y.inq
      outq := y.outq.filter (fun b => !(b.chn == c && b.pic ≥ au))
      suspended := y.suspended.filter (fun j => !(j.chn == c && j.pic ≥ au)) })
  let d := { d with unbound := d.unbound.filter (fun j => !(j.chn == c && j.pic ≥ au)) }
  let d := d.upCh c (fun x => { x with
    pics := x.pics.filter (fun p => p.idx < au)
    claims := x.claims.filter (fun e => e.pic < au)
    jbBufs := x.jbBufs.take held
    dec := { x.dec with jb := [], part := 0, partPkts := 0, aus := keep,
                        dpb := x.dec.dpb.filter (fun p => p.idx < au), outQ := x.dec.outQ.filter (·.1 < au) } })
  d.freeAll 0 (x.jbBufs.drop held)

/-- The stop takes effect when every unit before the damaged one is decoded and output (R157, R174).  Damage other than transport damage whose
header gave no order count reports that of the last picture decoded, with POC_VALID 0 (DESIGN CHOICE, log entry 209). -/
def Dev.settleStop (d : Dev) (now c : Nat) : Dev :=
  match (d.dc c).stop with
  | none => d
  | some s =>
    if !(d.dc c).aus.isEmpty || (d.dc c).dpb.any (fun p => p.toOut || p.linkWait) then d
    else
      let poc := match s.poc with | some p => p | none => (d.dc c).lastPoc
      let d := d.wr (CHN_DEC_DMG_POC.POC.on c) (toSigned 32 poc)
      let d := ((d.wr (CHN_DEC_DMG_POS.POC_VALID.on c) (ofBool s.poc.isSome)).wr (CHN_DEC_DMG_POS.FRAME_NUM.on c)
        (ofBool s.frameNum)).wr (CHN_DEC_DMG_POS.CTU.on c) s.ctu
      let d := (d.wr (CHN_DEC_DMG_AUX.AUX.on c) s.aux).wr (CHN_DEC_DMG_TIME.TIME.on c) now
      d.stopChannel now c s.code

/-- Output goes on, and with it a stop that waited for it. -/
def Dev.decodeStep (d : Dev) (e : Env) (c : Nat) : Dev :=
  let d := match (d.dc c).stop with
    | some s => if (d.dc c).aus.isEmpty then d.flush c s.au else d
    | none => if d.chState c = 4 ∧ (d.dc c).aus.isEmpty then d.flush c (d.dc c).nextAu else d
  (Dev.outStep e c 64 d).settleStop e.now c

/-- Damage in unit `s.au`: the first damaged unit in decode order is the one reported (R157, R158). -/
def Dev.damage (d : Dev) (e : Env) (c : Nat) (s : Stop) : Dev :=
  let first := match (d.dc c).stop with | some t => decide (s.au < t.au) | none => true
  if first then ((d.dropUnits c s.au).upDec c (fun x => { x with stop := some s })).decodeStep e c else d

/-- The codes of R155. -/
def damageCode : DamageKind → Nat
  | .syntax_ => 1
  | .range => 2
  | .unsupported => 3
  | .noParam => 6

/-- Damage met by the entropy decoder or a reconstruct job in unit `au`. -/
def Dev.damageOf (d : Dev) (e : Env) (c au : Nat) (x : Damage) : Dev :=
  d.damage e c { au := au, code := damageCode x.kind, aux := x.aux, ctu := x.ctu % 2 ^ 20, frameNum := false, poc := x.poc }

/-- Transport damage in the unit being received: the order count of the last picture decoded, not its own (R156). -/
def Dev.transportDamage (d : Dev) (e : Env) (c code aux : Nat) : Dev :=
  d.damage e c { au := (d.dc c).nextAu, code := code, aux := aux, ctu := 0xFFFFF, frameNum := false, poc := none }

/-- A decode channel goes on where its leader freed a source store (R85). -/
def Dev.resumeLink (d : Dev) (e : Env) (l : Nat) : Dev :=
  match (d.ch l).held with
  | .decode c => if d.chActive c then d.decodeStep e c else d
  | _ => d

/-! Access units. -/

/-- The bytes of the syntax ring, and those a unit of `n` bytes claims (R188). -/
def Dev.ringSize (d : Dev) (c : Nat) : Nat := (d.ch c).synChunks * 262144
def Dev.unitClaim (d : Dev) (c n : Nat) : Nat := 2 * n + 48 * d.units c + 65536

/-- The claim of a unit exceeds the whole ring: damage CPB_OVERRUN (R188), which the engine reports when it has read the unit's order count
(R156; log entry 179). -/
def Dev.unitOver (d : Dev) (c n : Nat) : Bool := decide (d.unitClaim c n > d.ringSize c)

/-- Units whose ring claim fits get it, in order, and with it their entropy job (R185, R188, R238). -/
def Dev.queueUnits (d : Dev) (c : Nat) : Dev :=
  d.forEach (d.dc c).aus (fun d a =>
    let n := d.unitClaim c a.bytes
    if a.queued || (d.dc c).aus.any (fun b => b.idx < a.idx && !b.queued) || !(d.unitOver c a.bytes || d.ringFits c n) then d
    else
      let d := if d.unitOver c a.bytes then d else d.claim c a.idx 0 n
      let d := d.upDec c (fun x => { x with aus := x.aus.map (fun b => if b.idx = a.idx then { b with queued := true } else b) })
      d.addEntropy (newEntropy c a.idx 0 (d.isLive c) (a.readyAt + (if d.isLive c then d.period c else 2 * d.period c)) false true))

/-- The units' sizes kept for the rate check (R153), with one more: those from 7 before the oldest unit still to be decoded on. -/
def Dec.sizes (x : Dec) (idx bytes : Nat) : List (Nat × Nat) :=
  let old := match x.aus.find? (fun a => !a.whole) with | some a => a.idx | none => idx
  ((idx, bytes) :: x.recent).filter (fun r => old ≤ r.1 + 7)

/-- The unit being received is complete: it is released to entropy decoding (R149), where no damage found before stops it (R157). -/
def Dev.releaseUnit (d : Dev) (c ts : Nat) : Dev :=
  let x := d.dc c
  if x.stop.isSome || !d.chActive c then d
  else
    let a : Au := { idx := x.nextAu, ts := ts, bytes := x.part, pkts := x.partPkts, readyAt := x.partDone, gapBefore := x.gapNext
                    queued := false, frames := 0, syn := 0, whole := false }
    let d := (d.latch (pageCHN c)).takeGen c
    (d.upDec c (fun x => { x with
      recent := x.sizes a.idx a.bytes, aus := x.aus ++ [a], nextAu := x.nextAu + 1, part := 0, partPkts := 0, gapNext := false })).queueUnits c

/-- The MPEG-TS packets of one datagram, in order (R148, R149). -/
def Dev.tsFeed (d : Dev) (e : Env) (c : Nat) (l : List TsPkt) : Dev :=
  let pid := d.rd (CHN_DEC_TS.PID.on c)
  d.forEach (l.filter (fun t => t.pid == pid)) (fun d t =>
    let x := d.dc c
    if x.stop.isSome then d
    else if t.err || (match x.tsCc with | some k => t.cc != (k + ofBool t.counts) % 16 | none => false) then
      d.transportDamage e c 0x09 (x.tsCount % 2 ^ 32)
    else
      let d := d.upDec c (fun x => { x with tsCc := some t.cc, tsCount := x.tsCount + 1 })
      let d := if t.start && (d.dc c).part != 0 then d.releaseUnit c (d.dc c).tsTs else d
      let d := d.upDec c (fun x => { x with
        part := x.part + (if t.start || x.tsOn then t.bytes else 0), tsTs := if t.start then t.pts else x.tsTs
        tsOn := t.start || x.tsOn, tsLeft := (if t.start then t.total else x.tsLeft).map (· - t.bytes) })
      if (d.dc c).part != 0 && (d.dc c).tsLeft == some 0 then
        (d.releaseUnit c (d.dc c).tsTs).upDec c (fun x => { x with tsOn := false })
      else d)

/-- One packet in sequence joins the unit being received (R149). -/
def Dev.takePacket (d : Dev) (e : Env) (c : Nat) (p : JbPkt) : Dev :=
  let d := d.upDec c (fun x => { x with
    nextSeq := some (p.seq + 1), lastTs := p.ts, lastMarker := p.marker, partPkts := x.partPkts + 1
    partDone := max x.partDone p.arrival, partAt := if x.partPkts = 0 then p.arrival else x.partAt, partWait := if x.partPkts = 0 then p.wait else x.partWait })
  if d.rd (CHN_DEC_CFG.XPORT.on c) = 2 then d.tsFeed e c ((tsPackets p.payload).getD [])
  else match unpackRtp (d.codec c) (d.dc c).frag p.payload with
    | none => d.transportDamage e c 0x0B (p.seq % 65536)
    | some (n, frag) =>
      if p.marker && frag then d.transportDamage e c 0x0B (p.seq % 65536)
      else
        let d := d.upDec c (fun x => { x with part := x.part + n, frag := frag })
        if p.marker then d.releaseUnit c p.ts else d

/-- Packets of a unit whose first one did not arrive since OPEN are discarded (R149). -/
def Dev.dropBelow (d : Dev) (c n : Nat) : Dev :=
  let gone := ((d.dc c).jb.filter (fun q => q.seq < n)).length
  let d := (d.upDec c (fun x => { x with jb := x.jb.filter (fun q => q.seq ≥ n), nextSeq := some n })).freePkts c gone
  (d.count (CHN_DEC_PKT_DISC.COUNT.on c) gone).sinkDiscs 8 gone

/-- Units are assembled from the first packet of a unit on, or after a marker: none has begun since OPEN (R149, DEDUCED from the
worked example, log entry 85). -/
def Dev.findFirst (d : Dev) (c : Nat) (first marker : Bool) (seq ts : Nat) : Dev :=
  if (d.dc c).nextSeq.isSome || d.rd (CHN_DEC_CFG.XPORT.on c) != 0 then d
  else if first then d.dropBelow c seq
  else if marker then (d.dropBelow c (seq + 1)).upDec c (fun x => { x with lastMarker := true, lastTs := ts })
  else d

/-- Packets in sequence leave the jitter buffer; `n` bounds their number. -/
def Dev.jbAdvance (e : Env) (c : Nat) : Nat → Dev → Dev
  | 0, d => d
  | n + 1, d =>
    match (d.dc c).jb with
    | [] => d
    | p :: r =>
      if (d.dc c).stop.isSome then d
      else if (match (d.dc c).nextSeq with | some q => p.seq == q | none => d.rd (CHN_DEC_CFG.XPORT.on c) == 2) then
        Dev.jbAdvance e c n ((d.upDec c (fun x => { x with jb := r })).takePacket e c p)
      else d

/-- The wait in front of the buffer's first packet is a boundary gap: the packet released last had the marker, and this one has another
time stamp (R149). -/
def Dec.boundary (x : Dec) (p : JbPkt) : Bool := x.partPkts == 0 && x.lastMarker && p.ts != x.lastTs

/-- A boundary gap is accepted: the unit behind it is next (R149). -/
def Dev.acceptGap (d : Dev) (c seq : Nat) : Dev :=
  (d.wr (CHN_DEC_STS.GAP.on c) 1).upDec c (fun x => { x with nextSeq := some seq, gapNext := true })

/-- A drain: the units that the jitter buffer holds complete are released, the others discarded with their buffers; `n` bounds their
number (R51). -/
def Dev.drainJb (e : Env) (c : Nat) : Nat → Dev → Dev
  | 0, d => d
  | n + 1, d =>
    let d := Dev.jbAdvance e c ((d.dc c).jb.length) d
    let x := d.dc c
    let part (d : Dev) (k : Nat) (jb : List JbPkt) : Dev := (d.freePkts c (x.partPkts + k)).upDec c (fun x => { x with jb := jb, part := 0, partPkts := 0, frag := false })
    match x.jb with
    | [] => part d 0 []
    | p :: _ =>
      if x.stop.isSome then d
      else if d.rd (CHN_DEC_CFG.XPORT.on c) != 0 || x.nextSeq.isNone then part d x.jb.length []
      else if x.boundary p && x.jb.any (·.marker) then Dev.drainJb e c n (d.acceptGap c p.seq)
      else
        let rest := (x.jb.dropWhile (fun q => !q.marker)).drop 1
        let d := part d (x.jb.length - rest.length) rest
        let last := (x.jb.find? (·.marker)).getD p
        Dev.drainJb e c n (d.upDec c (fun y => { y with nextSeq := some (last.seq + 1), lastMarker := true, lastTs := last.ts }))

/-- A packet put in its place by sequence number. -/
def insertPkt (p : JbPkt) : List JbPkt → List JbPkt
  | [] => [p]
  | q :: r => if p.seq < q.seq then p :: q :: r else q :: insertPkt p r

/-- PKT buffers a decode channel holds: packets waiting and packets of units not yet decoded. -/
def Dev.jbHeld (d : Dev) (c : Nat) : Nat := (d.ch c).jbBufs.length

/-- A PKT buffer for a packet of a decode channel; none where the pool refuses it: NO_BUFFER (R53, R365). -/
def Dev.jbAlloc (d : Dev) (now c : Nat) : Dev × Bool :=
  let g := d.rd (BPM_MAP.PKT.bk c)
  let r := d.alloc 0 g
  if r.1 = 0 then (r.2.2.upCh c (fun x => { x with jbBufs := x.jbBufs ++ [(g, r.2.1)] }), true)
  else (r.2.2.stopChannel now c 0x40, false)

end Sys2Proof.Machine
end

