-- ==== Sys2Proof/Machine/JobOps.lean ====
section
/-!
DEFINITION. Operations on pixel jobs: readiness (R236), what a commit of each stage does (R87, R93, R138, R243, R273), and what a
job fault does (R216, R244 to R247, R292).
-/

namespace Sys2Proof.Machine

/-- The source index a job's picture has: analysis jobs carry it, the others carry the picture's order. -/
def Dev.jobPic (d : Dev) (j : Job) : Nat :=
  if j.stage = 0 then j.pic else match (d.ch j.chn).pic j.pic with | some p => p.idx | none => 0

/-! Reference stores (R93, R94, R544). -/

/-- Orders whose reference stores are held: the newest NREF references, and what the pictures in progress write and refer to. -/
def Dev.storesHeld (d : Dev) (c : Nat) : List Nat :=
  let x := d.ch c
  x.refs.take (d.rd (CHN_ENC_REFS.NREF.on c)) ++ x.pics.flatMap (fun p => p.order :: p.refs)

def Dev.reconStores (d : Dev) (c : Nat) : Nat := ((d.storePlan c).getD 3 (0, 0)).1

/-- The lowest reference store that no held picture has. -/
def Dev.freeRecon (d : Dev) (c : Nat) : Option Nat :=
  let held := d.storesHeld c
  (List.range (d.reconStores c)).find? (fun k => !(d.ch c).stores.any (fun e => e.2 == k && held.contains e.1))

def Dev.storeOf (d : Dev) (c o : Nat) : Option Nat := lookupNat (d.ch c).stores o

/-- The picture of order `o` takes a store where it has none. -/
def Dev.takeStore (d : Dev) (c o : Nat) : Dev :=
  if (d.storeOf c o).isSome then d
  else match d.freeRecon c with
    | some k =>
      -- hold pictures that repeat the picture are where it is
      let same := (d.ch c).pics.foldl (fun l p => if p.ptype = 3 && p.refs.any l.contains then p.order :: l else l) [o]
      d.upCh c (fun x => { x with stores := same.map (·, k) ++ x.stores.filter (fun e => (d.storesHeld c).contains e.1) })
    | none => d

/-- The scaled source store a picture's scale jobs write (R115): its own, else one that no picture with an encode job to come has. -/
def Dev.scaledStore (d : Dev) (c o : Nat) : Option Nat :=
  let x := d.ch c
  let busy (e : Nat × Nat) : Bool := x.pics.any (fun p => p.order == e.1 && !p.slices.all (·.encoded))
  (lookupNat x.scaled o).or ((List.range 2).find? (fun k => !x.scaled.any (fun e => e.2 == k && busy e)))

def Dev.takeScaled (d : Dev) (c o : Nat) : Dev :=
  match d.scaledStore c o with
  | some k => d.upCh c (fun x => { x with scaled := (o, k) :: x.scaled.filter (fun e => e.2 != k) })
  | none => d

/-! Readiness (R236). -/

/-- Picture of order `o` is complete in the CTU rows in lines `lo` to `hi`: the encode and seam jobs that touch those rows have committed; a
hold picture is complete where its own reference is (R89, R160). -/
def Dev.refComplete (d : Dev) (c lo hi : Nat) : Nat → Nat → Bool
  | 0, _ => true
  | f + 1, o =>
    match (d.ch c).pic o with
    | none => true
    | some p =>
      if p.ptype = 3 then p.refs.all (d.refComplete c lo hi f)
      else p.slices.all (fun s =>
        let from_ := d.lineFrom c s.idx
        !(from_ < hi && lo < d.lineTo c s.idx)
          || (s.encoded && (s.seamed || lo ≥ from_ + d.ctu c)
              && (hi ≤ (d.rowTo c s.idx - 1) * d.ctu c || (match p.slice (s.idx + 1) with | some t => t.seamed | none => true))))

/-- Bytes of the syntax ring an encode job claims (R188). -/
def Dev.encodeClaim (d : Dev) (c s h : Nat) : Nat :=
  2 * h + 48 * (cdiv (d.width c) 64 * cdiv (d.lineTo c s - d.lineFrom c s) 64) + 1024

/-- Every earlier picture of the channel has ended its rate control, so that this one's may begin: B_start is the occupancy that they leave
(R120; DEDUCED, log entry 173: the spec does not say what B_start is while an earlier picture is still coded). -/
def Dev.rcTurn (d : Dev) (c : Nat) (p : Pic) : Bool := p.rcStarted || (d.ch c).pics.all (fun q => q.order ≥ p.order || q.rcDone)

/-- An encode job may be issued: references, ring claim, a store, its picture's turn in rate control. -/
def Dev.encodeReady (d : Dev) (j : Job) (overhead : Nat) : Bool :=
  let d := d.decide_ j.chn j.pic
  match (d.ch j.chn).pic j.pic with
  | none => false
  | some p =>
    let lo := d.lineFrom j.chn j.slice - 96
    let hi := d.lineTo j.chn j.slice + 96
    let fits := match (d.ch j.chn).claims.find? (fun e => e.pic == j.pic && e.slice == j.slice) with
      | some _ => true
      | none =>
        let r := d.beginPic j.chn p overhead
        let (d, q) := r
        d.ringFits j.chn (d.encodeClaim j.chn j.slice (d.sliceFigures j.chn q j.slice).2)
    p.refs.all (d.refComplete j.chn lo hi 8) && d.rcTurn j.chn p && fits
      && ((d.storeOf j.chn j.pic).isSome || (d.freeRecon j.chn).isSome)

/-- A reconstruct job may be issued: its references are complete, a frame store is free, and a host output store where the
picture is next in output order (R150). -/
def Dev.reconReady (d : Dev) (j : Job) : Bool :=
  match ((d.ch j.chn).pic j.pic).bind (d.decOf j.chn) with
  | none => false
  | some q =>
    let held := (d.dc j.chn).dpb.filter (fun p => p.store.isSome)
    q.info.refs.all (fun r => (d.dc j.chn).dpb.all (fun p => p.poc != r.1 || !p.before q || p.ready))
      && (q.store.isSome || (held.length < d.rd (CHN_DEC_LIMITS.REFS.on j.chn) + 1
        && (!d.outNext j.chn q.key || d.outFree j.chn)))

/-- A source picture that is being stored while its group holds: none of its jobs is issued (R166). -/
def Dev.heldBack (d : Dev) (j : Job) : Bool :=
  let l := d.leaderOf j.chn
  j.stage != 4 && d.chState l == 3 && (match (d.ch l).srcAt (d.jobPic j) with | some p => p.doneAt.isNone | none => false)

/-- The job's inputs, stores, references, ring claim and channel limit allow it (R115, R166, R236, items 1 to 4). -/
def Dev.jobAllowed (d : Dev) (j : Job) (overhead : Nat) : Bool :=
  let limit := if d.isDecode j.chn then 8 else d.par j.chn
  j.engine.isNone && d.chActive j.chn && d.inFlight j.chn < limit && !d.heldBack j
    && (match j.stage with | 1 => (d.scaledStore j.chn j.pic).isSome | 2 => d.encodeReady j overhead | 4 => d.reconReady j | _ => true)

/-- Some engine in service holds the generation (R236, item 5). -/
def Dev.genHeld (d : Dev) (g : Nat) : Bool := (List.range 128).any (fun e => d.pxeInService e && (d.bankOf e g).isSome)

/-- Jobs that meet all five conditions for the first time note the order in which they became ready; several that do so at one moment go in the
order in which they entered the table (R236, R242; DESIGN CHOICE, log entry 183). -/
def Dev.noteReady (d : Dev) (overhead : Nat) : Dev :=
  d.forEach (d.jobs.filter (fun j => j.ready.isNone && d.jobAllowed j overhead && d.genHeld j.gen)) (fun d j =>
    { d with wdp := { d.wdp with
        jobs := d.wdp.jobs.map (fun k => if k.same j then { k with ready := some d.wdp.seq } else k), seq := d.wdp.seq + 1 } })

/-! Surfaces the jobs write. -/

def Dev.encSurf (d : Dev) (c o : Nat) : Surf :=
  d.reconSurf c ((d.storeOf c o).getD 0) (d.width c) (d.height c) (d.tenBit c) (d.c422 c)

/-- The blocks a job wrote of one kind of surface become visible (R243, R274); the answer counts OVER blocks. -/
def Dev.writeCham (d : Dev) (f : Surf) (lossy : Option (Nat × Nat)) (kind : Surface) (l : List ChamWrite) : Dev × Nat :=
  (l.filter (fun b => b.surface == kind)).foldl (fun t b =>
    let r := t.1.putBlock f lossy b.chroma b.bx b.byy b.samples
    (r.1, t.2 + ofBool r.2)) (d, 0)

/-- CHN_SURF_REF_FILL at the completion of a reference picture (R282). -/
def Dev.refFill (d : Dev) (e : Env) (c : Nat) (f : Surf) : Dev :=
  d.wr (CHN_SURF_REF_FILL.PERMILLE.on c) (fillOf f.ten ((e.seen d).heads f))

/-! Commits, stage by stage (R243). -/

/-- The analysis of a source picture is complete (R87, R98, R273).  The group has one analysis; SCENE and CHN_ENC_SCENE_CNT show its result on
the leader's page only (DESIGN CHOICE, log entry 163: R117 says nothing of the members' pages). -/
def Dev.analysed (d : Dev) (e : Env) (l : Nat) (p : SrcPic) : Dev :=
  let scene := decide (p.intraWins * 100 ≥ p.blocks * 60 ∧ p.blocks ≠ 0)
  let d := d.wr (CHN_ENC_STS.SCENE.on l) (ofBool scene)
  let d := if scene then d.count (CHN_ENC_SCENE_CNT.COUNT.on l) 1 else d
  let f := d.analysisSurf l p.idx
  let d := if (lossyOf f.ten p.mode true).isNone then d
    else
      let h := histOf ((e.seen d).heads f)
      (d.wr (CHN_SURF_HSTS.ANA_PIC.on l) p.idx).forEach (List.range 7) (fun d k => d.wr ((CHN_SURF_HANA.BLOCKS k).on l) (h.getD k 0))
  if scene && !d.isLive l && d.bit (CHN_ENC_GOP.SCENE_IRAP.on l) then d.sceneRap l p.idx else d

/-- An analysis job commits (R86, R87): its rows of the analysis picture, what it found for its blocks, the complexity of the rows. -/
def Dev.commitAnalysis (d : Dev) (e : Env) (j : Job) (r : JobResult) : Dev :=
  match (d.ch j.chn).srcAt j.pic with
  | none => d
  | some p =>
    let l := j.chn
    let src := d.sourceOf l
    let f := d.analysisSurf l j.pic
    let rows := blockRows (d.srcFrom l j.slice / 2) (d.srcTo l j.slice / 2) (d.height src / 2) f.geo.rowsY 4
    let w := d.putRows f (lossyOf f.ten p.mode true) false (d.width src / 2) (d.height src / 2) rows (d.decimated (e.seen d) l p)
    let d := w.1.count (CHN_SURF_OVER_CNT.COUNT.on l) w.2
    let add (m : List (Nat × Nat)) (b : BlockCost) : List (Nat × Nat) :=
      let row := d.blockRow l b.byy
      let v := min b.inter b.intra
      match lookupNat m row with
      | some old => m.map (fun e => if e.1 = row then (e.1, old + v) else e)
      | none => m ++ [(row, v)]
    let n := max 1 ((d.storePlan l).getD 1 (0, 0)).1
    let d := d.upCh l (fun x => { x with anaPics := j.pic :: x.anaPics.filter (fun i => i % n != j.pic % n) })
    let d := d.upSrc l j.pic (fun p => { p with
      anaDone := p.anaDone ++ [j.slice], rowCost := r.blocks.foldl add p.rowCost, vecs := p.vecs ++ r.blocks
      intraWins := p.intraWins + (r.blocks.filter (fun b => b.intra < b.inter)).length, blocks := p.blocks + r.blocks.length })
    match (d.ch l).srcAt j.pic with
    | some p => (if p.anaDone.length ≥ d.nSlices l then d.analysed e l p else d).srcFree l j.pic
    | none => d

/-- A scale job commits (R95): the channel's own source rows of its slice. -/
def Dev.commitScale (d : Dev) (e : Env) (j : Job) : Dev :=
  let c := j.chn
  let d := match ((d.ch c).pic j.pic).bind (fun p => (d.ch (d.leaderOf c)).srcAt p.idx) with
    | none => d
    | some p =>
      let f := d.scaledSurf c j.pic
      let lo := d.lineFrom c j.slice
      let hi := d.lineTo c j.slice
      let h := d.height c
      let g := d.scaledSample (e.seen d) c j.filter p
      let d' := (d.putRows f none false (d.width c) h (blockRows lo hi h f.geo.rowsY 4) (g false)).1
      (d'.putRows f none true (d.width c) (chromaLines h (d.c422 c)) (blockRows lo hi h f.geo.rowsC (if d.c422 c then 4 else 8)) (g true)).1
  d.upSlice c j.pic j.slice (fun s => { s with scaled := true })

/-- Seam jobs of the boundaries whose neighbours are both encoded (R93, R238). -/
def Dev.addSeams (d : Dev) (c : Nat) (p : Pic) : Dev :=
  d.forEach p.slices (fun d s =>
    if s.idx != 0 && s.encoded && !s.seamed && (match p.slice (s.idx - 1) with | some t => t.encoded | none => false)
    then d.addJob (d.mkJob c 3 p.order s.idx s.deadline p.gen 0) else d)

/-- The rate control of a picture ends with its last encode job, which commits the picture (R120, R136; DEDUCED, log entry 174); a scene
change in a live channel replaces M_P (R135), where its FIT is not 0, by a fit of at most 32 bits (DESIGN CHOICE, log entry 175). -/
def Dev.endRc (d : Dev) (e : Env) (c o : Nat) : Dev :=
  match (d.ch c).pic o with
  | none => d
  | some p =>
    if p.rcDone || !p.slices.all (·.encoded) then d
    else
      let r := d.rcCommit e.now c p (sumBy p.slices (·.bytes))
      let d := (r.1.upPic c o (fun _ => r.2)).picStatus c p
      let fit := sumBy p.slices (·.fit)
      let scene := match (d.ch (d.leaderOf c)).srcAt p.idx with
        | some s => decide (s.intraWins * 100 ≥ s.blocks * 60 ∧ s.blocks ≠ 0 ∧ s.anaDone.length ≥ d.nSlices (d.leaderOf c))
        | none => false
      if d.isLive c && scene && fit != 0 then
        d.upCh c (fun x => { x with rc := { x.rc with sceneFit := some (min (2 ^ 32 - 1) (sumBy p.slices (·.fitBytes) * 2 ^ 32 / fit)) } })
      else d

/-- A reference picture whose last encode or seam job has committed (R282). -/
def Dev.refDone (d : Dev) (e : Env) (c o : Nat) : Dev :=
  match (d.ch c).pic o with
  | some p => if p.ptype != 3 && p.isRef && p.slices.all (fun s => s.encoded && s.seamed) then d.refFill e c (d.encSurf c o) else d
  | none => d

def Dev.commitEncode (d : Dev) (e : Env) (j : Job) (r : JobResult) : Dev :=
  match ((d.ch j.chn).pic j.pic).bind (·.slice j.slice) with
  | none => d
  | some s =>
    let c := j.chn
    let d := (d.writeCham (d.encSurf c j.pic) none .recon r.cham).1
    let starved := s.rowQ.filterMap (fun q => if q.2.2 != 0 || d.rowRecoded c s r q.1 then some q.1 else none)
    let p := (d.ch c).pic j.pic
    let cx (row : Nat) : Nat := match p with | some p => d.rowCx c p row | none => 0
    let good := s.rowQ.filter (fun q => !starved.contains q.1)
    let made := s.entropyMade
    let d := d.upSlice c j.pic j.slice (fun s => { s with
      encoded := true, bytes := r.ctuBytes.sum, produced := r.ctuBytes.sum, starved := starved, entropyMade := true, filter := r.filter
      written := r.syntaxBytes, reached := r.syntaxBytes
      rowQ := s.rowQ.map (fun q => (q.1, q.2.1, if d.rowRecoded c s r q.1 then 2 else q.2.2))
      fit := sumBy good (fun q => fitOf (d.qk c) (cx q.1) q.2.1), fitBytes := sumBy good (fun q => d.rowBytes c s.idx r q.1) })
    let d := d.shrink c j.pic j.slice r.syntaxBytes
    let d := if made then d else d.addEntropy (newEntropy c j.pic j.slice (d.isLive c) s.deadline false false)
    let d := d.endRc e c j.pic
    let d := match (d.ch c).pic j.pic with | some p => d.addSeams c p | none => d
    let d := match (d.ch c).pic j.pic with | some p => d.srcFree (d.leaderOf c) p.idx | none => d
    d.refDone e c j.pic

def Dev.commitSeam (d : Dev) (e : Env) (j : Job) (r : JobResult) : Dev :=
  let d := (d.writeCham (d.encSurf j.chn j.pic) none .recon r.cham).1
  (d.upSlice j.chn j.pic j.slice (fun s => { s with seamed := true })).refDone e j.chn j.pic

/-- A unit whose syntax is committed and whose frames are all decoded leaves the channel, and its ring claim with it (R188). -/
def Dev.unitDone (d : Dev) (c au : Nat) : Dev :=
  if (d.dc c).aus.any (fun a => a.idx == au && a.whole) && !(d.ch c).pics.any (fun p => p.idx == au) then
    (d.upDec c (fun x => { x with aus := x.aus.filter (fun a => a.idx != au) })).unclaim c (fun k => k.pic == au)
  else d

/-- A decoded picture is complete: it counts, can be referred to, and a wait for random access ends with it (R154). -/
def Dev.decodeDone (d : Dev) (e : Env) (c : Nat) (p : Pic) (q : DecPic) : Dev :=
  let f := d.reconSurf c (q.store.getD 0) q.info.width q.info.height q.info.tenBit q.info.c422
  let d := (if q.info.isRef then d.refFill e c f else d).count (CHN_CNT_PIC.COUNT.on c) 1
  let d := if q.info.rap then
      ((d.wr (CHN_DEC_STS.WAIT_RAP.on c) 0).wr (CHN_DEC_STS.STREAM.on c) 1).wr (CHN_DEC_STS.RESYNC.on c) 0 else d
  let d := d.upDpb c q.key (fun q => { q with ready := true, lines := q.info.height })
  let d := d.upCh c (fun x => { x with pics := x.pics.filter (fun r => r.order != p.order), dec := { x.dec with lastPoc := q.poc } })
  d.unitDone c q.idx

/-- Lines in place from the top of a picture whose segments commit in any order: those whole with the segments before the first one not
committed (R243). -/
def linesOf (p : Pic) (height : Nat) : Nat := min height ((p.slices.takeWhile (·.done)).foldl (fun n s => max n s.rows) 0)

/-- All syntax of a frame is committed: its unit's entropy job ended, or went on to the next frame (R185). -/
def Dev.frameWhole (d : Dev) (c : Nat) (q : DecPic) : Bool :=
  (d.dc c).aus.any (fun a => a.idx == q.idx && (a.whole || q.frame + 1 < a.frames))

def Dev.commitRecon (d : Dev) (e : Env) (j : Job) (r : JobResult) : Dev :=
  let c := j.chn
  match (d.ch c).pic j.pic, ((d.ch c).pic j.pic).bind (·.slice j.slice) with
  | some p, some s =>
    match d.decOf c p with
    | none => d
    | some q =>
      let f := d.reconSurf c (q.store.getD 0) q.info.width q.info.height q.info.tenBit q.info.c422
      let d := (d.writeCham f none .recon r.cham).1
      let l := d.lateness e.now c s
      let s := { l.2 with done := true, encoded := true }
      let d := (l.1.upSlice c j.pic j.slice (fun _ => s)).flagWord (statusWord c p.idx s true) s
      let d := match (d.ch c).pic j.pic with
        | some p =>
          if p.slices.all (·.done) && d.frameWhole c q then d.decodeDone e c p q
          else d.upDpb c q.key (fun q => { q with lines := max q.lines (linesOf p q.info.height) })
        | none => d
      ((d.releaseChunks c p.idx).queueUnits c).decodeStep e c
  | _, _ => d

/-! Faults (R216, R232, R244, R246, R247). -/

/-- Discard a job and abort its channel (R246, R247, R292). -/
def Dev.abandon (d : Dev) (now : Nat) (j : Job) : Dev := (d.dropJob j).abortChannel now j.chn

/-- The slice of a job that has failed: the leader's for analysis, else its own (R244). -/
def Dev.jobSlice (d : Dev) (j : Job) : Option Nat :=
  if j.stage = 0 then ((d.ch j.chn).picAt j.pic).map (·.order) else some j.pic

/-- The faulted job is made ready again, excluding the engine, or abandoned (R244, R246). -/
def Dev.retryJob (d : Dev) (now e : Nat) (j : Job) : Dev :=
  let k := { j with engine := none, attempts := j.attempts + 1, excluded := j.excluded ++ [e], reissue := some d.wdp.seq }
  let d := { d with wdp := { d.wdp with seq := d.wdp.seq + 1 } }
  let d := match d.jobSlice j with
    | some o => d.upSlice j.chn o j.slice (fun s =>
        if j.stage = 2 then { s with tries := s.tries + 1, produced := 0, written := 0 } else { s with tries := s.tries + 1 })
    | none => d
  if k.attempts ≥ max 1 (d.rd WDP_CTL.MAX_TRY) then
    let d := (((d.flag WDP_FLT.JOB_ABANDON).event WDP_EVT.ABANDON).count WDP_CNT_ABANDONED.COUNT 1)
    let s := ((d.jobSlice j).bind (fun o => ((d.ch j.chn).pic o).bind (·.slice j.slice))).getD (newSlice j.slice false)
    let s := { s with abandoned := true }
    let d := d.wr WDP_LAST_FLAG.WORD (statusWord j.chn (d.jobPic j) s (j.stage == 4))
    d.abandon now j
  else
    let d := match d.jobSlice j with | some o => d.markReissued j.chn o j.slice | none => d
    d.setJobs (d.jobs.map (fun x => if x.same j then k else x))

/-- The FLT_STS bit of a pixel-engine fault kind. -/
def pxeFlt : Nat → Option Field
  | 0 => none
  | 1 => some PXE_FLT.SRAM_UE
  | 2 => some PXE_FLT.UC_ILL
  | 3 => some PXE_FLT.JOB_TIMEOUT
  | 4 => some PXE_FLT.HBM_POISON
  | 5 => some PXE_FLT.ARB_WDOG
  | 6 => some PXE_FLT.DP_PAR
  | _ => some PXE_FLT.UC_DIGEST

/-- A fault on a pixel engine (R216): it ends the job in progress, fails a self-test in progress, and quarantines an engine in service but
for poisoned data. Kind 0 is a loss of lock. The 24 hours of R219 are device time (DEDUCED, log entry 217). -/
def Dev.pxeFault (d : Dev) (now e kind : Nat) (ctu cycles : Option Nat) : Dev :=
  let d := match pxeFlt kind with | some f => d.flag (f.on e) | none => d
  let d := d.event (PXE_EVT.FAULT.on e)
  if (d.px e).op = .selftest then d.upPx e (fun x => { x with stFault := true })
  else
    let quar (d : Dev) : Dev := if kind != 4 && d.pxeService e == 1 then (d.quarantine e).noteFault now e else d
    match d.jobOn e with
    | none => quar d
    | some j =>
      let d := d.count (PXE_CNT_FAULTS.COUNT.on e) 1
      let d := if (d.px e).infoFree then
          let t := match ctu with | some n => (n, d) | none => d.freeVal 16
          let ctu := t.1
          let d := t.2.upPx e (fun x => { x with infoFree := false })
          (((((d.wr (PXE_FLT_INFO.VALID.on e) 1).wr (PXE_FLT_INFO.KIND.on e) kind).wr (PXE_FLT_INFO.CHN.on e) j.chn).wr
            (PXE_FLT_INFO.STAGE.on e) j.stage).wr (PXE_FLT_INFO.CTU.on e) ctu)
        else d
      let d := if kind = 4 then d.abandon now j else d.retryJob now e j
      ((quar d).pxeSpent e cycles).pxeFree e

end Sys2Proof.Machine
end

