-- ==== Sys2Proof/Machine/NetOps.lean ====
section
/-!
DEFINITION. Shared operations of the network path: the state of its blocks, big-endian fields, back-pressure towards the link
partner (R354), the injection input, and the flushing of a downed port (R356).
-/

namespace Sys2Proof.Machine

def Dev.upNet (d : Dev) (f : Net → Net) : Dev := { d with net := f d.net }

def Dev.eth (d : Dev) (p : Nat) : Eth := storeGet (fun _ => Eth.reset) d.net.eths p
def Dev.upEth (d : Dev) (p : Nat) (f : Eth → Eth) : Dev :=
  d.upNet (fun n => { n with eths := storeSet (fun _ => Eth.reset) n.eths p (f (d.eth p)) })
def Dev.swIn (d : Dev) (i : Nat) : SwIn := storeGet (fun _ => SwIn.reset) d.net.ins i
def Dev.upIn (d : Dev) (i : Nat) (f : SwIn → SwIn) : Dev :=
  d.upNet (fun n => { n with ins := storeSet (fun _ => SwIn.reset) n.ins i (f (d.swIn i)) })
def Dev.swOut (d : Dev) (o : Nat) : SwOut := storeGet (fun _ => SwOut.reset) d.net.outs o
def Dev.upOut (d : Dev) (o : Nat) (f : SwOut → SwOut) : Dev :=
  d.upNet (fun n => { n with outs := storeSet (fun _ => SwOut.reset) n.outs o (f (d.swOut o)) })
def Dev.replAt (d : Dev) (i : Nat) : Repl := storeGet (fun _ => Repl.reset) d.net.repl i
def Dev.upRepl (d : Dev) (i : Nat) (f : Repl → Repl) : Dev :=
  d.upNet (fun n => { n with repl := storeSet (fun _ => Repl.reset) n.repl i (f (d.replAt i)) })
def Dev.replList (d : Dev) (c p : Nat) : List Nat := storeGet (fun _ => []) d.net.lists (8 * c + p)
def Dev.setReplList (d : Dev) (c p : Nat) (l : List Nat) : Dev :=
  d.upNet (fun n => { n with lists := storeSet (fun _ => []) n.lists (8 * c + p) l })
def Dev.egsQ (d : Dev) (q : Nat) : EgsQ := storeGet (fun _ => EgsQ.reset) d.net.queues q
def Dev.upQ (d : Dev) (q : Nat) (f : EgsQ → EgsQ) : Dev :=
  d.upNet (fun n => { n with queues := storeSet (fun _ => EgsQ.reset) n.queues q (f (d.egsQ q)) })
def Dev.egsPort (d : Dev) (p : Nat) : EgsPort := storeGet (fun _ => EgsPort.reset) d.net.ports p
def Dev.upPort (d : Dev) (p : Nat) (f : EgsPort → EgsPort) : Dev :=
  d.upNet (fun n => { n with ports := storeSet (fun _ => EgsPort.reset) n.ports p (f (d.egsPort p)) })
def Dev.punt (d : Dev) (q : Nat) : List SinkFrame := storeGet (fun _ => []) d.net.punts q
def Dev.setPunt (d : Dev) (q : Nat) (l : List SinkFrame) : Dev :=
  d.upNet (fun n => { n with punts := storeSet (fun _ => []) n.punts q l })
def Dev.hostq (d : Dev) (q : Nat) : List SinkFrame := storeGet (fun _ => []) d.net.hostqs q
def Dev.setHostq (d : Dev) (q : Nat) (l : List SinkFrame) : Dev :=
  d.upNet (fun n => { n with hostqs := storeSet (fun _ => []) n.hostqs q l })


/-- A firmware service runs: the firmware is ready, and the Herd core that has the service is not offline (R418, R545). -/
def Dev.service (d : Dev) (core : Nat) : Bool := d.bit SEC_BOOT_STS.READY && d.rd (HCC_STS.STATE.on core) < 2

/-- Bits of a mask as numbers, and back. -/
def maskBits (n m : Nat) : List Nat := (List.range n).filter (bitAt m)
def bitsMask (l : List Nat) : Nat := sumBy l (fun k => 2 ^ k)

/-- Is the port up? -/
def Dev.linkUp (d : Dev) (p : Nat) : Bool := d.bit (ETH_STS.LINK.on p)

/-- Cells of a packet of `size` bytes (R350). -/
def cellsOf (size : Nat) : Nat := cdiv (size + 32) 128

/-- Cells in use in an output buffer: of complete packets and of reservations. -/
def SwOut.cells (x : SwOut) : Nat :=
  sumBy x.packets (fun p => cellsOf p.pkt.size) + sumBy (x.arriving.filter (fun a => !a.discard)) (fun a => cellsOf a.pkt.size)

/-- A sink takes the oldest packet that waits in output `o`. -/
def Dev.takeSink (d : Dev) (o : Nat) : Dev := d.upOut o (fun x => { x with packets := x.packets.drop 1 })

def Dev.upHerd (d : Dev) (f : Herd → Herd) : Dev := { d with herd := f d.herd }

/-- A packet enters a switch input. -/
def Dev.toSwitch (d : Dev) (i : Nat) (p : SwPkt) : Dev := d.upIn i (fun x => { x with packets := x.packets ++ [p] })

/-- A frame of host or firmware for an Ethernet port through input 11 (R349). -/
def injected (port : Nat) (bytes : List Byte) (stamp : TxStamp) : SwPkt :=
  { act := 7, arg := port, link := none, outs := [port], hdr := [], bytes := bytes, size := bytes.length, stamp := stamp, buf := none }

/-! Replication lists (R379, R381). -/

def Repl.chn (r : Repl) : Nat := (r.bytes.getD 30 0).toNat
def Repl.port (r : Repl) : Nat := (r.bytes.getD 28 0).toNat % 8
def Repl.queue (r : Repl) : Nat := leNat (slice r.bytes 26 2) % 4096

/-- CHN_REPL_STS of a channel: its ports and entries. -/
def Dev.showLists (d : Dev) (c : Nat) : Dev :=
  let n := (List.range 8).map (fun p => (d.replList c p).length)
  (d.wr (CHN_REPL_STS.PORTS.on c) (bitsMask ((List.range 8).filter (fun p => n.getD p 0 != 0)))).wr (CHN_REPL_STS.ENTRIES.on c) n.sum

/-- An entry is unlinked and invalidated; queued copies keep it PENDING (R381). -/
def Dev.unlink (d : Dev) (i : Nat) : Dev :=
  let r := d.replAt i
  if !r.valid then d
  else ((d.upRepl i (fun r => { r with valid := false })).setReplList r.chn r.port ((d.replList r.chn r.port).erase i)).showLists r.chn

/-- A channel's lists are emptied (R381). -/
def Dev.emptyLists (d : Dev) (c : Nat) : Dev :=
  d.forEach ((List.range 8).flatMap (fun p => d.replList c p)) Dev.unlink

/-! Back-pressure (R354, R361). -/

/-- The priority of a frame: PCP of its outermost VLAN tag, 0 when untagged. -/
def frameTagged (bs : List Byte) : Bool := beNat (slice bs 12 2) == 0x8100 || beNat (slice bs 12 2) == 0x88A8
def framePrio (bs : List Byte) : Nat := if frameTagged bs then beNat (slice bs 14 2) / 2 ^ 13 else 0

/-- Where the EtherType behind the VLAN tags of a frame stands. -/
def etherAt (bs : List Byte) : Nat := ((List.range 5).map (fun k => 12 + 4 * k)).find? (fun a =>
  !(beNat (slice bs a 2) == 0x8100 || beNat (slice bs a 2) == 0x88A8)) |>.getD 32

/-- Bytes of a frame in the receive queue, FCS included. -/
def RxFrame.size (f : RxFrame) : Nat := f.bytes.length + 4

def Eth.fill (x : Eth) : Nat := sumBy x.rxq RxFrame.size
def Eth.prioFill (x : Eth) (p : Nat) : Nat := sumBy (x.rxq.filter (fun f => framePrio f.bytes == p)) RxFrame.size

/-- Flow-control mode; 3 is taken as 0 (R342). -/
def Dev.fcMode (d : Dev) (p : Nat) : Nat := if d.rd (ETH_FC.MODE.on p) = 3 then 0 else d.rd (ETH_FC.MODE.on p)

/-- Thresholds in bytes; XON at or above XOFF is taken as XOFF - 1. -/
def Dev.rxqXoff (d : Dev) (p : Nat) : Nat := d.rd (SWC_RXQ_THR.XOFF.bk p) * 1024
def Dev.rxqXon (d : Dev) (p : Nat) : Nat := min (d.rd (SWC_RXQ_THR.XON.bk p)) (d.rd (SWC_RXQ_THR.XOFF.bk p) - 1) * 1024
def Dev.pfcXoff (d : Dev) (p : Nat) : Nat := d.rd (SWC_PFC_THR.XOFF.bk p) * 1024
def Dev.pfcXon (d : Dev) (p : Nat) : Nat := min (d.rd (SWC_PFC_THR.XON.bk p)) (d.rd (SWC_PFC_THR.XOFF.bk p) - 1) * 1024
def Dev.quanta (d : Dev) (p : Nat) : Nat := max 1 (d.rd (SWC_PAUSE_CFG.QUANTA.bk p))

/-! Flow control received (R318). -/

def Dev.macDiscard (d : Dev) (p : Nat) : Dev := d.count (ETH_CNT_MACCTL_DISC.COUNT.on p) 1

/-- A received PAUSE: quanta 0 ends the pause. -/
def Dev.pauseIn (d : Dev) (p quanta : Nat) : Dev :=
  if d.fcMode p = 1 then (d.count (ETH_CNT_PAUSE_RX.COUNT.on p) 1).wr (ETH_STS.PAUSED.on p) (ofBool (quanta != 0))
  else d.macDiscard p

/-- A received PFC frame: the priorities it names that PFC_EN enables. -/
def Dev.pfcIn (d : Dev) (p mask : Nat) (quanta : List Nat) : Dev :=
  if d.fcMode p = 2 then
    let named := (maskBits 8 mask).filter (fun k => bitAt (d.rd (ETH_FC.PFC_EN.on p)) k)
    let stop := named.filter (fun k => quanta.getD k 0 != 0)
    let keep := (maskBits 8 (d.rd (ETH_STS.PFC_PAUSED.on p))).filter (fun k => !named.contains k)
    (d.count (ETH_CNT_PAUSE_RX.COUNT.on p) 1).wr (ETH_STS.PFC_PAUSED.on p) (bitsMask (keep ++ stop))
  else d.macDiscard p

/-- A flow-control frame, 64 bytes, is received (R339). The count of 64 bytes is DEDUCED (log entry 231). -/
def Dev.ctlIn (d : Dev) (p : Nat) : Dev := (d.count (ETH_CNT_RX_FRAMES.COUNT.on p) 1).count (ETH_CNT_RX_BYTES.COUNT.on p) 64

/-- The MAC takes what arrives. -/
def Dev.portTakes (d : Dev) (p : Nat) : Bool := d.open_ (pageETH p) && d.bit (ETH_CTL.RX_EN.on p) && d.linkUp p

/-- A flow-control frame leaves the port; in loopback it comes back to it (R340; DESIGN CHOICE, log entry 200). -/
def Dev.putPause (d : Dev) (p quanta prios : Nat) : Dev :=
  if !d.bit (ETH_CTL.LPBK.on p) then d.send (.pause p quanta prios)
  else if !d.portTakes p then d
  else if prios = 0 then (d.ctlIn p).pauseIn p quanta
  else (d.ctlIn p).pfcIn p prios (List.replicate 8 quanta)

/-- A flow-control frame towards the partner: PAUSE where `prios` is 0.  XOFF frames are counted.  None is sent in safe state (R444). -/
def Dev.sendPause (d : Dev) (p quanta prios : Nat) : Dev :=
  if d.safe then d else
  let d := (d.count (ETH_CNT_TX_FRAMES.COUNT.on p) 1).count (ETH_CNT_TX_BYTES.COUNT.on p) 64
  let d := (d.putPause p quanta prios).count (ETH_CNT_PAUSE_TX.COUNT.on p) 1
  if quanta = 0 then d else (d.count (SWC_CNT_XOFF.COUNT.bk p) 1).event SWC_EVT.XOFF_SENT

/-- The port can send flow control: it runs, transmits, and its link is up (R339, R340, R356); what was not sent follows when it can. -/
def Dev.pauseReady (d : Dev) (p : Nat) : Bool := d.open_ (pageETH p) && d.bit (ETH_CTL.TX_EN.on p) && d.linkUp p

/-- PFC as the fill of port `p` asks for it: at RXQ XOFF the frame names every priority in PFC_EN (R354). -/
def Dev.pfcControl (d : Dev) (p fill : Nat) : Dev :=
  let en := maskBits 8 (d.rd (ETH_FC.PFC_EN.on p))
  let all := if (d.eth p).xoffAll then fill > d.rxqXon p else fill ≥ d.rxqXoff p
  let was := maskBits 8 (d.rd (SWC_RXQ_STS.PFC_SENT.bk p))
  let want := en.filter (fun k => all || (if was.contains k then (d.eth p).prioFill k > d.pfcXon p else (d.eth p).prioFill k ≥ d.pfcXoff p))
  let new := if all && !(d.eth p).xoffAll then want else want.filter (fun k => !was.contains k)
  let old := was.filter (fun k => !want.contains k)
  let d := (d.upEth p (fun x => { x with xoffAll := all })).wr (SWC_RXQ_STS.PFC_SENT.bk p) (bitsMask want)
  let d := if new.isEmpty then d else d.sendPause p (d.quanta p) (bitsMask new)
  if old.isEmpty then d else d.sendPause p 0 (bitsMask old)

/-- PAUSE as the fill of port `p` asks for it (R354). -/
def Dev.pauseControl (d : Dev) (p fill : Nat) : Dev :=
  if !d.bit (SWC_RXQ_STS.PAUSE_SENT.bk p) && fill ≥ d.rxqXoff p then
    (d.wr (SWC_RXQ_STS.PAUSE_SENT.bk p) 1).sendPause p (d.quanta p) 0
  else if d.bit (SWC_RXQ_STS.PAUSE_SENT.bk p) && fill ≤ d.rxqXon p then
    (d.wr (SWC_RXQ_STS.PAUSE_SENT.bk p) 0).sendPause p 0 0
  else d

/-- The flow control a port's fill asks for: PAUSE or PFC sent and released (R354). -/
def Dev.flowControl (d : Dev) (p : Nat) : Dev :=
  let fill := (d.eth p).fill
  let d := d.wr (SWC_RXQ_STS.FILL.bk p) (fill / 1024)
  if !d.pauseReady p then d
  else match d.fcMode p with
  | 1 => d.pauseControl p fill
  | 2 => d.pfcControl p fill
  | _ => d

/-! Ports going down (R356). -/

/-- A packet's copy in an output buffer is gone; the PKT buffer of a packetiser's packet goes back, or stays in the window, when the
switch has taken its last cell, which is when it left its input. -/
def Dev.flushCount (d : Dev) (o : Nat) (p : SwPkt) : Dev :=
  (d.count (SWC_CNT_FLUSH_PKTS.COUNT.bk o) 1).count (SWC_CNT_FLUSH_BYTES.COUNT.bk o) p.size

/-- Descriptors of a port are freed: those in its queues, and their entries' copies. -/
def Dev.dropDescs (d : Dev) (port : Nat) : Dev :=
  let qs := ((d.net.queues.filter (fun e => e.2.port == some port)).map (·.1))
  let d := d.forEach qs (fun d q =>
    let d := d.forEach (d.egsQ q).descs (fun d k => match k.entry with
      | some i => d.upRepl i (fun r => { r with queued := r.queued - 1 })
      | none => d)
    (d.upQ q (fun x => { x with descs := [], inTurn := false })).wr (EGS_Q_DEFICIT.BYTES.bk q) 0)
  (d.upPort port (fun _ => EgsPort.reset)).wr (EGS_STS.DESCS.on port) 0

/-- A downed port's output discards what it holds; of packets that are arriving, which are counted now, the cells
still to come are discarded (R356). -/
def Dev.flushPort (d : Dev) (port : Nat) : Dev :=
  let x := d.swOut port
  let gone := x.packets.map (·.pkt) ++ (x.arriving.filter (fun a => !a.discard)).map (·.pkt)
  let d := d.forEach gone (fun d p => d.flushCount port p)
  let d := (d.upOut port (fun x => { x with packets := [], arriving := x.arriving.map (fun a => { a with discard := true, counted := true }) })).dropDescs port
  d.event SWC_EVT.FLUSH

end Sys2Proof.Machine
end

