-- ==== Sys2Proof/Machine/DecodeHold.lean ====
section
/-!
DEFINITION. Packets, timers and host commands of decode channels (R148, R149, R173), and the hold concealment of encode leaders
(R161 to R167, R178).
-/

namespace Sys2Proof.Machine

/-- A packet reaches a decode channel (R148, R149, R153, R157).  A datagram that is not 1 to 7 MPEG-TS packets is discarded where the channel takes
those (DESIGN CHOICE, log entry 176). -/
def Dev.decodePacket (d : Dev) (e : Env) (c : Nat) (p : DecPkt) : Dev :=
  let x := d.dc c
  let xport := d.rd (CHN_DEC_CFG.XPORT.on c)
  let pt := d.rd (CHN_DEC_CFG.PT.on c)
  if !d.isDecode c || d.rd (CHN_SRC.KIND.on c) != 1 then d.sinkDisc 8
  else if d.chState c = 5 || (d.chState c = 2 && x.stop.isSome) then d.pktDisc c
  else if d.chState c != 2 then d.sinkDisc 8
  else if !d.bpmOpen then d
  else if xport != 1 && pt < 128 && p.pt != pt then d.pktDisc c
  else if xport != 0 && (tsPackets p.payload).isNone then d.pktDisc c
  else if xport != 1 && ((match x.nextSeq with | some q => decide (p.seq < q) | none => false) || x.jb.any (fun q => q.seq == p.seq)) then
    d.pktDisc c
  else if d.jbHeld c ≥ d.rd (CHN_DEC_JB.PKTS.on c) then (d.sinkDisc 8).transportDamage e c 0x08 0
  else
    let r := d.jbAlloc e.now c
    if !r.2 then r.1.sinkDisc 8
    else
      let d := r.1.count (CHN_CNT_BYTES.COUNT.on c) p.payload.length
      if xport = 1 then
        (d.upDec c (fun x => { x with partPkts := x.partPkts + 1, partDone := e.now })).tsFeed e c ((tsPackets p.payload).getD [])
      else
        let q : JbPkt := { seq := p.seq, ts := p.ts, marker := p.marker, payload := p.payload, arrival := e.now
                           wait := d.rd (CHN_DEC_JB.JB_MS.on c) }
        Dev.jbAdvance e c (x.jb.length + 1) ((d.upDec c (fun x => { x with jb := insertPkt q x.jb })).findFirst c p.first p.marker p.seq p.ts)

def execDecodePacket (c : Fin 256) (p : DecPkt) (s : State) : Host.Outcome State Fault Refusal :=
  s.run fun e d => (if d.bpmOpen then d.takeSink 8 else d).decodePacket e c p

/-- The wait for a missing packet runs out: a gap inside a unit is damage, a boundary gap is accepted (R149).  The wait runs from the first
packet of the unit that waits. -/
def execJbTimeout (c : Fin 256) (s : State) : Host.Outcome State Fault Refusal :=
  s.run fun e d =>
    let x := d.dc c
    match x.jb, x.nextSeq with
    | p :: _, some q =>
      if p.seq ≤ q || x.stop.isSome then d
      else if x.partPkts != 0 && e.now < x.partAt + x.partWait * 1000000 then d
      else if x.partPkts == 0 && e.now < p.arrival + p.wait * 1000000 then d
      else if x.boundary p then Dev.jbAdvance e c x.jb.length (d.acceptGap c p.seq)
      else d.transportDamage e c 0x07 (q % 65536)
    | _, _ => d

/-- A ring position as a count of stores. -/
def ringPos (n idx : Nat) (wrap : Bool) : Nat := idx + (if wrap then n else 0)

/-- A write of CHN_DEC_OUT_RD: stores are released, unless it would pass CHN_DEC_OUT_WR (R150, R173). -/
def execDecOutRdWrite (c : Fin 256) (idx : Fin 16) (wrap : Bool) (s : State) : Host.Outcome State Fault Refusal :=
  s.run fun e d =>
    let n := d.rd (CHN_DEC_CFG.NOUT.on c)
    let old := ringPos n (d.rd (CHN_DEC_OUT_RD.IDX.on c)) (d.bit (CHN_DEC_OUT_RD.WRAP.on c))
    let new := ringPos n idx wrap
    let step := (new + 2 * n - old) % max 1 (2 * n)
    if idx.val ≥ n ∨ step > d.outUsed c then d
    else
      let d := (d.wr (CHN_DEC_OUT_RD.IDX.on c) idx).wr (CHN_DEC_OUT_RD.WRAP.on c) (ofBool wrap)
      if d.isDecode c ∧ d.chActive c then d.decodeStep e c else d

/-! Hold concealment. -/

/-- An encode leader: the channel that keeps the group's picture clock. -/
def Dev.isLeader (d : Dev) (c : Nat) : Bool := !d.isDecode c && !d.isMember c

/-- A picture that is not stored by its deadline is a miss: of ST2110 and SURFACE sources always, of HOST sources with LOSS_EN, and
of every source while ENTER is in force (R161). -/
def Dev.detects (d : Dev) (l : Nat) : Bool :=
  d.rd (CHN_SRC.KIND.on l) != 0 || d.bit (CHN_HOLD_CFG.LOSS_EN.on l) || d.forced l

/-- The picture clock acts at a deadline that no picture meets: at a miss, in HOLDING, and where HOLDING is to start (R161, R163). -/
def Dev.watches (d : Dev) (l : Nat) : Bool := d.detects l || d.chState l == 3 || (d.ch l).hold.enterNext.isSome

/-- The picture being stored takes a later index: a hold picture fills its picture time (R160). -/
def Dev.reindex (d : Dev) (l i k : Nat) : Dev :=
  let d := d.setJobs (d.jobs.filter (fun j => !(j.chn == l && j.stage == 0 && j.pic == i && j.engine.isNone)))
  (d.upCh l (fun x => { x with
    storing := some k
    src := x.src.map (fun s => if s.idx = i then { s with idx := k, anaDone := [], rowCost := [], intraWins := 0, blocks := 0 } else s) })).wr
    (CHN_ENC_SRC_LINE.PIC.on l) k

/-- The index of the picture time that a passing deadline ends (R160): that of the picture being stored, which is late from now on where
a picture that comes too late is a miss, else takes the next index; the next index where nothing is stored, or a late picture. -/
def Dev.timeIdx (d : Dev) (l : Nat) (missed : Bool) : Nat × Dev :=
  let k := (d.ch l).nextIdx
  let next (d : Dev) : Dev := d.upCh l (fun x => { x with nextIdx := k + 1 })
  match (d.ch l).storing.bind (d.ch l).srcAt with
  | none => (k, next d)
  | some p =>
    if p.late then (k, next d)
    else if missed then (p.idx, d.upSrc l p.idx (fun s => { s with late := true }))
    else if d.picIssued l p.idx then (k, next d)
    else (p.idx, next ((d.dropPicture l p.idx).reindex l p.idx k))

/-- The deadline `t` passes without a picture (R161 to R163): a miss is counted; a live picture of which slices were issued is completed,
else it is covered by a hold picture, where the count is reached in HOLDING. -/
def Dev.deadline (d : Dev) (now l t : Nat) : Dev :=
  let due := (d.ch l).hold.enterNext.isSome
  let missed := d.detects l
  let r := d.timeIdx l missed
  let idx := r.1
  let d := r.2.upCh l (fun x => { x with hold := { x.hold with expected := x.hold.expected.map (· + d.period l) } })
  let cause := if d.forced l then 4 else 1
  let d := if missed then d.countMiss l else d
  let reach : Bool := missed && d.chState l == 2 && !due && d.missesReach l
  if missed && d.isLive l && d.picIssued l idx then
    let d := (d.completeBad now l idx).enterIfDue now l
    if reach then d.enterSoon l cause else d
  else
    let d := (if d.picIssued l idx then d else d.dropPicture l idx).enterIfDue now l
    let d := if d.chState l = 2 then d.dropMiniGop now l else d
    (if reach then d.groupHolding now l cause else d).holdOrStill now l idx t

/-- A deadline that was noted passes: HOLDING starts where it is due, a picture not coded is covered (R85, R162, R163), and one stored in
time is bad where ENTER is in force (R161). -/
def Dev.noted (d : Dev) (now l : Nat) (e : Nat × Nat × Due) : Dev :=
  let d := d.upCh l (fun x => { x with hold := { x.hold with dues := x.hold.dues.erase e } })
  if d.chState l = 2 ∨ d.chState l = 3 then
    match e.2.2 with
    | .enter => d.enterIfDue now l
    | .cover => (d.enterIfDue now l).holdOrStill now l e.2.1 e.1
    | .judge m => if d.forced l then d.judged now l e.1 e.2.1 m else d
  else d

/-- The earliest of some notes, the first of those with one deadline. -/
def firstDue (l : List (Nat × Nat × Due)) : Option (Nat × Nat × Due) :=
  l.foldl (fun (b : Option (Nat × Nat × Due)) e => match b with
    | some x => if e.1 < x.1 then some e else b
    | none => some e) none

/-- The noted deadline that passes next, before that of the picture clock. -/
def Dev.nextNoted (d : Dev) (l : Nat) : Option (Nat × Nat × Due) :=
  match firstDue (d.ch l).hold.dues with
  | some e => if (match d.deadlineOf l with | some t => decide (e.1 ≤ t) | none => true) then some e else none
  | none => none

/-- The next deadline of leader `l` that has passed takes effect. -/
def Dev.sourceDeadline (d : Dev) (now l : Nat) : Dev :=
  let d := d.passGood now l
  match d.nextNoted l, d.deadlineOf l with
  | some x, _ => if now < x.1 then d else d.noted now l x
  | none, none => d
  | none, some t =>
    if now < t then d
    else if d.chState l = 4 then
      (match (d.ch l).storing with | some i => d.completeBad now l i | none => d)
    else if (d.chState l = 2 ∨ d.chState l = 3) ∧ d.watches l then d.deadline now l t
    else d

def execSourceDeadline (c : Fin 256) (s : State) : Host.Outcome State Fault Refusal :=
  s.run fun e d => if d.isLeader c then (d.sourceDeadline e.now c).resumeLink e c else d

/-- HOLDING has lasted CHN_HOLD_STILL_MS: the still picture is due at the next deadline, once per stay (R165, R177).  A value above 86,400,000 is
used as written (DESIGN CHOICE, log entry 211: R177 speaks of values below 100 alone). -/
def execStillTimer (c : Fin 256) (s : State) : Host.Outcome State Fault Refusal :=
  s.run fun e d =>
    let h := (d.ch c).hold
    if d.isLeader c && d.chState c == 3 && d.bit (CHN_HOLD_CFG.STILL_EN.on c) && !h.stillDone
        && e.now - h.since ≥ max 100 (d.rd (CHN_HOLD_STILL_MS.MS.on c)) * 1000000
    then d.upCh c (fun x => { x with hold := { x.hold with stillDue := true } }) else d

/-- CHN_HOLD_CMD.ENTER: each following picture counts as bad until RELEASE; ignored by members (R167, R178). -/
def execHoldCmdEnter (c : Fin 256) (s : State) : Host.Outcome State Fault Refusal :=
  s.run fun e d => if d.isLeader c then (d.passGood e.now c).wr (CHN_HOLD_STS.FORCED.on c) 1 else d

/-- The deadlines that passed by `now` while ENTER was in force are judged, in order; `n` bounds their number (R161). -/
def Dev.judgePassed (now l : Nat) : Nat → Dev → Dev
  | 0, d => d
  | n + 1, d =>
    match firstDue ((d.ch l).hold.dues.filter (fun e => judgeOf e && e.1 ≤ now)) with
    | some e => Dev.judgePassed now l n (d.noted now l e)
    | none => d

/-- CHN_HOLD_CMD.RELEASE (R167, R178): pictures whose deadline is still to come are taken. -/
def execHoldCmdRelease (c : Fin 256) (s : State) : Host.Outcome State Fault Refusal :=
  s.run fun e d =>
    if !d.isLeader c then d
    else
      let d := (Dev.judgePassed e.now c (d.ch c).hold.dues.length d).wr (CHN_HOLD_STS.FORCED.on c) 0
      if d.chState c = 2 then d.refresh c else d

/-- CHN_HOLD_CMD.STILL_NOW: the still at the next deadline while HOLDING with STILL_EN, once per stay (R165, R167). -/
def execHoldCmdStillNow (c : Fin 256) (s : State) : Host.Outcome State Fault Refusal :=
  s.run fun _ d =>
    if d.isLeader c && d.chState c == 3 && d.bit (CHN_HOLD_CFG.STILL_EN.on c) && !(d.ch c).hold.stillDone
    then d.upCh c (fun x => { x with hold := { x.hold with stillDue := true } }) else d

end Sys2Proof.Machine
end

