-- ==== Sys2Proof/Machine/Hbm.lean ====
section
/-!
DEFINITION. The HBM controllers and their arbiters: requests, rounds, locks, quotas, slot tables, bank queues, read returns with
their errors, refresh and trims (R283 to R314).
-/

namespace Sys2Proof.Machine

def Dev.hb (d : Dev) (n : Nat) : Hbc := storeGet (fun _ => Hbc.reset) d.hbcs n
def Dev.setHb (d : Dev) (n : Nat) (x : Hbc) : Dev := { d with hbcs := storeSet (fun _ => Hbc.reset) d.hbcs n x }
def Dev.upHb (d : Dev) (n : Nat) (f : Hbc → Hbc) : Dev := d.setHb n (f (d.hb n))

/-! The address map (R284). -/

def hmcOf (a : Nat) : Nat := 4 * (a / 2 ^ 32 % 8) + a / 2 ^ 9 % 4
def pcOf (a : Nat) : Nat := a / 2 ^ 8 % 2
def groupOf (a : Nat) : Nat := a / 2 ^ 13 % 4
/-- The bank within a pseudo-channel: bank group, bank, stack ID. -/
def bankOf (a : Nat) : Nat := a / 2 ^ 13 % 32
def rowOf (a : Nat) : Nat := a / 2 ^ 18 % 2 ^ 14
/-- A bank of a controller: 32 times the pseudo-channel plus the bank. -/
def bankKey (a : Nat) : Nat := 32 * pcOf a + bankOf a
/-- The HBM address of a sector's first byte. -/
def sectorOf (a : Nat) : Nat := a / 32 * 32

/-- Bytes an access covers. -/
def hbmSize : HbmOp → Nat
  | .read n => n
  | .write bs => bs.length
  | _ => 8

def hbmIsRead : HbmOp → Bool
  | .read _ => true
  | _ => false

/-- The access is performed as a read-modify-write: a partial write or an atomic access (R291). -/
def hbmIsRmw (a : Nat) : HbmOp → Bool
  | .read _ => false
  | .write bs => a % 8 != 0 || bs.length % 8 != 0
  | _ => true

/-- Sectors an access covers. -/
def sectorsOf (a : Nat) (o : HbmOp) : Nat := (a % 32 + hbmSize o + 31) / 32

/-- Is this unit one that arbiter `n` can be asked for: within 64 bytes of its channel, an atomic access on 8 bytes? -/
def hbmUnitGood (n : Nat) (u : HbmUnit) : Bool :=
  u.addr < 2 ^ 35 && hmcOf u.addr == n && (hbmSize u.op) != 0 && u.addr % 64 + (hbmSize u.op) ≤ 64
    && (match u.op with | .fetchAdd _ | .compareSwap _ _ => u.addr % 8 == 0 | _ => true)

/-- A request that arbiter `n` can be asked for: every unit but the last is two sectors (R295); locks and microcode fetches are pixel
engines'. -/
def hbmReqGood (n : Nat) (r : HbmReq) : Bool :=
  isRequester r.req && 1 ≤ r.units.length && r.units.length ≤ 16 && r.units.all (hbmUnitGood n)
    && r.units.dropLast.all (fun u => hbmSize u.op == 64) && ((!r.lock && !r.ucode) || r.req < 0x80)

/-- A requester presents a request; it waits for its grant (R295). -/
def execHbmRequest (n : Fin 32) (r : HbmReq) (s : State) : Host.Outcome State Fault Refusal :=
  s.run fun _ d => if hbmReqGood n r then d.upHb n (fun x => { x with waiting := x.waiting ++ [r] }) else d

/-! Poison (R291, R292). -/

def Dev.addPoison (d : Dev) (ws : List Nat) : Dev :=
  { d with poison := ws.foldl (fun l w => if l.contains w then l else insertSorted w l) d.poison }

/-- What a requester does with poisoned data (R292).  DMA, WIN2, classifier and firmware accesses are steps of their own, which
ask `Dev.poisoned`; a packet that EGS read so is not sent, since its buffer stays poisoned. -/
def Dev.poisonTo (d : Dev) (now req : Nat) (use : HbmUse) : Dev :=
  if req < 0x80 then d.pxeFault now req 4 none none
  else if req < 0xA0 then
    match (d.en (req - 0x80)).running with
    | some j => d.abortChannel now j.chn
    | none => d
  else if 0x0D0 ≤ req ∧ req ≤ 0x0D4 then d.send (.busError (req - 0x0D0))
  else match use with
    | .channel c => if req = 0x0B3 ∧ d.chActive c then d.abortChannel now c else d
    | .buffer p i =>
      if req = 0x0B1 ∨ req = 0x0B2 then d.loseBuffer p i
      else if 0x0B4 ≤ req ∧ req ≤ 0x0BB then d.addPoison [d.pointerOf p i]
      else d
    | .other => d

/-! Arbitration (R295 to R300). -/

def Dev.prioOf (d : Dev) (n r : Nat) : Nat := d.rd ((ARB_REQ_CFG.PRIO.on n).bk r)
def Dev.classOf (d : Dev) (n r : Nat) : Nat := d.rd ((ARB_REQ_CFG.CLASS.on n).bk r)
def Dev.idleOnly (d : Dev) (n r : Nat) : Bool := r == 0x0E1 || d.bit ((ARB_REQ_CFG.IDLE_ONLY.on n).bk r)
def Dev.ageOf (d : Dev) (n r : Nat) : Nat := d.rd ((ARB_REQ_STS.AGE.on n).bk r)
def Dev.setAge (d : Dev) (n r v : Nat) : Dev := d.wr ((ARB_REQ_STS.AGE.on n).bk r) v
/-- The grants that go on: the holder's, and those parked, each with the base priority it was made at. -/
def Hbc.granted (x : Hbc) : List (HbmReq × Nat) := x.holder.toList.map (fun h => (h, x.holderBase)) ++ x.parked
def Dev.holds (d : Dev) (n r : Nat) : Bool := (d.hb n).granted.any (fun g => g.1.req == r)

/-- The base priority in use: a grant holder keeps the one it was granted at (R301); a microcode fetch has 0 (R287). -/
def Dev.baseOf (d : Dev) (n r : Nat) : Nat :=
  match (d.hb n).granted.find? (fun g => g.1.req == r) with
  | some g => g.2
  | none => d.prioOf n r
def Dev.reqBase (d : Dev) (n : Nat) (q : HbmReq) : Nat := if q.ucode then 0 else d.baseOf n q.req

/-- Masked by its quota at a base priority (R298); a Q of 0 is taken as 1 (R312). -/
def Dev.maskedAt (d : Dev) (n r base : Nat) : Bool := base ≥ 12 && d.rd ((ARB_REQ_STS.COUNT.on n).bk r) ≥ max 1 (d.rd (ARB_QUOTA.Q.on n))
def Dev.quotaMasked (d : Dev) (n r : Nat) : Bool := d.maskedAt n r (d.baseOf n r)

/-- The bank queue of a unit has space (R289). -/
def Hbc.hasSpace (x : Hbc) (a : Nat) : Bool :=
  (x.queue.filter (fun q => pcOf q.addr == pcOf a && bankOf q.addr == bankOf a)).length < 16

/-- The controller takes this requester: with SVC at 0 only the background services and the Herd cores (R294). -/
def Dev.svcTakes (d : Dev) (n r : Nat) : Bool :=
  d.bit (HMC_CTL.SVC.on n) || r == 0x0E0 || r == 0x0E1 || (0x0D0 ≤ r && r ≤ 0x0D3)

/-- The requests that could be granted next: those granted already, else each requester's oldest. -/
def Hbc.heads (x : Hbc) : List HbmReq :=
  (x.granted.map (·.1) ++ x.waiting).foldl (fun acc r => if acc.any (fun q => q.req == r.req) then acc else acc ++ [r]) []

/-- The candidates of a round (R295). -/
def Dev.candidates (d : Dev) (n : Nat) : List HbmReq :=
  (d.hb n).heads.filter (fun r =>
    (match r.units with | [] => false | u :: _ => (d.hb n).hasSpace u.addr) && !d.maskedAt n r.req (d.reqBase n r) && d.svcTakes n r.req)

/-- Effective priority (R296); a holder competes with age 0. -/
def Dev.effective (d : Dev) (n : Nat) (q : HbmReq) : Nat := min 15 (d.reqBase n q + (if d.holds n q.req then 0 else d.ageOf n q.req))

/-- Does `a` beat `b`: higher effective priority, then higher base, then the first number after the last granted? -/
def Dev.beats (d : Dev) (n : Nat) (a b : HbmReq) : Bool :=
  let after (r : Nat) : Nat := (r + 1024 - (d.hb n).last - 1) % 1024
  let ea := d.effective n a
  let eb := d.effective n b
  let ba := d.reqBase n a
  let bb := d.reqBase n b
  if ea ≠ eb then eb < ea else if ba ≠ bb then bb < ba else after a.req < after b.req

def Dev.pickReq (d : Dev) (n : Nat) : List HbmReq → Option HbmReq
  | [] => none
  | r :: l => some (l.foldl (fun w q => if d.beats n q w then q else w) r)

/-- The slot entry of the active bank at a slot: its class where it is valid (R297). -/
def Dev.slotClass (d : Dev) (n slot : Nat) : Option Nat :=
  let b := 64 * d.rd (ARB_STS.ACTIVE.on n) + slot
  if d.bit ((ARB_SLOT_ENTRY.VALID.on n).bk b) then some (d.rd ((ARB_SLOT_ENTRY.CLASS.on n).bk b)) else none

/-- One round: the winner, and the state with ages and slot counters (R296, R297). -/
def Dev.arbRound (d : Dev) (n slot : Nat) : Option HbmReq × Dev :=
  let all := d.candidates n
  let c := all.filter (fun r => !d.idleOnly n r.req)
  let slotted := match d.slotClass n slot with
    | some k => c.filter (fun r => d.classOf n r.req == k)
    | none => []
  let d1 := match d.slotClass n slot with
    | some _ => d.count (if slotted.isEmpty then ARB_CNT_SLOT_FELL.COUNT.on n else ARB_CNT_SLOT_USED.COUNT.on n) 1
    | none => d
  let c := if slotted.isEmpty then c else slotted
  let c := if c.isEmpty then all.filter (fun r => d.idleOnly n r.req) else c
  match d.pickReq n c with
  | none => (none, d1)
  | some w =>
    let d2 := d1.forEach (all.filter (fun r => r.req != w.req && !d.holds n r.req)) (fun d r =>
      d.setAge n r.req (min 15 (d.ageOf n r.req + 1)))
    (some w, d2.setAge n w.req 0)

/-- The bytes an atomic access leaves in memory. -/
def atomicNew (old : Nat) : HbmOp → Nat
  | .fetchAdd v => (old + v) % 2 ^ 64
  | .compareSwap a b => if old = a % 2 ^ 64 then b % 2 ^ 64 else old
  | _ => old

/-- A unit enters its bank queue: a write is acknowledged, and every later read returns what it wrote; a read returns what the sector holds by
now, whatever is written after it (R288). -/
def Dev.admitUnit (d : Dev) (e : Env) (n : Nat) (r : HbmReq) (u : HbmUnit) : Dev :=
  let x := d.hb n
  let waits := (hbmIsRead u.op) && x.queue.any (fun q => !(hbmIsRead q.op) && overlap (sectorOf q.addr) (32 * sectorsOf q.addr q.op)
    (sectorOf u.addr) (32 * sectorsOf u.addr u.op))
  let q : BankEntry := { req := r.req, use := r.use, addr := u.addr, op := u.op, poisoned := false, failed := false
                         data := e.bytes .hbm u.addr (hbmSize u.op), sick := (wordsOf u.addr (hbmSize u.op)).find? (fun w => d.poison.contains w) }
  let d := d.setHb n { x with queue := x.queue ++ [q] }
  let d := (d.wr (HMC_STS.QEMPTY.on n) 0).count (ARB_CNT_UNITS.COUNT.on n) 1
  let d := d.wr ((ARB_REQ_STS.COUNT.on n).bk r.req) (min 65535 (d.rd ((ARB_REQ_STS.COUNT.on n).bk r.req) + 1))
  let d := if waits then d.count (HMC_CNT_RAW_WAIT.COUNT.on n) 1 else d
  match u.op with
  | .read _ => d
  | .write bs => (d.store .hbm u.addr bs).send (.hbmAck r.req u.addr)
  | o => d.store .hbm u.addr (natLE 8 (atomicNew (leNat (e.bytes .hbm u.addr 8)) o))

/-- The holder admits its next unit; the grant ends with the last, a lock with its release (R295, R299).  A lock's units wait for a bank in a forced
refresh (R301). -/
def Dev.admitNext (d : Dev) (e : Env) (n : Nat) : Dev :=
  match (d.hb n).holder with
  | none => d
  | some h =>
    match h.units with
    | [] => d
    | u :: us =>
      if !(d.hb n).hasSpace u.addr || (d.bit (ARB_STS.LOCKED.on n) && (d.hb n).forced.contains (bankKey u.addr)) then d
      else
        let d := d.admitUnit e n h u
        let locked := d.bit (ARB_STS.LOCKED.on n)
        d.upHb n (fun x => { x with
          holder := if us.isEmpty && !locked then none else some { h with units := us }
          lockUnits := if locked then x.lockUnits + 1 else x.lockUnits })

/-- A winner takes the grant, or goes on with the one it has; a grant holder that was a candidate and lost waits again with age 0, and one that
was none keeps its grant (R295). -/
def Dev.grantTo (d : Dev) (n : Nat) (w : HbmReq) : Dev :=
  let x := d.hb n
  if x.holder.any (fun h => h.req == w.req) then d
  else
    let others := x.granted.filter (fun g => g.1.req != w.req)
    let lost (g : HbmReq × Nat) : Bool := (d.candidates n).any (fun r => r.req == g.1.req)
    let old := x.parked.find? (fun g => g.1.req == w.req)
    let d := d.count (ARB_CNT_PREEMPT.COUNT.on n) (others.filter lost).length
    let d := d.upHb n (fun x => { x with
      waiting := (others.filter lost).map (·.1) ++ (if old.isSome then x.waiting else x.waiting.erase w)
      parked := others.filter (fun g => !lost g)
      holder := some w, holderBase := (match old with | some g => g.2 | none => d.reqBase n w)
      last := if old.isSome then x.last else w.req, lockUnits := 0, lockLimit := max 64 (d.rd (ARB_WDOG.LIMIT.on n)) })
    (d.wr (ARB_STS.HOLDER.on n) w.req).wr (ARB_STS.LOCKED.on n) (ofBool w.lock)

/-- Without rounds, a parked grant whose bank has space goes on where the holder has none or cannot (R300). -/
def Dev.unpark (d : Dev) (n : Nat) : Dev :=
  let x := d.hb n
  let able (h : HbmReq) : Bool := match h.units with | u :: _ => x.hasSpace u.addr | [] => false
  if x.holder.any able then d
  else match x.parked.find? (fun g => able g.1) with
    | none => d
    | some g => (d.setHb n { x with holder := some g.1, holderBase := g.2, parked := x.holder.toList.map (fun h => (h, x.holderBase)) ++ x.parked.erase g
                                    lockUnits := 0 }).wr (ARB_STS.HOLDER.on n) g.1.req

/-- One hc of an arbiter at slot pointer `slot`: a round where one is due, and one unit admitted (R295 to R300).  Under a lock no
round is held; under a freeze only a grant in progress goes on. -/
def execArbGrant (n : Fin 32) (slot : Fin 64) (s : State) : Host.Outcome State Fault Refusal :=
  s.run fun e d =>
    let d := d.wr (ARB_STS.SLOT.on n) slot
    if d.bit (ARB_STS.LOCKED.on n) then d.admitNext e n
    else if !d.open_ (pageARB n) then (d.unpark n).admitNext e n
    else
      let r := d.arbRound n slot
      match r.1 with
      | some w => (r.2.grantTo n w).admitNext e n
      | none => r.2

/-- The lock ends; units of the request that are left go on under the grant. -/
def Dev.unlock (d : Dev) (n : Nat) : Dev :=
  (d.wr (ARB_STS.LOCKED.on n) 0).upHb n (fun x => { x with
    holder := match x.holder with | some h => if h.units.isEmpty then none else some { h with lock := false } | none => none
    lockUnits := 0 })

/-- The holder of a locked sequence releases it (R299). -/
def execLockRelease (n : Fin 32) (s : State) : Host.Outcome State Fault Refusal :=
  s.run fun _ d => if d.bit (ARB_STS.LOCKED.on n) then d.unlock n else d

/-- The lock of holder `h` is released by force (R299). -/
def Dev.forceRelease (d : Dev) (now n : Nat) (h : HbmReq) : Dev :=
  let units := (d.hb n).lockUnits
  let fail (l : List BankEntry) : List BankEntry := l.map (fun q => if q.req = h.req && (hbmIsRead q.op) then { q with failed := true } else q)
  let d := d.upHb n (fun x => { x with
    waiting := x.waiting.filter (fun r => r.req != h.req), holder := none, lockUnits := 0
    queue := fail x.queue, inflight := fail x.inflight })
  let d := (d.wr (ARB_STS.LOCKED.on n) 0).flag (ARB_FLT.WDOG_RELEASE.on n)
  let d := ((d.wr (ARB_WDOG_INFO.VALID.on n) 1).wr (ARB_WDOG_INFO.REQ.on n) h.req).wr (ARB_WDOG_INFO.UNITS.on n) units
  let d := (d.count (ARB_CNT_WDOG.COUNT.on n) 1).event (ARB_EVT.WDOG.on n)
  if h.req < 0x80 then d.pxeFault now h.req 5 none none else d

/-- The resource watchdog expires, its count at the limit: forced release, the holder's port reset, and its fault ARB_WDOG (R299, R314). -/
def execArbWdogExpire (w : LockCount) (s : State) : Host.Outcome State Fault Refusal :=
  s.run fun e d =>
    match (d.hb w.arb).holder with
    | none => d
    | some h =>
      if !d.bit (ARB_STS.LOCKED.on w.arb) || w.cycles < (d.hb w.arb).lockLimit then d
      else
        d.forceRelease e.now w.arb h

/-- A frozen arbiter without granted unit, its controller's queues empty (R300). -/
def Dev.arbDrained (d : Dev) (n : Nat) : Bool :=
  d.frozen (pageARB n) && (d.hb n).granted.isEmpty && (d.hb n).queue.isEmpty

def execArbDrained (n : Fin 32) (s : State) : Host.Outcome State Fault Refusal :=
  s.run fun _ d => if d.arbDrained n then d.event (ARB_EVT.DRAINED.on n) else d

/-- A quota window ends: the counts start anew, and ARB_QUOTA latches (R298, R312). -/
def execQuotaWindowEnd (n : Fin 32) (s : State) : Host.Outcome State Fault Refusal :=
  s.run fun _ d =>
    let d := d.forEach ((List.range 1024).filter isRequester) (fun d r => d.wr ((ARB_REQ_STS.COUNT.on n).bk r) 0)
    d.latchIf (pageARB n) (fun k => k % 0x1000 == 0x050)

/-- The slot table wraps: a latched SWAP exchanges the banks (R297, R313). -/
def execSlotTableWrap (n : Fin 32) (s : State) : Host.Outcome State Fault Refusal :=
  s.run fun _ d =>
    let d := (d.wr (ARB_STS.SLOT.on n) 0).latchIf (pageARB n) (fun k => k % 0x1000 == 0x05C)
    if d.bit (ARB_SLOT_CTL.SWAP.on n) then
      ((d.wr (ARB_STS.ACTIVE.on n) (1 - d.rd (ARB_STS.ACTIVE.on n))).wr (ARB_SLOT_CTL.SWAP.on n) 0).event (ARB_EVT.SWAPPED.on n)
    else d

/-! The controller (R288 to R293). -/

def Hbc.rot (x : Hbc) (pc : Nat) : Nat := if pc = 0 then x.rot0 else x.rot1
def Hbc.setRot (x : Hbc) (pc g : Nat) : Hbc := if pc = 0 then { x with rot0 := g } else { x with rot1 := g }

/-- Two accesses touch a common sector. -/
def sameSector (o q : BankEntry) : Bool :=
  overlap (sectorOf o.addr) (32 * sectorsOf o.addr o.op) (sectorOf q.addr) (32 * sectorsOf q.addr q.op)

/-- A read of a bank's queue that may pass: every older entry is a write to other sectors (R289). -/
def passing (older : List BankEntry) : List BankEntry → Option BankEntry
  | [] => none
  | q :: l =>
    if !older.isEmpty && hbmIsRead q.op && older.all (fun o => !hbmIsRead o.op && !sameSector o q)
    then some q else passing (older ++ [q]) l

/-- A queue head is ready: what it must wait for, a read of its sector before a write, or a read-modify-write, has returned (R288), and its bank
is in no forced refresh (R290). -/
def Hbc.ready (x : Hbc) (q : BankEntry) : Bool :=
  !x.inflight.any (fun o => sameSector o q && !(hbmIsRead q.op && hbmIsRead o.op)) && !x.forced.contains (bankKey q.addr)

/-- The queue of a bank, in order of arrival. -/
def Hbc.bankQueue (x : Hbc) (k : Nat) : List BankEntry := x.queue.filter (fun q => bankKey q.addr == k)

/-- A read that may pass the write at the head of its bank's queue. -/
def Hbc.passer (x : Hbc) (k : Nat) : Option BankEntry :=
  match x.bankQueue k with
  | h :: l => if hbmIsRead h.op then none else passing [h] l
  | [] => none

/-- The heads of a pseudo-channel's bank queues that are ready, reads passing in the banks of `pass`. -/
def Hbc.readyHeads (x : Hbc) (pc pass : Nat) : List BankEntry :=
  ((List.range 32).filterMap (fun b =>
    match (if bitAt pass b then x.passer (32 * pc + b) else none) with
    | some p => some p
    | none => (x.bankQueue (32 * pc + b)).head?)).filter x.ready

/-- The entry's bank group. -/
def BankEntry.inGroup (q : BankEntry) (g : Nat) : Bool := groupOf q.addr == g

/-- The entry a command slot issues: in the next bank group that has a ready head, the oldest of them; where a read may pass, whether it does is
a free value (R289). -/
def Dev.slotPick (d : Dev) (n pc : Nat) : Option BankEntry × Dev :=
  let x := d.hb n
  let r := if (List.range 32).any (fun b => (x.passer (32 * pc + b)).isSome) then d.freeVal 32 else (0, d)
  let l := x.readyHeads pc r.1
  match ((List.range 4).map (fun i => (x.rot pc + 1 + i) % 4)).find? (fun g => l.any (fun q => q.inGroup g)) with
  | none => (none, r.2)
  | some g => (x.queue.find? (fun q => q.inGroup g && l.contains q), r.2.upHb n (fun x => x.setRot pc g))

/-- The words `ws` turn out poisoned: later accesses in a queue meet that, until a write covers them whole.  The queue, and the words left so. -/
def spoil (ws : List Nat) : List BankEntry → List BankEntry × List Nat
  | [] => ([], ws)
  | q :: l =>
    let hit := ws.find? (fun w => (wordsOf q.addr (hbmSize q.op)).contains w)
    let left := match q.op with
      | .write bs => ws.filter (fun w => !(q.addr ≤ w && w + 8 ≤ q.addr + bs.length))
      | _ => ws
    let r := spoil left l
    ({ q with sick := q.sick.or hit } :: r.1, r.2)

/-- The words that a write covers only in part, and the word of an atomic access (R291). -/
def partWords (q : BankEntry) : List Nat :=
  match q.op with
  | .read _ => []
  | .write bs => (wordsOf q.addr bs.length).filter (fun w => !(q.addr ≤ w && w + 8 ≤ q.addr + bs.length))
  | _ => [q.addr]

/-- Words become poisoned in the stack, behind the accesses in `before`: later ones meet them (R288, R291). -/
def Dev.spoilWords (d : Dev) (n : Nat) (ws : List Nat) (before : List BankEntry) : Dev :=
  let x := d.hb n
  let r := spoil ws (x.queue.drop before.length)
  (d.setHb n { x with queue := x.queue.take before.length ++ r.1 }).addPoison r.2

/-- The trims of a training burst on a lane: those in force and HMC_TRIM_TRAIN's offset, clamped (R293, R306). -/
def Dev.trainTrim (d : Dev) (n lane : Nat) (write : Bool) : Nat :=
  let act := (d.word (pageHMC n + (if write then 0x074 else 0x068) + 4 * (lane / 4))).toNat / 2 ^ (8 * (lane % 4)) % 128
  let off := d.rd ((if write then HMC_TRIM_TRAIN.WR_OFF else HMC_TRIM_TRAIN.RD_OFF).on n)
  (min 127 (max 0 ((act : Int) + (if off < 64 then (off : Int) else (off : Int) - 128)))).toNat

/-- The byte lanes of a pseudo-channel (R293). -/
def lanesOf (pc : Nat) : List Nat := (List.range 5).map (· + 5 * pc)

/-- The lanes on which a training read differs from what the training requester wrote there (R306). -/
def Dev.laneErrors (d : Dev) (n : Nat) (q : BankEntry) : Dev :=
  match (d.hb n).trained.find? (fun t => t.1 == q.addr) with
  | none => d
  | some t =>
    let r := d.freeVal 32
    let bad := ((lanesOf (pcOf q.addr)).zip t.2).filter (fun l => Config.laneErr n l.1 (d.trainTrim n l.1 false) l.2 r.1)
    r.2.wr (HMC_TRAIN_ERR.LANE_ERR.on n) (d.rd (HMC_TRAIN_ERR.LANE_ERR.on n) ||| (bad.map (fun l => 2 ^ l.1)).sum)

/-- The entry leaves its queue for the stack (R289); a bank whose queue is empty then is refreshed (R290). -/
def Dev.issueBurst (d : Dev) (n : Nat) (q : BankEntry) (qpar : Bool) : Dev :=
  let rest := (d.hb n).queue.erase q
  let d := d.wr (HMC_STS.QEMPTY.on n) (ofBool rest.isEmpty)
  let d := if qpar then d.flag (HMC_FLT.Q_PAR.on n) else d
  let d := if (hbmIsRead q.op) then d.count (HMC_CNT_RD.COUNT.on n) (sectorsOf q.addr q.op)
    else d.count (HMC_CNT_WR.COUNT.on n) (sectorsOf q.addr q.op)
  let d := if qpar && !(hbmIsRead q.op) then d.spoilWords n (wordsOf q.addr (hbmSize q.op)) ((d.hb n).queue.takeWhile (· != q) ++ [q]) else d
  let trims := (lanesOf (pcOf q.addr)).map (fun l => d.trainTrim n l true)
  d.upHb n (fun x => { x with
    queue := x.queue.eraseIdx ((d.hb n).queue.takeWhile (· != q)).length
    unrefreshed := if rest.any (fun o => bankKey o.addr == bankKey q.addr) then x.unrefreshed else x.unrefreshed.filter (· != bankKey q.addr)
    trained := if q.req = 0x0E1 ∧ !(hbmIsRead q.op) then (q.addr, trims) :: x.trained.filter (fun t => t.1 != q.addr) else x.trained
    inflight := if (hbmIsRead q.op) || hbmIsRmw q.addr q.op then x.inflight ++ [{ q with poisoned := q.poisoned || qpar }] else x.inflight })

/-- One command slot of a pseudo-channel (R289); `qpar` says that the issued entry shows a queue parity error (R291). -/
def execCommandSlot (n : Fin 32) (pc : Fin 2) (qpar : Bool) (s : State) : Host.Outcome State Fault Refusal :=
  s.run fun _ d =>
    if !d.open_ (pageHMC n) then d
    else
      let r := d.slotPick n pc
      match r.1 with
      | none => d
      | some q =>
        r.2.issueBurst n q qpar

/-- The entry with the sector of its unit that showed an error as its address. -/
def errAt (q : BankEntry) (second : Bool) : BankEntry :=
  { q with addr := sectorOf q.addr + (if second ∧ 2 ≤ sectorsOf q.addr q.op then 32 else 0) }

/-- An error's sector is captured while its FLT_STS bit was 0 (R307); the firmware keeps clear of the row of an uncorrectable one (R292). -/
def Dev.hbmCe (d : Dev) (n : Nat) (q : BankEntry) : Dev :=
  let d := if d.bit (HMC_FLT.CE.on n) then d
    else ((d.wr (HMC_ECC_CE_ADDR.ADDR.on n) (sectorOf q.addr)).wr (HMC_ECC_CE_ADDR.REQ.on n) q.req).wr (HMC_ECC_CE_ADDR.VALID.on n) 1
  (d.count (HMC_CNT_CE.COUNT.on n) 1).flag (HMC_FLT.CE.on n)

def Dev.hbmUe (d : Dev) (n : Nat) (q : BankEntry) : Dev :=
  let d := if d.bit (HMC_FLT.UE.on n) then d
    else
      let d := d.upHb n (fun x => { x with badRows := x.badRows ++ [q.addr / 8192 * 8192] })
      ((d.wr (HMC_ECC_UE_ADDR.ADDR.on n) (sectorOf q.addr)).wr (HMC_ECC_UE_ADDR.REQ.on n) q.req).wr (HMC_ECC_UE_ADDR.VALID.on n) 1
  ((d.count (HMC_CNT_UE.COUNT.on n) 1).flag (HMC_FLT.UE.on n)).event (HMC_EVT.UE.on n)

/-- One entry's data is back: it goes to its requester, with its mark, who acts on poison; the words that a bad partial write covers in part
stay poisoned (R291, R292, R299). -/
def Dev.hbmDone (d : Dev) (now n : Nat) (q : BankEntry) (bad : Bool) : Dev :=
  let d := match q.op with
    | .write _ => d
    | _ => d.send (.hbmData q.req q.addr q.data bad q.failed)
  if !bad || q.failed then d
  else if (hbmIsRead q.op) then d.poisonTo now q.req q.use
  else d.spoilWords n (partWords q) []

/-- Forced refreshes whose bank has no burst in progress any more are done (R290). -/
def Dev.refreshed (d : Dev) (n : Nat) : Dev :=
  d.upHb n (fun x => { x with forced := x.forced.filter (fun k => x.inflight.any (fun q => bankKey q.addr == k)) })

/-- The data of entry `q` returns from pseudo-channel `pc` (R291); training bursts are outside SECDED reporting (R458). -/
def Dev.readReturn (d : Dev) (now n pc : Nat) (q : BankEntry) (r : HbmReturn) : Dev :=
  if r = .caParity then
    let all := (d.hb n).inflight.filter (fun q => pcOf q.addr == pc)
    let d := (d.upHb n (fun x => { x with inflight := x.inflight.filter (fun q => pcOf q.addr != pc) })).flag (HMC_FLT.CA_PAR.on n)
    (d.refreshed n).forEach all (fun d q => d.hbmDone now n q true)
  else
    let d := (d.upHb n (fun x => { x with inflight := x.inflight.erase q })).refreshed n
    if q.req = 0x0E1 then (if hbmIsRead q.op then d.laneErrors n q else d).hbmDone now n q false
    else
      let found : Option BankEntry := match r, q.sick with
        | .uncorrectable second, _ => some (errAt q second)
        | _, some w => some { q with addr := sectorOf w }
        | _, none => none
      let d := match found, r with
        | some f, _ => d.hbmUe n f
        | none, .corrected second => d.hbmCe n (errAt q second)
        | none, _ => d
      d.hbmDone now n q (q.poisoned || found.isSome)

/-- The oldest read in flight on a pseudo-channel returns (R291); its training mismatches are recorded (R306). -/
def execHbmReadReturn (n : Fin 32) (pc : Fin 2) (r : HbmReturn) (s : State) : Host.Outcome State Fault Refusal :=
  s.run fun e d =>
    match (d.hb n).inflight.find? (fun q => pcOf q.addr == pc.val) with
    | none => d
    | some q =>
      d.readReturn e.now n pc q r

/-- Refresh is to be doubled (R290). -/
def Dev.refDoubled (d : Dev) (n : Nat) : Bool :=
  d.bit (HMC_CTL.FORCE_2X.on n) || (d.bit (HMC_CTL.TEMP_AUTO.on n) && d.rd (HMC_STS.TEMP.on n) > 85)

/-- The refresh rate follows its controls; REF_2X is an event where doubling begins (R290, R302). -/
def Dev.refRate (d : Dev) (n : Nat) : Dev :=
  let was := d.bit (HMC_STS.REF_2X.on n)
  let d' := d.wr (HMC_STS.REF_2X.on n) (ofBool (d.refDoubled n))
  if d.refDoubled n && !was then d'.event (HMC_EVT.REF_2X.on n) else d'

/-- A bank's refresh interval runs out: where its queue was empty at no moment of the interval, the refresh is forced, at once or as soon as the
burst in progress ends (R290).  The next interval begins; the rate applies from it (R303). -/
def Dev.refreshBank (d : Dev) (n k : Nat) : Dev :=
  let x := d.hb n
  let d := if d.bit (HMC_CTL.SVC.on n) && x.unrefreshed.contains k then
      (d.count (HMC_CNT_FORCED_REF.COUNT.on n) 1).upHb n (fun x => { x with
        forced := if x.inflight.any (fun q => bankKey q.addr == k) then k :: x.forced else x.forced })
    else d
  (d.upHb n (fun x => { x with
    unrefreshed := (if (x.bankQueue k).isEmpty then [] else [k]) ++ x.unrefreshed.filter (· != k) })).refRate n

def execRefreshDue (n : Fin 32) (pc : Fin 2) (bank : Fin 32) (s : State) : Host.Outcome State Fault Refusal :=
  s.run fun _ d => d.refreshBank n (32 * pc.val + bank.val)

/-- The stack temperature is read (R290); the refresh rate changes with the next interval (R303). -/
def execStackTempRead (n : Fin 32) (temp : Fin 256) (s : State) : Host.Outcome State Fault Refusal :=
  s.run fun _ d => d.wr (HMC_STS.TEMP.on n) temp

/-! Accesses that other blocks' commands make at once (log entry 54). -/

/-- The controllers that hold bytes of a range. -/
def hmcsOf (a n : Nat) : List Nat :=
  if n = 0 then []
  else (((List.range (min 4 (n / 512 + 2))).map (fun i => min (a + 512 * i) (a + n - 1)) ++ (List.range 4).map (fun i => a + n - 1 - min (512 * i) (n - 1))).map
    hmcOf).eraseDups

/-- Requester `r` gets the range: no arbiter or controller of it is disabled, frozen or in initialisation (R294, R300). -/
def Dev.hbmTakes (d : Dev) (r a n : Nat) : Bool :=
  (hmcsOf a n).all (fun h => d.open_ (pageARB h) && d.open_ (pageHMC h) && d.svcTakes h r)

/-- Units and sectors that such an access moves count (R302, R308). -/
def Dev.hbmMoved (d : Dev) (write : Bool) (a n : Nat) : Dev :=
  if n = 0 then d
  else d.forEach (List.range ((a % 512 + n + 511) / 512)) (fun d i =>
    let lo := max a ((a / 512 + i) * 512)
    let hi := min (a + n) ((a / 512 + i + 1) * 512)
    let h := hmcOf lo
    (d.count ((if write then HMC_CNT_WR.COUNT else HMC_CNT_RD.COUNT).on h) ((hi - 1) / 32 - lo / 32 + 1)).count (ARB_CNT_UNITS.COUNT.on h)
      ((hi - 1) / 64 - lo / 64 + 1))

/-- Such a read: it counts, and so does every poisoned sector it meets (R291, R292). -/
def Dev.hbmReads (d : Dev) (r a n : Nat) : Dev :=
  let bad := ((wordsOf a n).filter (fun w => d.poison.contains w)).map sectorOf
  (d.hbmMoved false a n).forEach bad.eraseDups (fun d w =>
    d.hbmUe (hmcOf w) { req := r, use := .other, addr := w, op := .read 32, poisoned := true, failed := false })

/-- Such a write. -/
def Dev.hbmWrites (d : Dev) (a : Nat) (bs : List Byte) : Dev := (d.hbmMoved true a bs.length).store .hbm a bs

/-- HMC_TRIM_CMD.APPLY (R293). -/
def execTrimApply (n : Fin 32) (s : State) : Host.Outcome State Fault Refusal :=
  s.run fun _ d => d.wr (HMC_STS.TRIM_PEND.on n) 1

/-- The staged trims come into force together (R293). -/
def execTrimInForce (n : Fin 32) (s : State) : Host.Outcome State Fault Refusal :=
  s.run fun _ d =>
    if d.bit (HMC_STS.TRIM_PEND.on n) then
      let d := d.forEach (List.range 6) (fun d k => d.setWord (pageHMC n + 0x068 + 4 * k) (d.word (pageHMC n + 0x050 + 4 * k)))
      (d.wr (HMC_STS.TRIM_PEND.on n) 0).event (HMC_EVT.TRIM_APPLIED.on n)
    else d

end Sys2Proof.Machine
end

