-- ==== Sys2Proof/Machine/Ports.lean ====
section
/-!
DEFINITION. The Ethernet ports: link state, reception, flow control received, time stamps and PPS (R315 to R321, R339 to R343),
and the repetition of XOFF frames (R354).
-/

namespace Sys2Proof.Machine

/-- The receive side of a port has no block lock, no alignment (at 25 Gbit/s), or a local fault (R316). -/
def Dev.rxFault (d : Dev) (p : Nat) : Bool :=
  !d.bit (ETH_STS.BLOCK_LOCK.on p) || (d.rd (ETH_CTL.SPEED.on p) == 0 && !d.bit (ETH_STS.FEC_ALIGN.on p)) || d.bit (ETH_STS.LOCAL_FAULT.on p)

/-- The port signals a fault to its partner while its receive side has one (R316; what Clauses 46 and 81 define, log entry 222). -/
def Dev.signalFault (d old : Dev) (p : Nat) : Dev := if old.rxFault p == d.rxFault p then d else d.send (.lineFault p (d.rxFault p))

/-- The port has lock, alignment and no fault for 10 ms (R316). -/
def execLinkUp (p : Fin 8) (s : State) : Host.Outcome State Fault Refusal :=
  s.run fun _ d =>
    if d.linkUp p ∨ !d.enabled (pageETH p) then d
    else
      let old := d
      let d := ((d.wr (ETH_STS.BLOCK_LOCK.on p) 1).wr (ETH_STS.FEC_ALIGN.on p) (1 - d.rd (ETH_CTL.SPEED.on p))).wr (ETH_STS.LOCAL_FAULT.on p) 0
      let d := ((d.wr (ETH_STS.REMOTE_FAULT.on p) 0).wr (ETH_STS.LINK.on p) 1).signalFault old p
      (d.event (ETH_EVT.LINK_UP.on p)).flowControl p

/-- The port goes down: its output is flushed and its pause state cleared, received and generated (R316, R356). -/
def Dev.portDown (d : Dev) (p : Nat) : Dev :=
  if !d.linkUp p then d
  else
    let d := ((d.wr (ETH_STS.LINK.on p) 0).count (ETH_CNT_LINK_DOWN.COUNT.on p) 1).event (ETH_EVT.LINK_DOWN.on p)
    let d := (d.wr (ETH_STS.PAUSED.on p) 0).wr (ETH_STS.PFC_PAUSED.on p) 0
    let d := (d.wr (SWC_RXQ_STS.PAUSE_SENT.bk p) 0).wr (SWC_RXQ_STS.PFC_SENT.bk p) 0
    (d.upEth p (fun x => { x with xoffAll := false })).flushPort p

/-- What a port sees: block lock, RS-FEC alignment, faults.  At 10 Gbit/s there is no alignment to lose (R316). -/
def Dev.seeLoss (d : Dev) (p : Nat) : LinkLoss → Dev
  | .lock => (d.wr (ETH_STS.BLOCK_LOCK.on p) 0).wr (ETH_STS.FEC_ALIGN.on p) 0
  | .align => d.wr (ETH_STS.FEC_ALIGN.on p) 0
  | .localFault => d.wr (ETH_STS.LOCAL_FAULT.on p) 1
  | .remoteFault => d.wr (ETH_STS.REMOTE_FAULT.on p) 1

/-- The port goes down at the first loss, and signals a fault of its own receive side to the partner (R316). -/
def execLinkDown (p : Fin 8) (why : LinkLoss) (s : State) : Host.Outcome State Fault Refusal :=
  s.run fun _ d =>
    if why = .align ∧ d.rd (ETH_CTL.SPEED.on p) = 1 then d
    else ((d.seeLoss p why).signalFault d p).portDown p

/-! Flow control received (R318). -/

/-- The port takes what its partner sends; in loopback it takes its own transmissions only (R340). -/
def Dev.portReceives (d : Dev) (p : Nat) : Bool := d.portTakes p && !d.bit (ETH_CTL.LPBK.on p)

def execPauseFrame (p : Fin 8) (quanta : Fin 65536) (s : State) : Host.Outcome State Fault Refusal :=
  s.run fun _ d => if d.portReceives p then (d.ctlIn p).pauseIn p quanta else d

def execPfcFrame (p : Fin 8) (mask : Fin 256) (quanta : List (Fin 65536)) (s : State) : Host.Outcome State Fault Refusal :=
  s.run fun _ d => if d.portReceives p then (d.ctlIn p).pfcIn p mask (quanta.map (·.val)) else d

/-- A pause received runs out: of the port, or of a priority (R318). -/
def execPauseExpire (p : Fin 8) (prio : Option (Fin 8)) (s : State) : Host.Outcome State Fault Refusal :=
  s.run fun _ d =>
    match prio with
    | none => d.wr (ETH_STS.PAUSED.on p) 0
    | some k => d.wr (ETH_STS.PFC_PAUSED.on p) (bitsMask ((maskBits 8 (d.rd (ETH_STS.PFC_PAUSED.on p))).filter (· != k.val)))

/-- REFRESH quanta pass while XOFF is in force: the XOFF frame is repeated (R354). -/
def execPauseRefresh (p : Fin 8) (s : State) : Host.Outcome State Fault Refusal :=
  s.run fun _ d =>
    if !d.pauseReady p then d else
    let d := if d.fcMode p = 1 && d.bit (SWC_RXQ_STS.PAUSE_SENT.bk p) then d.sendPause p (d.quanta p) 0 else d
    if d.fcMode p = 2 && d.rd (SWC_RXQ_STS.PFC_SENT.bk p) ≠ 0 then d.sendPause p (d.quanta p) (d.rd (SWC_RXQ_STS.PFC_SENT.bk p)) else d

/-! Reception (R317, R319). -/

/-- A malformed frame that is always dropped is counted (R337). -/
def Dev.countMal (d : Dev) (reason : Nat) : Dev := d.count (CLS_CNT_MAL.COUNT reason) 1

/-- A time stamp: device time corrected by a signed 1/16 ns field, with an uncertainty of 2 ns either way (R319). -/
def Dev.stampAt (d : Dev) (now : Nat) (lat : Nat) : Nat × Dev :=
  let r := d.freeVal 32
  (((((now : Int) * 16 + signedOf 16 lat) / 16) + ((r.1 % 5 : Nat) : Int) - 2).toNat % 2 ^ 64, r.2)

/-- The largest frame, clamped (R341). -/
def Dev.maxFrame (d : Dev) (p : Nat) : Nat := clampNat 1518 9216 (d.rd (ETH_MAXFRM.LEN.on p))

/-- A frame goes into the receive queue, or finds it full: it is then discarded (R354). -/
def Dev.toRxq (d : Dev) (p : Nat) (f : RxFrame) : Dev :=
  if (d.eth p).fill + f.size > 262144 then (d.count (SWC_CNT_RXQ_DROP.COUNT.bk p) 1).event SWC_EVT.RXQ_DROP
  else (d.upEth p (fun x => { x with rxq := x.rxq ++ [f] })).flowControl p

/-- A frame that the port takes (R317): its bytes without FCS, and whether the FCS is good. -/
def Dev.receive (d : Dev) (now p : Nat) (bytes : List Byte) (fcsOk : Bool) : Dev :=
  let n := bytes.length + 4
  let d := (d.count (ETH_CNT_RX_FRAMES.COUNT.on p) 1).count (ETH_CNT_RX_BYTES.COUNT.on p) n
  if n < 64 then (d.count (ETH_CNT_RX_RUNT.COUNT.on p) 1).countMal 1
  else if n > d.maxFrame p then (d.count (ETH_CNT_RX_OVERSIZE.COUNT.on p) 1).countMal 3
  else if fcsOk && beNat (slice bytes 12 2) == 0x8808 then
    match beNat (slice bytes 14 2) with
    | 0x0001 => d.pauseIn p (beNat (slice bytes 16 2))
    | 0x0101 => d.pfcIn p (beNat (slice bytes 16 2)) ((List.range 8).map (fun k => beNat (slice bytes (18 + 2 * k) 2)))
    | _ => d.macDiscard p
  else
    let d := if fcsOk then d else d.count (ETH_CNT_RX_FCS.COUNT.on p) 1
    let r := d.stampAt now (d.rd (ETH_TS_LAT.RX.on p))
    r.2.toRxq p ⟨bytes, r.1, !fcsOk⟩

/-- The codewords of RS-FEC, which 25GBASE-R has, are counted (R339, R340). -/
def Dev.countFec (d : Dev) (p : Nat) (line : RxLine) : Dev :=
  if d.rd (ETH_CTL.SPEED.on p) = 1 then d
  else (d.count (ETH_CNT_FEC_CORR.COUNT.on p) line.corrected).count (ETH_CNT_FEC_UNCORR.COUNT.on p) line.uncorrectable

/-- A frame arrives from the partner. -/
def execFrameReceive (p : Fin 8) (bytes : List Byte) (line : RxLine) (s : State) : Host.Outcome State Fault Refusal :=
  s.run fun e d => if d.portReceives p then (d.countFec p line).receive e.now p bytes line.fcsOk else d

/-! Transmit time stamps and PPS (R319, R320, R343). -/

/-- The head of the time-stamp FIFO in its registers. -/
def Dev.showTxts (d : Dev) (p : Nat) : Dev :=
  let l := (d.eth p).txts
  let h := l.head?.getD (0, 0)
  ((d.wr (ETH_TXTS_TAG.COUNT.on p) l.length).wr (ETH_TXTS_TAG.TAG.on p) h.1).wr (ETH_TXTS.TIME.on p) h.2

/-- A transmit time is captured; a full FIFO drops it (R319). -/
def Dev.captureTx (d : Dev) (p tag time : Nat) : Dev :=
  if (d.eth p).txts.length ≥ 4 then d.event (ETH_EVT.TXTS_OVF.on p)
  else ((d.upEth p (fun x => { x with txts := x.txts ++ [(tag, time)] })).showTxts p).event (ETH_EVT.TXTS_AVAIL.on p)

/-- A write of 1 to ETH_TXTS_POP (R343). -/
def execTxtsPop (p : Fin 8) (s : State) : Host.Outcome State Fault Refusal :=
  s.run fun _ d => (d.upEth p (fun x => { x with txts := x.txts.drop 1 })).showTxts p

/-- A rising edge on PPS_IN (R320). -/
def execPpsInEdge (s : State) : Host.Outcome State Fault Refusal :=
  s.run fun e d =>
    if d.bit ETH_PPS_CFG.IN_EN then (d.wr ETH_PPS_IN_TS.TIME e.now).event ETH_EVT.PPS_IN else d

/-- The offset of PPS_OUT in force: a new one applies from the next second of device time (R343). -/
def Dev.ppsOffset (d : Dev) (now : Nat) : Int :=
  signedOf 32 (match d.net.ppsOld with
    | some o => if now / 1000000000 = o.2 then o.1 else d.rd ETH_PPS_OFS.OFS
    | none => d.rd ETH_PPS_OFS.OFS)

/-- ETH_PPS_OFS has been written: the offset it replaces stays in force for the rest of the second (R343). -/
def Dev.afterPpsOfs (old d : Dev) (now : Nat) : Dev :=
  d.upNet (fun n => { n with ppsOld := match n.ppsOld with
    | some o => if now / 1000000000 = o.2 then some o else some (old.rd ETH_PPS_OFS.OFS, now / 1000000000)
    | none => some (old.rd ETH_PPS_OFS.OFS, now / 1000000000) })

/-- Device time has passed a whole second plus the offset, by 4 ns at most (R320). -/
def Dev.ppsTime (d : Dev) (now : Nat) : Bool := decide (((now : Int) - d.ppsOffset now) % 1000000000 ≤ 4)

/-- PPS_OUT rises, to fall after WIDTH ms (R320). -/
def execPpsOutEdge (s : State) : Host.Outcome State Fault Refusal :=
  s.run fun e d =>
    if d.bit ETH_PPS_CFG.OUT_EN && d.ppsTime e.now then
      (d.send (.ppsOut true)).upNet (fun n => { n with ppsEnd := some (e.now + max 1 (d.rd ETH_PPS_CFG.WIDTH) * 1000000) })
    else d

end Sys2Proof.Machine
end

