-- ==== Sys2Proof/Machine/Parse.lean ====
section
/-!
DEFINITION. The parse engines: their program, run over a frame's first bytes (R322 to R327), and its loading (R326, R345).
-/

namespace Sys2Proof.Machine

/-- An engine's state while it parses a frame (R323). -/
structure ParseSt where
  c : Nat
  g : List Nat
  z : Bool
  lt : Bool
  gt : Bool
  miss : Bool
  csumBad : Bool
  m : Nat
  ofs : List Nat
  key : List Byte
  deriving DecidableEq, Repr

def parseStart : ParseSt :=
  { c := 0, g := List.replicate 8 0, z := false, lt := false, gt := false, miss := false, csumBad := false, m := 0
    ofs := List.replicate 4 0, key := List.replicate 40 0 }

/-- What a run sees: the frame without FCS, its port, the depth, the step limit, the program and its match tables. -/
structure ParseEnv where
  bytes : List Byte
  port : Nat
  depth : Nat
  steps : Nat
  words : List Nat
  tables : List Nat

/-- What a word does: go on, end the frame, or end it as PROG (R324). -/
inductive WordEnd where
  | next (s : ParseSt)
  | stop (r : ParseEnd) (code : Nat)
  | illegal

/-- Bits `hi` to `lo` of a word. -/
def wbits (w hi lo : Nat) : Nat := w / 2 ^ lo % 2 ^ (hi + 1 - lo)

/-- The malformed reason of an access to `n` bytes from `a` on, if any (R323): TRUNC beyond the frame, DEPTH beyond the window. -/
def ParseEnv.access (e : ParseEnv) (a n : Nat) : Option Nat :=
  let lim := min e.bytes.length e.depth
  if n = 0 ∨ a + n ≤ lim then none else if max a lim ≥ e.bytes.length then some 5 else some 4

/-- The effect of a word with the bytes it reads. -/
def ParseEnv.withBytes (e : ParseEnv) (a n : Nat) (f : List Byte → WordEnd) : WordEnd :=
  match e.access a n with
  | some r => .stop (.malformed r) 0
  | none => f (slice e.bytes a n)

def ParseSt.compare (s : ParseSt) (a b : Nat) : ParseSt := { s with z := a == b, lt := a < b, gt := b < a }

/-- The key with bytes written from position `k` on. -/
def keyPut (key : List Byte) (k : Nat) (bs : List Byte) : List Byte := key.take k ++ bs ++ key.drop (k + bs.length)

/-- One's-complement sum of 16-bit words, folded. -/
def onesSum : List Byte → Nat
  | [] => 0
  | [a] => a.toNat * 256
  | a :: b :: r => let t := a.toNat * 256 + b.toNat + onesSum r; t % 65536 + t / 65536

/-- The internet checksum over bytes: the complement of the one's-complement sum. -/
def inetSum (bs : List Byte) : Nat := let t := onesSum bs; 65535 - (t % 65536 + t / 65536) % 65536

/-- First entry of a match table that matches a value (R325). -/
def matchFirst (v : Nat) : List Nat → Nat → Option Nat
  | [], _ => none
  | e :: l, i => if v &&& (e / 65536) = e % 65536 then some i else matchFirst v l (i + 1)

/-- The ALU (R325). -/
def aluOp (fn a b : Nat) : Nat :=
  (match fn with
    | 0 => a + b
    | 1 => a + 2 ^ 32 - b % 2 ^ 32
    | 2 => a &&& b
    | 3 => a ||| b
    | 4 => a ^^^ b
    | 5 => a * 2 ^ (b % 32)
    | 6 => a / 2 ^ (b % 32)
    | _ => b) % 2 ^ 32

/-- The effect of one word (R325). -/
def ParseEnv.word (e : ParseEnv) (s : ParseSt) (w : Nat) : WordEnd :=
  let off := s.c + wbits w 44 37
  let gd := wbits w 36 34
  let v := s.g.getD gd 0
  let set (x : Nat) : ParseSt := { s with g := s.g.set gd x }
  let left := e.bytes.length - off
  match wbits w 63 59 with
  | 0 => .next s
  | 1 =>
    let nb := wbits w 28 23
    if nb = 0 ∨ nb > 32 then .illegal
    else e.withBytes off (wbits w 21 20 + 1) fun bs => .next (set (beNat bs / 2 ^ wbits w 33 29 % 2 ^ nb))
  | 2 =>
    match wbits w 33 30 with
    | 0 => .next (set e.bytes.length)
    | 1 => .next (set e.port)
    | 2 => .next (set s.c)
    | 3 => .next (set (e.bytes.length - s.c))
    | _ => .illegal
  | 3 => .next (set (wbits w 31 0))
  | 4 =>
    let b := if wbits w 30 30 = 1 then s.g.getD (wbits w 29 27) 0 else wbits w 15 0
    let x := aluOp (wbits w 33 31) v b
    .next { (set x) with z := x == 0 }
  | 5 =>
    if wbits w 33 33 = 1 then (if wbits w 29 0 = 0 then .next (s.compare v (s.g.getD (wbits w 32 30) 0)) else .illegal)
    else if wbits w 32 32 = 0 then .next (s.compare v (wbits w 31 0)) else .illegal
  | 6 =>
    match matchFirst (v % 65536) ((e.tables.drop (16 * wbits w 33 30)).take 16) 0 with
    | some i => .next { s with m := i, miss := false }
    | none => .next { s with m := 0, miss := true }
  | 7 =>
    let c := off + (if wbits w 33 33 = 1 then v * 2 ^ wbits w 32 31 else 0)
    if c > 255 then .stop (.malformed 4) 0 else .next { s with c := c }
  | 8 => .next { s with ofs := s.ofs.set (wbits w 33 32) off }
  | 9 =>
    let n := wbits w 27 22
    let k := wbits w 33 28
    if n = 0 ∨ n > 40 ∨ k + n > 40 then .illegal
    else e.withBytes off n fun bs => .next { s with key := keyPut s.key k bs }
  | 10 =>
    let n := wbits w 23 22 + 1
    let k := wbits w 33 28
    if k + n > 40 then .illegal else .next { s with key := keyPut s.key k (natBE n v) }
  | 11 => e.withBytes off (v * 4) fun bs => .next { s with csumBad := inetSum bs != 0 }
  | 12 => .next (s.compare left v)
  | 13 =>
    let q := wbits w 31 29
    let code := wbits w 7 0
    match wbits w 33 32 with
    | 0 => .stop .lookup code
    | 1 => if q > 3 then .illegal else .stop (.punt q code) code
    | 2 => .stop (.host q code) code
    | _ => .stop .drop code
  | 14 => .stop (.malformed (if wbits w 3 0 < 4 then 10 else wbits w 3 0)) 0
  | _ => .illegal

/-- The condition bits of a word (R324), taken after its effect. -/
def condBits (s : ParseSt) (w : Nat) : Nat :=
  let grp := match wbits w 46 45 with
    | 0 => ofBool s.z + 2 * ofBool s.lt + 4 * ofBool s.gt + 8 * ofBool s.miss
    | 1 => s.m
    | 2 => s.g.getD 0 0
    | _ => ofBool s.csumBad
  grp % 2 ^ wbits w 49 47

/-- How a run ended: the result, END's CODE, the engine's state, the words executed, and for PROG the cause and the word. -/
structure ParseRun where
  result : ParseEnd
  code : Nat
  st : ParseSt
  words : Nat
  prog : Option (Nat × Nat)

/-- The program from address `a` on, `n` words executed so far (R323, R324). -/
def ParseEnv.run (e : ParseEnv) : Nat → ParseSt → Nat → Nat → ParseRun
  | 0, s, a, n => ⟨.malformed 10, 0, s, n, some (2, a)⟩
  | fuel + 1, s, a, n =>
    match e.words[a]? with
    | none => ⟨.malformed 10, 0, s, n, some (3, a)⟩
    | some w =>
      if wbits w 49 47 > 4 then ⟨.malformed 10, 0, s, n + 1, some (1, a)⟩
      else match e.word s w with
        | .illegal => ⟨.malformed 10, 0, s, n + 1, some (1, a)⟩
        | .stop r code => ⟨r, code, s, n + 1, none⟩
        | .next t =>
          let b := wbits w 58 50 ||| condBits t w
          if b ≥ e.words.length then ⟨.malformed 10, 0, t, n + 1, some (3, a)⟩ else e.run fuel t b (n + 1)

/-! The Kelovoim default program (R327).  The spec gives what it does with a frame and not its words.  Where a frame has several of the faults
of the table, the one met first on the way through the frame ends it (DESIGN CHOICE, log entry 184). -/

/-- The bytes that the program reads at `a`, or the malformed reason that the access ends with (R323). -/
def ParseEnv.take (e : ParseEnv) (a n : Nat) : Except Nat (List Byte) :=
  match e.access a n with
  | some r => .error r
  | none => .ok (slice e.bytes a n)

/-- What the way through a frame has found: tags counted, the outermost VLAN ID, whether a tunnel was entered, and its VNI or key. -/
structure Way where
  tags : Nat := 0
  vlan : Nat := 0
  tunnel : Bool := false
  vni : Nat := 0
  deriving DecidableEq, Repr

/-- A frame that the program ends itself: the result, its CODE, the key and the four marks. -/
structure KelovoimEnd where
  result : ParseEnd
  code : Nat
  key : List Byte := []
  ofs : List Nat := List.replicate 4 0
  deriving DecidableEq, Repr

/-- The tags from the EtherType position `a` on; a fifth ends the frame with TAGS.  The answer is the EtherType and the offset behind it. -/
def ParseEnv.tagged (e : ParseEnv) : Nat → Way → Nat → Except Nat (Way × Nat × Nat)
  | 0, _, _ => .error 9
  | n + 1, w, a => do
    let t := beNat (← e.take a 2)
    if t ≠ 0x8100 ∧ t ≠ 0x88A8 then return (w, t, a + 2)
    else if w.tags = 4 then throw 9
    else
      let id := beNat (← e.take (a + 2) 2) % 4096
      e.tagged n { w with tags := w.tags + 1, vlan := if w.tags = 0 then id else w.vlan } (a + 4)

/-- Bytes 0 to 3 of every key: profile, tags, tunnel and port, outermost VLAN ID. -/
def ParseEnv.keyHead (e : ParseEnv) (profile : Nat) (w : Way) : List Byte :=
  natBE 1 profile ++ natBE 1 (w.tags * 16 + ofBool w.tunnel * 8 + e.port) ++ natBE 2 w.vlan

/-- Other Ethernet: profile 5, of the frame's own Ethernet header. -/
def ParseEnv.otherEthernet (e : ParseEnv) (w : Way) : Except Nat KelovoimEnd := do
  let (_, t, _) ← e.tagged 5 {} 12
  let key := e.keyHead 5 w ++ natBE 2 t ++ (← e.take 0 6) ++ (← e.take 6 6)
  return { result := .lookup, code := Config.kelovoimCode 5 % 256, key := key ++ List.replicate 22 0 }

/-- The key of profiles 1 and 2; of a multicast destination's source neither port nor address. -/
def ParseEnv.flowKey (e : ParseEnv) (w : Way) (v6 : Bool) (src dst : List Byte) (sport dport : Nat) : List Byte :=
  let multicast := if v6 then slice dst 0 1 == [255] else beNat (slice dst 0 1) / 16 == 14
  let src := if multicast then List.replicate 12 0 else if v6 then src.drop 4 else List.replicate 8 0 ++ src
  e.keyHead (if v6 then 2 else 1) w ++ natBE 4 w.vni ++ natBE 2 dport ++ natBE 2 (if multicast then 0 else sport)
    ++ (if v6 then dst else List.replicate 12 0 ++ dst) ++ src

/-- The payload behind an RTP header of version 2 at `a`, with its CSRCs and its header extension; 0 where there is none, or where what says so
lies beyond the frame or the window. -/
def ParseEnv.rtpMark (e : ParseEnv) (a : Nat) : Nat :=
  match e.take a 1 with
  | .error _ => 0
  | .ok b =>
    let b := beNat b
    let h := a + 12 + 4 * (b % 16)
    if b / 64 ≠ 2 then 0
    else if b / 16 % 2 = 0 then h
    else match e.take (h + 2) 2 with
      | .error _ => 0
      | .ok n => h + 4 + 4 * beNat n

/-- A punt of the table, with the mark of the L3 header. -/
def puntAt (queue code l3 : Nat) : KelovoimEnd := { result := .punt queue code, code := code, ofs := [l3, 0, 0, 0] }

/-- What follows a tunnel header: its content as an EtherType and an offset.  There is none inside a tunnel. -/
abbrev Inner := Option (Way → Nat → Nat → Except Nat KelovoimEnd)

/-- An Ethernet frame inside a tunnel, at `a`. -/
def ParseEnv.innerEth (e : ParseEnv) (inner : Way → Nat → Nat → Except Nat KelovoimEnd) (w : Way) (a : Nat) : Except Nat KelovoimEnd := do
  let (w, t, a) ← e.tagged 5 w (a + 12)
  inner w t a

/-- UDP: its lengths, PTP, VXLAN, and else the lookup of the flow.  Ports 319, 320 and 4789 are destination ports (DEDUCED, log entry 184). -/
def ParseEnv.udp (e : ParseEnv) (inner : Inner) (w : Way) (v6 : Bool) (l3 l4 : Nat) (src dst : List Byte) : Except Nat KelovoimEnd := do
  let h ← e.take l4 8
  let dport := beNat (slice h 2 2)
  let len := beNat (slice h 4 2)
  if len < 8 ∨ l4 + len > e.bytes.length then throw 7
  else if dport = 319 ∨ dport = 320 then return { puntAt 0 1 l3 with ofs := [l3, l4, l4 + 8, 0] }
  else match (if dport = 4789 then inner else none) with
    | some go =>
      let x ← e.take (l4 + 8) 8
      e.innerEth go { w with tunnel := true, vni := beNat (slice x 4 3) } (l4 + 16)
    | none =>
      let p := if v6 then 2 else 1
      return { result := .lookup, code := Config.kelovoimCode p % 256, ofs := [l3, l4, l4 + 8, e.rtpMark (l4 + 8)]
               key := e.flowKey w v6 src dst (beNat (slice h 0 2)) dport }

/-- GRE: checksum, key and sequence number where its flags say so; IPv4, IPv6 or Ethernet inside. -/
def ParseEnv.gre (e : ParseEnv) (go : Way → Nat → Nat → Except Nat KelovoimEnd) (w : Way) (a : Nat) : Except Nat KelovoimEnd := do
  let h ← e.take a 4
  let f := beNat (slice h 0 2)
  let t := beNat (slice h 2 2)
  let ck := 4 * (f / 0x8000 % 2)
  let k := 4 * (f / 0x2000 % 2)
  let sq := 4 * (f / 0x1000 % 2)
  let w := { w with tunnel := true, vni := beNat (← e.take (a + 4 + ck) k) }
  if t = 0x6558 then e.innerEth go w (a + 4 + ck + k + sq) else go w t (a + 4 + ck + k + sq)

/-- What an IP header carries. -/
def ParseEnv.upper (e : ParseEnv) (inner : Inner) (w : Way) (v6 : Bool) (l3 l4 proto : Nat) (src dst : List Byte) : Except Nat KelovoimEnd := do
  if proto = 17 then e.udp inner w v6 l3 l4 src dst
  else if proto = 58 ∧ v6 then
    let t := beNat (← e.take l4 1)
    return if (130 ≤ t ∧ t ≤ 132) ∨ t = 143 then puntAt 1 3 l3 else if 133 ≤ t ∧ t ≤ 137 then puntAt 2 5 l3 else puntAt 3 6 l3
  else if proto = 1 ∧ !v6 then return puntAt 3 6 l3
  else if proto = 2 ∧ !v6 then return puntAt 1 2 l3
  else match (if proto = 47 then inner else none) with
    | some go => e.gre go w l4
    | none => e.otherEthernet w

/-- IPv4: version and IHL, header checksum, no fragment, total length. -/
def ParseEnv.ipv4 (e : ParseEnv) (inner : Inner) (w : Way) (a : Nat) : Except Nat KelovoimEnd := do
  let b := beNat (← e.take a 1)
  if b / 16 ≠ 4 ∨ b % 16 < 5 then throw 8
  else
    let h ← e.take a (4 * (b % 16))
    if inetSum h ≠ 0 then throw 6
    else if beNat (slice h 6 2) % 0x4000 ≠ 0 then throw 8
    else if a + beNat (slice h 2 2) > e.bytes.length then throw 7
    else e.upper inner w false a (a + 4 * (b % 16)) (beNat (slice h 9 1)) (slice h 12 4) (slice h 16 4)

/-- The IPv6 extension headers from `a` on; a fragment ends the frame with HDR.  The answer is the upper protocol and its offset. -/
def ParseEnv.extensions (e : ParseEnv) : Nat → Nat → Nat → Except Nat (Nat × Nat)
  | 0, _, _ => .error 4
  | n + 1, nh, a => do
    if nh = 44 then throw 8
    else if nh ≠ 0 ∧ nh ≠ 43 ∧ nh ≠ 60 then return (nh, a)
    else
      let x ← e.take a 2
      e.extensions n (beNat (slice x 0 1)) (a + 8 * (beNat (slice x 1 1) + 1))

/-- IPv6: payload length and extension headers. -/
def ParseEnv.ipv6 (e : ParseEnv) (inner : Inner) (w : Way) (a : Nat) : Except Nat KelovoimEnd := do
  let h ← e.take a 40
  if a + 40 + beNat (slice h 4 2) > e.bytes.length then throw 7
  else
    let (proto, l4) ← e.extensions 32 (beNat (slice h 6 1)) (a + 40)
    e.upper inner w true a l4 proto (slice h 8 16) (slice h 24 16)

/-- The content behind an EtherType. -/
def ParseEnv.content (e : ParseEnv) (inner : Inner) (w : Way) (t a : Nat) : Except Nat KelovoimEnd :=
  if t = 0x88F7 then .ok (puntAt 0 1 0)
  else if t = 0x0806 then .ok (puntAt 2 4 0)
  else if t = 0x0800 then e.ipv4 inner w a
  else if t = 0x86DD then e.ipv6 inner w a
  else e.otherEthernet w

/-- The default program's result for a frame (R327): the malformed reason, or the end it gives the frame. -/
def ParseEnv.kelovoim (e : ParseEnv) : Except Nat KelovoimEnd := do
  let (w, t, a) ← e.tagged 5 {} 12
  e.content (some (e.content none)) w t a

/-- A run of the default program: at most 52 words (R322), and PROG where PSE_CFG.STEPS allows fewer than it takes. -/
def ParseEnv.runDefault (e : ParseEnv) : ParseRun :=
  let n := clampNat 1 52 (Config.kelovoimWords e.bytes)
  let key := natBE 1 (Config.kelovoimLeft e.bytes 4) ++ List.replicate 39 0
  let left := { parseStart with key := key, ofs := (List.range 4).map (fun k => Config.kelovoimLeft e.bytes k % 256) }
  if n > e.steps then ⟨.malformed 10, 0, left, e.steps, some (2, Config.kelovoimLeft e.bytes 5 % 512)⟩
  else match e.kelovoim with
    | .error r => ⟨.malformed r, 0, left, n, none⟩
    | .ok x => ⟨x.result, x.code, { parseStart with key := if x.result = .lookup then x.key else key, ofs := x.ofs }, n, none⟩

def Dev.pse (d : Dev) (e : Nat) : Pse := storeGet (fun _ => Pse.reset) d.net.pses e
def Dev.upPse (d : Dev) (e : Nat) (f : Pse → Pse) : Dev :=
  d.upNet (fun n => { n with pses := storeSet (fun _ => Pse.reset) n.pses e (f (d.pse e)) })

/-- SERVICE of an engine (R345). -/
def Dev.setPseService (d : Dev) (e v : Nat) : Dev := d.wr (PSE_STS.SERVICE.on e) v

/-- The program of an engine is not valid any more: a check failed, or its store has a parity error (R213, R326, R345). -/
def Dev.pseInvalid (d : Dev) (e : Nat) : Dev := (d.wr (PSE_UC_GEN.GEN.on e) 0).setPseService e 2

/-- A PROG end is recorded (R324, R345). -/
def Dev.recordProg (d : Dev) (e : Nat) (p : Nat × Nat) : Dev :=
  let d := (d.count (PSE_CNT_PROG.COUNT.on e) 1).wr (PSE_LAST_PROG.VALID.on e) 1
  (d.wr (PSE_LAST_PROG.CAUSE.on e) p.1).wr (PSE_LAST_PROG.WORD.on e) p.2

/-- Frame `f` is parsed by an engine (R323 to R327); `rest` are the frames that wait behind it. -/
def Dev.parse (d : Dev) (engine p : Nat) (f : RxFrame) (rest : List RxFrame) (stPar : Bool) : Dev :=
  let x := d.pse engine
  let env : ParseEnv := { bytes := f.bytes, port := p, depth := clampNat 64 128 (d.rd PSE_CFG.DEPTH)
                          steps := max 16 (d.rd PSE_CFG.STEPS), words := x.words, tables := x.tables }
  let r : ParseRun := if stPar then ⟨.malformed 10, 0, parseStart, 0, some (1, 0)⟩ else if x.kelovoim then env.runDefault else env.run env.steps parseStart 0 0
  let d := (d.count (PSE_CNT_PKTS.COUNT.on engine) 1).count (PSE_CNT_INSTR.COUNT.on engine) r.words
  let d := match r.prog with | some q => d.recordProg engine q | none => d
  let d := if stPar then (d.flag (PSE_FLT.ST_PAR.on engine)).pseInvalid engine else d
  (d.upEth p (fun x => { x with rxq := rest, parsed := x.parsed ++ [⟨f, r.result, r.st.key, r.st.ofs, r.code⟩] })).flowControl p

/-- An engine takes the frame at the head of a port's receive queue and parses it (R322, R323).  A frame waits while 16 parsed frames
of its port wait.  `stPar` tells a parity error in the engine's store: the frame ends PROG and the engine leaves service (R345). -/
def execParseFrame (engine : Fin 16) (p : Fin 8) (stPar : Bool) (s : State) : Host.Outcome State Fault Refusal :=
  s.run fun _ d =>
    match (d.eth p).rxq with
    | [] => d
    | f :: rest =>
      if !d.open_ (pagePSE engine) || d.rd (PSE_STS.SERVICE.on engine) != 1 || (d.eth p).parsed.length ≥ 16 then d
      else
        d.parse engine p f rest stPar

/-! Loading (R326, R345). -/

def Dev.pseIdle (d : Dev) (e : Nat) : Bool := d.idleUnless (pagePSE e) ((d.pse e).op != 0) false

/-- PSE_UC_CMD LOAD: idle-only. -/
def execPseLoad (e : Fin 16) (s : State) : Host.Outcome State Fault Refusal :=
  s.run fun _ d => if d.pseIdle e then d.upPse e (fun x => { x with op := 1 }) else d.ignored (pagePSE e) 0x040

/-- PSE_UC_CMD CHECK: idle-only. -/
def execPseCheck (e : Fin 16) (s : State) : Host.Outcome State Fault Refusal :=
  s.run fun _ d => if d.pseIdle e then d.upPse e (fun x => { x with op := 2 }) else d.ignored (pagePSE e) 0x040

/-- The digest of a program and its match tables (R326). -/
def pseDigest (words tables : List Nat) : List Byte := Config.sha384 (words.flatMap (natLE 8) ++ tables.flatMap (natLE 4))

/-- The result of a digest check against the manifest: 1 PASS, 2 MISMATCH, 3 NO_ENTRY (R213). -/
def pseCheckResult (man : List ManEntry) (gen : Nat) (words tables : List Nat) : Nat :=
  match man.find? (fun m => m.gen == gen) with
  | none => 3
  | some m => if m.len = words.length ∧ m.digest = pseDigest words tables then 1 else 2

/-- A load or check ends with a result (R326). -/
def Dev.pseEnds (d : Dev) (e r : Nat) : Dev :=
  ((d.wr (PSE_STS.RESULT.on e) r).setPseService e (if r = 1 then 1 else 2)).event (PSE_EVT.LOAD_DONE.on e)

/-- A load ends (R326): the image is fetched, read back and checked; `poison` tells an uncorrectable error in the fetch. -/
def Dev.pseLoaded (d : Dev) (env : Env) (e : Nat) (poison : Bool) : Dev :=
  let gen := d.rd (PSE_UC_LOADCFG.GEN.on e)
  let len := d.rd (PSE_UC_LOADCFG.LEN.on e)
  let a := d.rd (PSE_UC_SRC.ADDR.on e) * 64
  let words := (List.range len).map (fun i => leNat (env.bytes .hbm (a + 8 * i) 8))
  let tables := (List.range 256).map (fun i => leNat (env.bytes .hbm (a + 8 * len + 4 * i) 4))
  let r := if len = 0 ∨ len > 512 then 5
    else match d.pseMan.find? (fun m => m.gen == gen) with
      | none => 3
      | some m => if m.len ≠ len then 5
          else if poison || d.poisoned a (8 * len + 1024) then 7 else pseCheckResult d.pseMan gen words tables
  let d := d.upPse e (fun x => { x with op := 0 })
  let d := if r = 1 ∨ r = 2 then d.upPse e (fun x => { x with
      words := words, tables := tables, kelovoim := pseDigest words tables == Config.kelovoimDigest }) else d
  (d.wr (PSE_UC_GEN.GEN.on e) (if r = 1 then gen else 0)).pseEnds e r

/-- A check ends (R213, R326): a program that is not valid has no entry, and one that does not pass is not valid any more. -/
def Dev.pseChecked (d : Dev) (e : Nat) : Dev :=
  let gen := d.rd (PSE_UC_GEN.GEN.on e)
  let r := if gen = 0 then 3 else pseCheckResult d.pseMan gen (d.pse e).words (d.pse e).tables
  let d := d.upPse e (fun x => { x with op := 0 })
  (if r = 1 then d else d.pseInvalid e).pseEnds e r

/-- The load (1) or check (2) in progress ends; device safe state holds it (R326, R444). -/
def execPseLoadDone (e : Fin 16) (poison : Bool) (s : State) : Host.Outcome State Fault Refusal :=
  s.run fun env d =>
    match (if d.safe then 0 else (d.pse e).op) with
    | 1 => d.pseLoaded env e poison
    | 2 => d.pseChecked e
    | _ => d

end Sys2Proof.Machine
end

