-- ==== Sys2Proof/Machine/Settings.lean ====
section
/-!
DEFINITION. The settings store, a journal in SPI NOR: its sectors and records, their scan, and how the firmware appends, compacts and
erases, one flash operation after another (R469 to R472, R502).
-/

namespace Sys2Proof.Machine

/-- One byte of CRC-32C, reflected (Castagnoli). -/
def crc32cByte (c : Nat) (b : Byte) : Nat :=
  (List.range 8).foldl (fun c _ => if c % 2 = 1 then (c / 2) ^^^ 0x82F63B78 else c / 2) (c ^^^ b.toNat)

def crc32c (seed : Nat) (bs : List Byte) : Nat := bs.foldl crc32cByte seed ^^^ 0xFFFFFFFF

/-- The CRC of headers and records: CRC-32C with its standard initial value (PRESUMED, log entry 186). -/
def storeCrc (bs : List Byte) : Nat := crc32c 0xFFFFFFFF bs

def Dev.upSec (d : Dev) (f : Sec → Sec) : Dev := { d with sec := f d.sec }

/-- What the flash answers: `n` bytes from an address on. -/
abbrev Flash := Nat → Nat → List Byte

def Env.flash (e : Env) (d : Dev) : Flash := fun a n => (e.seen d).bytes .nor a n

/-- Programming clears bits (R509). -/
def Dev.program (d : Dev) (e : Env) (a : Nat) (bs : List Byte) : Dev :=
  d.store .nor a (((e.flash d a bs.length).zip bs).map (fun x => x.1 &&& x.2))

/-- Sector `k` of the 128. -/
def sectorBase (k : Nat) : Nat := 0x03400000 + 65536 * k

def allErased (bs : List Byte) : Bool := bs.all (· == 0xFF)

/-- A sector in use: ERASES and SSEQ of its header, where the header is valid (R469). -/
def inUse (f : Flash) (k : Nat) : Option (Nat × Nat) :=
  let h := f (sectorBase k) 16
  if leNat (slice h 0 4) = 0x4A53564B ∧ leNat (slice h 12 4) = storeCrc (h.take 12) then some (leNat (slice h 4 4), leNat (slice h 8 4)) else none

/-- An erased sector: its ERASES, programmed after the erase; MAGIC, SSEQ and CRC follow when it is opened (R469, R471; DESIGN CHOICE, log
entry 186: the spec does not say which bytes of the header are written when). -/
def erasedSector (f : Flash) (k : Nat) : Option Nat :=
  let h := f (sectorBase k) 64
  let n := leNat (slice h 4 4)
  if allErased (slice h 0 4) && n != 2 ^ 32 - 1 && allErased (slice h 8 56) then some n else none

/-- ERASES of a sector, where its header can be read. -/
def erasesOf (f : Flash) (k : Nat) : Option Nat := ((inUse f k).map (·.1)).or (erasedSector f k)

/-- A record of the store (R470). -/
structure StoreRec where
  sector : Nat
  type : Nat
  gen : Nat
  rseq : Nat
  body : List Byte
  deriving DecidableEq, Repr

/-- Bytes a record with a body of `n` takes. -/
def recSpan (n : Nat) : Nat := 32 + (n + 7) / 8 * 8

/-- The scan of sector `k` from offset `p` on (R470): its valid records, and where the next one may be put.  It stops at the first wrong MAGIC
or COMMIT that is not 0; what follows is closed, but for space still erased. -/
def scanFrom (f : Flash) (k : Nat) : Nat → Nat → List StoreRec × Option Nat
  | 0, _ => ([], none)
  | fuel + 1, p =>
    if p + 40 > 65536 then ([], none)
    else
      let h := f (sectorBase k + p) 32
      let len := leNat (slice h 4 4)
      if allErased h then ([], some p)
      else if leNat (slice h 0 2) ≠ 0x5243 ∨ leNat (slice h 28 4) ≠ 0 ∨ len = 0 ∨ len > 32768 ∨ p + recSpan len > 65536 then ([], none)
      else
        let body := f (sectorBase k + p + 32) len
        let r := scanFrom f k fuel (p + recSpan len)
        if leNat (slice h 24 4) = storeCrc (h.take 24 ++ body) then
          ({ sector := k, type := leNat (slice h 2 2), gen := leNat (slice h 8 4), rseq := leNat (slice h 16 8), body := body } :: r.1, r.2)
        else r

def scanSector (f : Flash) (k : Nat) : List StoreRec × Option Nat := if (inUse f k).isSome then scanFrom f k 1640 64 else ([], none)

/-- The valid records of the store. -/
def storeRecs (f : Flash) : List StoreRec := (List.range 128).flatMap (fun k => (scanSector f k).1)

/-- The entry of a list for which `key` is greatest, the first of several. -/
def greatestBy {α : Type} (key : α → Nat) (l : List α) : Option α :=
  l.foldl (fun b x => match b with | none => some x | some y => if key y < key x then some x else some y) none

/-- The current record of a type and generation: the one with the highest RSEQ (R470). -/
def currentRec (l : List StoreRec) (type gen : Nat) : Option StoreRec := greatestBy (·.rseq) (l.filter (fun r => r.type == type && r.gen == gen))

/-- The generations present, and the 4 highest, which are kept (R502). -/
def gensPresent (l : List StoreRec) : List Nat := (l.map (·.gen)).eraseDups
def gensKept (l : List StoreRec) : List Nat :=
  let g := gensPresent l
  g.filter (fun x => decide ((g.filter (fun y => x < y)).length < 4))

/-- A record is current and of a generation still kept. -/
def liveRec (l : List StoreRec) (r : StoreRec) : Bool :=
  (gensKept l).contains r.gen && (currentRec l r.type r.gen).any (fun c => c.rseq == r.rseq)

/-- The sectors in use with their SSEQ; the head has the highest (R469), and the lowest is the next to be compacted (R471). -/
def usedSectors (f : Flash) : List (Nat × Nat) := (List.range 128).filterMap (fun k => (inUse f k).map (fun h => (k, h.2)))
def headSector (f : Flash) : Option (Nat × Nat) := greatestBy (·.2) (usedSectors f)
def oldestSector (f : Flash) : Option Nat := (greatestBy (fun s => 2 ^ 32 - s.2) (usedSectors f)).map (·.1)

/-- The erase of a sector and the ERASES that follow it: one more than before, or the highest of any sector where its own cannot be read (R471). -/
def eraseSteps (f : Flash) (k : Nat) : List FlashStep :=
  let n := match erasesOf f k with
    | some n => n + 1
    | none => ((List.range 128).filterMap (erasesOf f)).foldl max 0
  [.erase (sectorBase k), .program (sectorBase k + 4) (natLE 4 (min n (2 ^ 32 - 2)))]

/-- The next sector that is not in use is opened, with SSEQ one above the head's; one without a valid header is erased first (R471, R472). -/
def openSteps (f : Flash) : List FlashStep :=
  let h := headSector f
  let order := match h with | some h => (List.range 127).map (fun i => (h.1 + 1 + i) % 128) | none => List.range 128
  match order.find? (fun k => (inUse f k).isNone) with
  | none => []
  | some k =>
    match erasedSector f k with
    | none => eraseSteps f k
    | some n =>
      let b := natLE 4 0x4A53564B ++ natLE 4 n ++ natLE 4 (match h with | some h => h.2 + 1 | none => 1)
      [.program (sectorBase k) (b ++ natLE 4 (storeCrc b))]

/-- A record goes to the head where it fits: all but COMMIT, then COMMIT (R470); else the next sector is opened.  The answer says whether it
was placed. -/
def placeSteps (f : Flash) (type gen rseq : Nat) (body : List Byte) : List FlashStep × Bool :=
  let at_ : Option Nat := (headSector f).bind (fun h => ((scanSector f h.1).2).bind (fun p =>
    if p + recSpan body.length ≤ 65536 then some (sectorBase h.1 + p) else none))
  match at_ with
  | none => (openSteps f, false)
  | some a =>
    let h := natLE 2 0x5243 ++ natLE 2 type ++ natLE 4 body.length ++ natLE 4 gen ++ natLE 4 (2 ^ 32 - 1) ++ natLE 8 rseq
    ([.program a (h ++ natLE 4 (storeCrc (h ++ body)) ++ natLE 4 (2 ^ 32 - 1) ++ body), .program (a + 28) (natLE 4 0)], true)

/-- What the firmware does next with the store: with 2 erased sectors left it copies what is live in the oldest sector to the head, and then
erases that sector (R471); else it writes the first record that waits.  The answer says whether that record was placed. -/
def journalPlan (f : Flash) (todo : List StoreWrite) : List FlashStep × Bool :=
  let recs := storeRecs f
  let write : List FlashStep × Bool := match todo with
    | [] => ([], false)
    | w :: _ => placeSteps f w.type w.gen ((recs.map (·.rseq)).foldl max 0 + 1) w.body
  if 128 - (usedSectors f).length > 2 then write
  else match oldestSector f with
    | none => write
    | some v =>
      let copied (r : StoreRec) : Bool := recs.any (fun c => c.sector != v && c.type == r.type && c.gen == r.gen && c.rseq == r.rseq)
      match recs.find? (fun r => r.sector == v && liveRec recs r && !copied r) with
      | some r => ((placeSteps f r.type r.gen r.rseq r.body).1, false)
      | none => (eraseSteps f v, false)

/-- One operation on the flash, as the firmware carries them out one after another; power may fail between two (R472).  One that the flash
reports as failed leaves its bytes open and raises STORE_ERR, and the record is written again in the next sector (R471). -/
def Dev.flashStep (d : Dev) (e : Env) (fails : Bool) : Dev :=
  let f := e.flash d
  let d := if d.sec.flash.isEmpty then
      let p := journalPlan f d.sec.todo
      d.upSec (fun x => { x with flash := p.1, placing := p.2 })
    else d
  match d.sec.flash with
  | [] => d
  | s :: r =>
    let d := d.upSec (fun x => { x with
      flash := if fails then openSteps f else r, placing := x.placing && !fails
      todo := if r.isEmpty && x.placing && !fails then x.todo.drop 1 else x.todo })
    let (a, n) := match s with | .erase a => (a, 65536) | .program a bs => (a, bs.length)
    if fails then
      let v := d.freeVal (8 * n)
      (v.2.store .nor a (natLE n v.1)).flag BGS_FLT.STORE_ERR
    else match s with
      | .erase a => d.clear .nor a 65536
      | .program a bs => d.program e a bs

/-- The generation from which an image of generation `g` that reads down to `aux` takes its settings: its own where it has records, else the
highest below it that it reads (R502). -/
def settingsFrom (l : List StoreRec) (g aux : Nat) : Option Nat :=
  if (gensPresent l).contains g then some g else greatestBy id ((gensPresent l).filter (fun x => decide (aux ≤ x) && decide (x < g)))

/-- The current records that the image uses, converted to its own generation where they are of another (R502). -/
def settingsOf (l : List StoreRec) (g aux : Nat) : List StoreWrite :=
  match settingsFrom l g aux with
  | none => []
  | some h => (l.filter (fun r => r.gen == h && (currentRec l r.type h).any (fun c => c.rseq == r.rseq && c.sector == r.sector))).map (fun r =>
      { type := r.type, gen := g, body := if h = g then r.body else (Config.convertRecord h g r.type r.body).take 32768 })

/-- An image starts (R502): with no records of its own generation it writes those it converts, or its defaults. -/
def Dev.startSettings (d : Dev) (e : Env) : Dev :=
  let l := storeRecs (e.flash d)
  let own : List StoreWrite := if (gensPresent l).contains d.sec.gen then []
    else match settingsFrom l d.sec.gen d.sec.aux with
      | some _ => settingsOf l d.sec.gen d.sec.aux
      | none => (Config.settingsDefaults d.sec.gen).map (fun x => { type := x.1 % 65536, gen := d.sec.gen, body := x.2.take 32768 })
  d.upSec (fun x => { x with todo := x.todo ++ own })

end Sys2Proof.Machine
end

