-- ==== Sys2Proof/Machine/Classify.lean ====
section
/-!
DEFINITION. The classifier: its table in HBM behind the bucket cache, lookups and actions, commands, and ageing (R328 to R338,
R346 to R348).
-/

namespace Sys2Proof.Machine

/-! The table (R328 to R330). -/

/-- Bucket number of a key in hash table `t`. -/
def Dev.bucketOf (d : Dev) (t : Nat) (key : List Byte) : Nat :=
  16384 * t + crc32c (d.rd (if t = 0 then CLS_HASH_SEED0.SEED else CLS_HASH_SEED1.SEED)) key % 16384

/-- HBM address of a bucket: set b mod 8, offset CLS_TBL_BASE + 256 * (b / 8). -/
def Dev.bucketAddr (d : Dev) (b : Nat) : Nat := b % 8 * 2 ^ 32 + d.rd CLS_TBL_BASE.BASE * 2 ^ 20 + 256 * (b / 8)

def Dev.upCls (d : Dev) (f : Cls → Cls) : Dev := d.upNet (fun n => { n with cls := f n.cls })

/-- The buckets cached in a set, most recently used first. -/
def Dev.cacheSet (d : Dev) (b : Nat) : List (Nat × List Byte) := storeGet (fun _ => []) d.net.cls.cache (b % 512)
def Dev.setCacheSet (d : Dev) (b : Nat) (l : List (Nat × List Byte)) : Dev :=
  d.upCls (fun c => { c with cache := storeSet (fun _ => []) c.cache (b % 512) l })

def Dev.cached (d : Dev) (b : Nat) : Option (List Byte) := ((d.cacheSet b).find? (fun e => e.1 == b)).map (·.2)

/-- A bucket as a lookup reads it: through the cache, with LRU replacement and write-back of what it evicts (R329).  None where HBM
returns poison.  `par` tells a cache parity error: the bucket is read again from HBM. -/
def Dev.readBucket (d : Dev) (e : Env) (b : Nat) (par : Bool) : Option (List Byte) × Dev :=
  let d : Dev := if par && (d.cached b).isSome then (d.flag CLS0_FLT.CACHE_PAR).setCacheSet b ((d.cacheSet b).filter (fun x => x.1 != b)) else d
  match d.cached b with
  | some bs => (some bs, d.setCacheSet b ((b, bs) :: (d.cacheSet b).filter (fun x => x.1 != b)))
  | none =>
    let d := d.count CLS_CNT_CACHE_MISS.COUNT 1
    let d := d.hbmReads 0x0B0 (d.bucketAddr b) 256
    if d.poisoned (d.bucketAddr b) 256 then (none, d)
    else
      let bs := (e.seen d).bytes .hbm (d.bucketAddr b) 256
      let l := d.cacheSet b
      let d := d.forEach (l.drop 7) (fun d x => d.hbmWrites (d.bucketAddr x.1) x.2)
      (some bs, d.setCacheSet b ((b, bs) :: l.take 7))

/-- A bucket as commands and the ager see it: from the cache where it is there, else from HBM. -/
def Dev.peekBucket (d : Dev) (e : Env) (b : Nat) : Option (List Byte) :=
  match d.cached b with
  | some bs => some bs
  | none => if d.poisoned (d.bucketAddr b) 256 then none else some ((e.seen d).bytes .hbm (d.bucketAddr b) 256)

/-- A bucket changed. -/
def Dev.putBucket (d : Dev) (b : Nat) (bs : List Byte) : Dev :=
  match d.cached b with
  | some _ => d.setCacheSet b ((d.cacheSet b).map (fun x => if x.1 = b then (b, bs) else x))
  | none => d.store .hbm (d.bucketAddr b) bs

/-- A bucket that is not in the cache waits while its HBM channel takes nothing (R294, R300). -/
def Dev.bucketHeld (d : Dev) (b : Nat) : Bool := (d.cached b).isNone && !d.hbmTakes 0x0B0 (d.bucketAddr b) 256
def Dev.keyHeld (d : Dev) (key : List Byte) : Bool := d.bucketHeld (d.bucketOf 0 key) || d.bucketHeld (d.bucketOf 1 key)

def wayOf (bs : List Byte) (w : Nat) : List Byte := slice bs (64 * w) 64
def putWay (bs : List Byte) (w : Nat) (en : List Byte) : List Byte := bs.take (64 * w) ++ en ++ bs.drop (64 * w + 64)

/-! Entries (R330). -/

def entryKey (en : List Byte) : List Byte := en.take 40
def entryAct (en : List Byte) : Nat := leNat (slice en 40 8)
def entryValid (en : List Byte) : Bool := bitAt (entryAct en) 63
def entryAge (en : List Byte) : Bool := bitAt (entryAct en) 62
def entryHit (en : List Byte) : Bool := bitAt (entryAct en) 61
def entryLinkEn (en : List Byte) : Bool := bitAt (entryAct en) 60
def entryType (en : List Byte) : Nat := entryAct en / 2 ^ 56 % 16
def entryArg (en : List Byte) : Nat := entryAct en / 2 ^ 48 % 256
def entryPrio (en : List Byte) : Nat := entryAct en / 2 ^ 45 % 8
def entryQueue (en : List Byte) : Nat := entryAct en / 2 ^ 32 % 256
def entryLink (en : List Byte) : Nat := entryAct en / 2 ^ 16 % 65536
def entryTag (en : List Byte) : Nat := entryAct en % 65536
def entryHits (en : List Byte) : Nat := leNat (slice en 48 4)

/-- An entry with another action word and HITS. -/
def entryWith (en : List Byte) (act hits : Nat) : List Byte :=
  en.take 40 ++ natLE 8 act ++ natLE 4 hits ++ en.drop 52

def setHit (act : Nat) (v : Bool) : Nat := act - ofBool (bitAt act 61) * 2 ^ 61 + ofBool v * 2 ^ 61

/-- The way of a bucket that holds a key. -/
def wayWith (bs key : List Byte) : Option Nat :=
  (List.range 4).find? (fun w => entryValid (wayOf bs w) && entryKey (wayOf bs w) == key)
def freeWay (bs : List Byte) : Option Nat := (List.range 4).find? (fun w => !entryValid (wayOf bs w))
def validWays (bs : List Byte) : Nat := ((List.range 4).filter (fun w => entryValid (wayOf bs w))).length

/-! Actions (R331 to R333, R337). -/

/-- The receive header (R333). -/
def rxHeader (f : RxFrame) (port cause reason : Nat) (key : List Byte) (tag : Nat) (ofs : List Nat) (code : Nat) : List Byte :=
  natLE 8 f.time ++ natLE 2 f.bytes.length ++ natLE 1 port ++ natLE 1 cause ++ natLE 1 reason ++ [key.getD 0 0] ++ natLE 2 tag
    ++ ofs.flatMap (natLE 2) ++ natLE 1 code ++ List.replicate 7 0

/-- A frame on its way through the switch. -/
def framePkt (act arg : Nat) (link : Option Nat) (out : Nat) (hdr : List Byte) (f : RxFrame) : SwPkt :=
  { act := act, arg := arg, link := link, outs := [out], hdr := hdr, bytes := f.bytes, size := f.bytes.length, stamp := .none, buf := none }

/-- An action of CLS_MISS_ACT or CLS_MAL_ACT: 1 punt, 2 host; the rest drop. -/
def Dev.plainAct (d : Dev) (port act queue : Nat) (hdr : List Byte) (f : RxFrame) : Dev :=
  match act with
  | 1 => d.toSwitch port (framePkt 4 queue none 10 hdr f)
  | 2 => d.toSwitch port (framePkt 5 queue none 11 hdr f)
  | _ => d

/-- A malformed frame takes the action of its reason (R337). -/
def Dev.malformed (d : Dev) (port reason : Nat) (x : Parsed) : Dev :=
  let a := d.rd (CLS_MAL_ACT.ACTS (reason / 8)) / 2 ^ (4 * (reason % 8)) % 16
  (d.countMal reason).plainAct port (a / 4) (a % 4) (rxHeader x.frame port 3 reason x.key 0 x.ofs x.code) x.frame

/-- The encode channel, RUNNING or HOLDING, whose CHN_SRC names an ingest flow (R331, R376). -/
def Dev.flowUser (d : Dev) (flow : Nat) : Option Nat :=
  (List.range 256).find? (fun c => !d.isDecode c && d.rd (CHN_SRC.KIND.on c) == 2 && d.rd (CHN_SRC.IDX.on c) == flow
    && (d.chState c == 2 || d.chState c == 3))

/-- The action of an entry, applied to a frame (R331). -/
def Dev.applyEntry (d : Dev) (port : Nat) (en : List Byte) (x : Parsed) : Dev :=
  let hdr := rxHeader x.frame port 0 0 x.key (entryTag en) x.ofs x.code
  let arg := entryArg en
  let link := if entryLinkEn en then some (entryLink en) else none
  match entryType en with
  | 1 =>
    if d.isDecode arg && d.rd (CHN_SRC.KIND.on arg) == 1 && d.chState arg > 1 then d.toSwitch port (framePkt 1 arg none 8 hdr x.frame)
    else d.count CLS_CNT_NOSINK.COUNT 1
  | 2 =>
    if (d.flowUser (arg % 8)).isSome then d.toSwitch port (framePkt 2 (arg % 8) none 9 hdr x.frame) else d.count CLS_CNT_NOSINK.COUNT 1
  | 3 => d.toSwitch port (framePkt 3 arg link 10 hdr x.frame)
  | 4 => d.toSwitch port (framePkt 4 (entryQueue en % 4) none 10 hdr x.frame)
  | 5 => d.toSwitch port (framePkt 5 (entryQueue en % 8) none 11 hdr x.frame)
  | 6 => d.toSwitch port { framePkt 6 (arg % 8) none (arg % 8) hdr x.frame with prio := some (entryPrio en) }
  | _ => d

/-- A lookup: the bucket, way and entry found, if any (R329).  A bucket that comes back poisoned is a miss (R292).  Bit t of `par` tells a
parity error in the cached bucket of table t. -/
def Dev.lookup (d : Dev) (e : Env) (key : List Byte) (par : Nat) : Option (Nat × Nat × List Byte) × Dev :=
  let b0 := d.bucketOf 0 key
  let b1 := d.bucketOf 1 key
  let r0 := d.readBucket e b0 (bitAt par 0)
  let r1 := r0.2.readBucket e b1 (bitAt par 1)
  let find (b : Nat) (o : Option (List Byte)) : Option (Nat × Nat × List Byte) :=
    o.bind (fun bs => (wayWith bs key).map (fun w => (b, w, wayOf bs w)))
  let d := r1.2.count CLS_CNT_LOOKUP.COUNT 1
  if r0.1.isNone || r1.1.isNone then (none, d) else ((find b0 r0.1).orElse (fun _ => find b1 r1.1), d)

/-- A parsed frame is classified and acted on (R329 to R337); `rest` are the frames that wait behind it. -/
def Dev.classify (d : Dev) (e : Env) (p : Nat) (x : Parsed) (rest : List Parsed) (par : Nat) : Dev :=
  let d := d.upEth p (fun t => { t with parsed := rest })
  let direct (a q : Nat) : Dev :=
    (d.count CLS_CNT_DIRECT.COUNT 1).plainAct p a q (rxHeader x.frame p 2 0 x.key 0 x.ofs x.code) x.frame
  let bad := x.frame.fcsBad
  match x.result with
  | .malformed r => d.malformed p (if bad then 2 else r) x
  | .punt q _ => if bad then d.malformed p 2 x else direct 1 q
  | .host q _ => if bad then d.malformed p 2 x else direct 2 q
  | .drop => if bad then d.malformed p 2 x else direct 0 0
  | .lookup =>
    let r := d.lookup e x.key par
    match r.1 with
    | none =>
      let d := r.2.count CLS_CNT_MISS.COUNT 1
      if bad then d.malformed p 2 x
      else d.plainAct p (d.rd CLS_MISS_ACT.ACT) (d.rd CLS_MISS_ACT.QUEUE) (rxHeader x.frame p 1 0 x.key 0 x.ofs x.code) x.frame
    | some (b, w, en) =>
      let d := r.2.count CLS_CNT_HIT.COUNT 1
      if bad then d.malformed p 2 x
      else
        let en' := entryWith en (setHit (entryAct en) true) (entryHits en + 1)
        let d := match d.cached b with
          | some bs => d.putBucket b (putWay bs w en')
          | none => d
        d.applyEntry p en x

/-- The frame's lookup reads a bucket that has to wait. -/
def Dev.lookupHeld (d : Dev) (x : Parsed) : Bool :=
  match x.result with
  | .lookup => d.keyHeld x.key
  | _ => false

/-- The oldest parsed frame of a port takes its action (R331).  It waits while the port's switch input is not free, the
classifier is frozen (R338, R353), or a bucket cannot be read. -/
def execClsLookup (p : Fin 8) (par : Fin 4) (s : State) : Host.Outcome State Fault Refusal :=
  s.run fun e d =>
    match (d.eth p).parsed with
    | [] => d
    | x :: rest =>
      if !d.open_ (pageCLS 0) || !(d.swIn p).packets.isEmpty || d.lookupHeld x then d
      else
        d.classify e p x rest par

/-! Commands (R334, R335, R347). -/

/-- A write of CLS_CMD: one command runs at a time. -/
def Dev.clsCommand (d : Dev) (op : Nat) : Dev :=
  if d.bit CLS_CMD_STS.BUSY then d.wr CLS_CMD_STS.REJECT 1
  else (d.upCls (fun c => { c with op := op })).wr CLS_CMD_STS.BUSY 1

def execClsInsert (s : State) : Host.Outcome State Fault Refusal := s.run fun _ d => d.clsCommand 1
def execClsDelete (s : State) : Host.Outcome State Fault Refusal := s.run fun _ d => d.clsCommand 2
def execClsUpdate (s : State) : Host.Outcome State Fault Refusal := s.run fun _ d => d.clsCommand 3
def execClsRead (s : State) : Host.Outcome State Fault Refusal := s.run fun _ d => d.clsCommand 4
def execClsReadAt (s : State) : Host.Outcome State Fault Refusal := s.run fun _ d => d.clsCommand 5
def execClsFlush (s : State) : Host.Outcome State Fault Refusal := s.run fun _ d => d.clsCommand 6

/-- CLS_DATA_0 to _15 as 64 bytes, and written from them. -/
def Dev.clsData (d : Dev) : List Byte := (List.range 16).flatMap (fun k => natLE 4 (d.rd (CLS_DATA.BYTES k)))
def Dev.setClsData (d : Dev) (bs : List Byte) : Dev :=
  d.forEach (List.range 16) (fun d k => d.wr (CLS_DATA.BYTES k) (leNat (slice bs (4 * k) 4)))

/-- The place a command found or used: bucket, way, entries moved. -/
def Dev.clsPlace (d : Dev) (b w moves : Nat) : Dev :=
  (((d.wr CLS_CMD_STS.TBL (b / 16384)).wr CLS_CMD_STS.IDX (b % 16384)).wr CLS_CMD_STS.WAY w).wr CLS_CMD_STS.MOVES moves

def Dev.occupancy (d : Dev) (n : Int) : Dev := d.wr CLS_OCC.ENTRIES ((d.rd CLS_OCC.ENTRIES : Int) + n).toNat

/-- Where a key is, as commands see it; none in the outer option where a bucket is poisoned. -/
def Dev.findEntry (d : Dev) (e : Env) (key : List Byte) : Option (Option (Nat × Nat × List Byte)) :=
  let b0 := d.bucketOf 0 key
  let b1 := d.bucketOf 1 key
  match d.peekBucket e b0, d.peekBucket e b1 with
  | some x, some y =>
    some (match wayWith x key with
      | some w => some (b0, w, wayOf x w)
      | none => (wayWith y key).map (fun w => (b1, w, wayOf y w)))
  | _, _ => none

/-- The bucket that an entry of bucket `b` could move to. -/
def Dev.otherBucket (d : Dev) (b : Nat) (en : List Byte) : Nat := d.bucketOf (1 - b / 16384) (entryKey en)

/-- How the search for a displacement path ends: a path, its moves (bucket, way) first one first, and the bucket that ends it; none; or a
bucket whose read returned poison. -/
inductive Moves where
  | path (l : List (Nat × Nat)) (target : Nat)
  | none_
  | poisoned
  deriving DecidableEq, Repr

/-- A displacement path from one of the buckets in `frontier` to a bucket with a free way, breadth first, at most `fuel` moves; it ends at
the first bucket that is poisoned (R334). The order of reading is DEDUCED (log entry 234). -/
def Dev.movePath (d : Dev) (e : Env) : Nat → List (Nat × List (Nat × Nat)) → List Nat → Moves
  | 0, _, _ => .none_
  | fuel + 1, frontier, seen =>
    let next := frontier.flatMap (fun f => match d.peekBucket e f.1 with
      | none => []
      | some bs => (List.range 4).map (fun w => (d.otherBucket f.1 (wayOf bs w), f.2 ++ [(f.1, w)])))
    let stops (b : Nat) : Bool := match d.peekBucket e b with | some bs => (freeWay bs).isSome | none => true
    match next.find? (fun n => stops n.1) with
    | some n => if (d.peekBucket e n.1).isNone then .poisoned else .path n.2 n.1
    | none =>
      let fresh := next.filter (fun n => !seen.contains n.1)
      d.movePath e fuel fresh (seen ++ fresh.map (·.1))

/-- The entries along a path move, the last one first, so that none is ever missing (R335). -/
def Dev.shift (d : Dev) (e : Env) (target : Nat) : List (Nat × Nat) → Dev
  | [] => d
  | m :: ms =>
    match d.peekBucket e m.1, d.peekBucket e target with
    | some src, some dst =>
      match freeWay dst with
      | some w =>
        let d := d.putBucket target (putWay dst w (wayOf src m.2))
        let d := match d.peekBucket e m.1 with
          | some src => d.putBucket m.1 (putWay src m.2 (List.replicate 64 0))
          | none => d
        d.shift e m.1 ms
      | none => d
    | _, _ => d

/-- An entry goes into a free way of a bucket. -/
def Dev.placeIn (d : Dev) (e : Env) (b moves : Nat) (en : List Byte) : Nat × Dev :=
  match d.peekBucket e b with
  | some bs => match freeWay bs with
    | some w => (0, ((d.putBucket b (putWay bs w en)).clsPlace b w moves).occupancy 1)
    | none => (3, d)
  | none => (5, d)

/-- INSERT (R334): the result, and the table after it. -/
def Dev.insertEntry (d : Dev) (e : Env) : Nat × Dev :=
  let data := d.clsData
  let key := entryKey data
  let en := entryWith data (setHit (entryAct data) true) 0
  let b0 := d.bucketOf 0 key
  let b1 := d.bucketOf 1 key
  if entryType data ≥ 7 ∨ !entryValid data then (4, d)
  else match d.findEntry e key with
    | none => (5, d)
    | some (some (b, w, _)) => (1, d.clsPlace b w 0)
    | some none =>
      let n0 := validWays ((d.peekBucket e b0).getD [])
      let n1 := validWays ((d.peekBucket e b1).getD [])
      if n0 < 4 ∨ n1 < 4 then d.placeIn e (if n1 < n0 then b1 else b0) 0 en
      else match d.movePath e (d.rd CLS_CFG.MOVES) [(b0, []), (b1, [])] [b0, b1] with
        | .none_ => (3, d)
        | .poisoned => (5, d)
        | .path ms target =>
          match ms.head? with
          | some m => (d.shift e target ms.reverse).placeIn e m.1 ms.length en
          | none => (3, d)

/-! Multicast membership (R321). -/

/-- The multicast destination, with port and VLAN, that a DECODE or INGEST entry names under profile 1 or 2 (R327, R421). -/
def entryGroup (en : List Byte) : Option (Nat × Nat × Nat) :=
  let k := entryKey en
  let at_ (g : Nat) : Nat × Nat × Nat := ((k.getD 1 0).toNat % 8, beNat (slice k 2 2) % 4096, g)
  if entryType en ≠ 1 ∧ entryType en ≠ 2 then none
  else if (k.getD 0 0).toNat = 1 ∧ (k.getD 24 0).toNat / 16 = 14 then some (at_ (0xFFFF * 2 ^ 32 + beNat (slice k 24 4)))
  else if (k.getD 0 0).toNat = 2 ∧ (k.getD 12 0).toNat = 255 then some (at_ (beNat (slice k 12 16)))
  else none

/-- The firmware reports a membership, EXCLUDE of nothing or as the host named it, or leaves a group. When it does is DEDUCED (log entry
233). -/
def Dev.report (d : Dev) (leave : Bool) (g : Nat × Nat × Nat) : Dev :=
  if !d.service 1 then d
  else
    let m := (d.herd.mcast.find? (fun m => m.1 == g.1 && m.2.1 == g.2.1 && m.2.2.2.1 == g.2.2)).map (fun m => (m.2.2.1, m.2.2.2.2))
    d.toSwitch 11 (injected g.1 (Config.membershipFrame leave g.1 g.2.1 g.2.2 (m.getD (0, [])).1 (m.getD (0, [])).2) .none)

/-- An entry comes: the first that names a group has it reported. -/
def Dev.joinGroup (d : Dev) (en : List Byte) : Dev :=
  match entryGroup en with
  | none => d
  | some g =>
    let new := !d.herd.groups.contains g
    let d := d.upHerd (fun h => { h with groups := h.groups ++ [g] })
    if new then d.report false g else d

/-- An entry goes: with the last that names a group, the firmware leaves it. -/
def Dev.leaveGroup (d : Dev) (en : List Byte) : Dev :=
  match entryGroup en with
  | none => d
  | some g =>
    if !d.herd.groups.contains g then d
    else
      let d := d.upHerd (fun h => { h with groups := h.groups.erase g })
      if d.herd.groups.contains g then d else d.report true g

/-- A command's effect, in one cycle (R335). -/
def Dev.clsEffect (d : Dev) (e : Env) (op : Nat) : Nat × Dev :=
  let found := d.findEntry e (entryKey d.clsData)
  match op with
  | 1 =>
    let r := d.insertEntry e
    (r.1, if r.1 = 0 then r.2.joinGroup d.clsData else r.2)
  | 5 =>
    let b := 16384 * d.rd CLS_AT.TBL + d.rd CLS_AT.IDX
    let w := d.rd CLS_AT.WAY
    match d.peekBucket e b with
    | some bs => (0, (d.setClsData (wayOf bs w)).clsPlace b w 0)
    | none => (5, d)
  | 6 =>
    let d := d.forEach (List.range 8) (fun d s => d.clear .hbm (d.bucketAddr s) (4096 * 256))
    let d := (d.upCls (fun c => { c with cache := [] })).wr CLS_OCC.ENTRIES 0
    (0, (d.upHerd (fun h => { h with groups := [] })).forEach d.herd.groups.eraseDups (fun d g => d.report true g))
  | _ =>
    match found with
    | none => (5, d)
    | some none => (2, d)
    | some (some (b, w, en)) =>
      let bs := (d.peekBucket e b).getD []
      let d := d.clsPlace b w 0
      match op with
      | 2 => (0, ((d.putBucket b (putWay bs w (List.replicate 64 0))).occupancy (-1)).leaveGroup en)
      | 3 =>
        let new := leNat (slice d.clsData 40 8)
        if new / 2 ^ 56 % 16 ≥ 7 then (4, d)
        else
          let keep := setHit (new % 2 ^ 63 + 2 ^ 63) (entryHit en)
          let en' := entryWith en keep (entryHits en)
          let d := d.putBucket b (putWay bs w en')
          (0, if entryGroup en = entryGroup en' then d else (d.joinGroup en').leaveGroup en)
      | _ => (0, d.setClsData en)

/-- A command reads a bucket that has to wait. -/
def Dev.commandHeld (d : Dev) : Bool :=
  match d.net.cls.op with
  | 6 => false
  | 5 => d.bucketHeld (16384 * d.rd CLS_AT.TBL + d.rd CLS_AT.IDX)
  | _ => d.keyHeld (entryKey d.clsData)

/-- A classifier command completes (R334); it waits while the classifier is frozen (R338). -/
def execClsCmdDone (s : State) : Host.Outcome State Fault Refusal :=
  s.run fun e d =>
    if !d.bit CLS_CMD_STS.BUSY ∨ !d.open_ (pageCLS 0) ∨ d.commandHeld then d
    else
      let r := d.clsEffect e d.net.cls.op
      (((r.2.upCls (fun c => { c with op := 0 })).wr CLS_CMD_STS.RESULT r.1).wr CLS_CMD_STS.BUSY 0).event CLS0_EVT.CMD_DONE

/-! Ageing (R336). -/

/-- An age record is written, or dropped where the ring is full. -/
def Dev.ageRecord (d : Dev) (now : Nat) (en : List Byte) : Dev :=
  let size := max 1 (d.rd CLS_AGE_REC_SIZE.N)
  let w := d.rd CLS_AGE_REC_WR.IDX
  let next := (w + 1) % size
  if next = d.rd CLS_AGE_REC_RD.IDX % size then (d.count CLS_AGE_REC_DROP.COUNT 1).event CLS3_EVT.REC_DROP
  else
    let rec_ := natLE 2 (entryLink en) ++ natLE 2 (entryTag en) ++ natLE 4 (ofBool (entryLinkEn en)) ++ natLE 8 now
    (d.store .sram (d.rd CLS_AGE_REC_BASE.OFF + 16 * w) rec_).wr CLS_AGE_REC_WR.IDX next

/-- The ager at way `w` of a bucket: an entry that was hit loses HIT, one that was not is deleted with its replication entry, and its age
record written (R336). -/
def Dev.ageWay (d : Dev) (e : Env) (bucket w : Nat) : Dev :=
  match d.peekBucket e bucket with
  | none => d
  | some bs =>
    let en := wayOf bs w
    if !entryValid en || !entryAge en then d
    else if entryHit en then d.putBucket bucket (putWay bs w (entryWith en (setHit (entryAct en) false) (entryHits en)))
    else
      let d := (d.putBucket bucket (putWay bs w (List.replicate 64 0))).occupancy (-1)
      let d := if entryLinkEn en then d.unlink (entryLink en) else d
      (((d.ageRecord e.now en).count CLS_CNT_AGED.COUNT 1).event CLS3_EVT.AGED).leaveGroup en

/-- It is the bucket's turn: the buckets follow in order, one every PERIOD / 32768 seconds; a new PERIOD counts from the next visit on (R336, R338,
R348; the order is a DESIGN CHOICE, log entry 223). -/
def Dev.ageDue (d : Dev) (now bucket : Nat) : Bool :=
  d.bit CLS_AGE_CFG.EN && d.net.cls.ageNext == bucket && (match d.net.cls.ageAt with | some t => decide (t ≤ 32768 * (now : Int)) | none => true)

/-- The ager goes on to the next bucket. -/
def Dev.ageOn (d : Dev) (now : Nat) : Dev :=
  d.upCls (fun c => { c with
    ageNext := (c.ageNext + 1) % 32768
    ageAt := some (c.ageAt.getD (32768 * (now : Int)) + (max 1 (d.rd CLS_AGE_CFG.PERIOD) * 1000000000 : Nat)) })

/-- The ager visits a bucket (R336). -/
def execAgeVisit (bucket : Fin 32768) (s : State) : Host.Outcome State Fault Refusal :=
  s.run fun e d =>
    if !d.ageDue e.now bucket || !d.open_ (pageCLS 0) || d.bucketHeld bucket then d
    else (d.ageOn e.now).forEach (List.range 4) (fun d w => d.ageWay e bucket w)

end Sys2Proof.Machine
end

