-- ==== Sys2Proof/Machine/Switch.lean ====
section
/-!
DEFINITION. The switch core: cell times, matching, reassembly at the outputs, and the hand-over to the sinks of the Herd and the
host (R349 to R353, R356 to R360, R332, R365).
-/

namespace Sys2Proof.Machine

/-- Room for a packet of input `i` at output `o` (R351, R356); the sinks of the Herd and the host stall while the BPM is frozen (R368). -/
def Dev.roomAt (d : Dev) (o i cells : Nat) : Bool :=
  (o < 10 || d.bpmOpen) && ((d.swOut o).arriving.any (fun a => a.input == i) || (o < 8 && !d.linkUp o) || (d.swOut o).cells + cells ≤ 4096)

/-- Is entry `i` on the channel's list? -/
def Dev.onList (d : Dev) (c i : Nat) : Bool := (d.replAt i).valid && (d.replAt i).chn == c

/-- The ports a packetiser's packet goes to, taken as its first cell is sent (R371, R378). -/
def Dev.portSet (d : Dev) (p : SwPkt) : List Nat :=
  match p.link with
  | some i => if d.onList p.arg i then [(d.replAt i).port] else []
  | none => (List.range 8).filter (fun q => !(d.replList p.arg q).isEmpty)

/-- The switch has taken a packet: the PKT buffer of a packetiser's packet goes back unless the window keeps it (R377). -/
def Dev.taken (d : Dev) (p : SwPkt) : Dev :=
  match p.buf with
  | none => d
  | some (g, a) =>
    if (d.ch p.arg).window.any (fun w => w.buf == a && !w.taken) then
      d.upCh p.arg (fun x => { x with window := x.window.map (fun w => if w.buf = a then { w with taken := true } else w) })
    else d.requestBpm (.free 0x0B3 0 g a)

/-- An input puts its next cell into the staging slot; a packet without outputs is not sent (R371). -/
def Dev.stage (d : Dev) (i : Nat) : Dev :=
  let x := d.swIn i
  match x.packets, x.staged with
  | p :: rest, none =>
    if x.sent = 0 ∧ p.act = 8 then
      let outs := d.portSet p
      if outs.isEmpty then (d.upIn i (fun x => { x with packets := rest })).taken p
      else
        let d := if p.link.isNone then d.count (CHN_CNT_PKTS.COUNT.on p.arg) 1 else d
        d.upIn i (fun x => { x with packets := { p with outs := outs } :: rest, staged := some outs })
    else d.upIn i (fun x => { x with staged := some p.outs })
  | _, _ => d

/-- The state of a match: accepted pairs, and the pointers. -/
structure Match where
  pairs : List (Nat × Nat)
  gptr : List Nat
  aptr : List Nat
  deriving DecidableEq, Repr

/-- The cell of input `i`: its packet and the outputs that have yet to take it. -/
def Dev.cellAt (d : Dev) (i : Nat) : Option (SwPkt × List Nat) :=
  match (d.swIn i).packets.head?, (d.swIn i).staged with
  | some p, some s => if s.isEmpty then none else some (p, s)
  | _, _ => none

/-- Inputs in round-robin order from a pointer. -/
def roundFrom (g : Nat) : List Nat := (List.range 12).map (fun k => (g + k) % 12)

/-- The inputs output `o` grants in an iteration: requesting ones in round-robin order, two less those accepted, while their
packets fit. -/
def Dev.grants (d : Dev) (m : Match) (o : Nat) : List Nat :=
  let taken := m.pairs.filter (fun e => e.2 == o)
  let free (i : Nat) : Bool := !m.pairs.any (fun e => e.1 == i)
  let new (i : Nat) : Nat := match d.cellAt i with
    | some c => if (d.swOut o).arriving.any (fun a => a.input == i) then 0 else cellsOf c.1.size
    | none => 0
  let held := sumBy taken (fun e => new e.1)
  ((roundFrom (m.gptr.getD o 0)).foldl (fun acc i =>
    match d.cellAt i with
    | none => acc
    | some c =>
      if acc.1.length + taken.length < 2 && free i && c.2.contains o && d.roomAt o i (acc.2 + cellsOf c.1.size) then (acc.1 ++ [i], acc.2 + new i)
      else acc) (([] : List Nat), held)).1

/-- One iteration of request, grant and accept (R352). -/
def Dev.matchOnce (d : Dev) (first : Bool) (m : Match) : Match :=
  let g := (List.range 12).map (fun o => d.grants m o)
  let acc := (List.range 12).flatMap (fun i =>
    match d.cellAt i with
    | none => []
    | some c =>
      let outs := (roundFrom (m.aptr.getD i 0)).filter (fun o => (g.getD o []).contains i)
      if c.1.outs.length > 1 then outs.map (fun o => (i, o)) else (outs.take 1).map (fun o => (i, o)))
  if !first then { m with pairs := m.pairs ++ acc }
  else
    let last (o : Nat) : Option Nat := ((g.getD o []).filter (fun i => acc.contains (i, o))).getLast?
    { pairs := acc
      gptr := (List.range 12).map (fun o => match last o with | some i => (i + 1) % 12 | none => m.gptr.getD o 0)
      aptr := (List.range 12).map (fun i => match (acc.filter (fun e => e.1 == i)).getLast? with
        | some e => (e.2 + 1) % 12
        | none => m.aptr.getD i 0) }

/-! The sinks (R357). -/

/-- A token of a punt queue (R332): whether there is one, and the bucket after it. -/
def Dev.puntToken (d : Dev) (now q : Nat) : Bool × Dev :=
  let rate := d.rd (CLS_PUNT_RATE.RATE q)
  let burst := max 1 (d.rd (CLS_PUNT_RATE.BURST q)) * 1000000000
  if rate = 0 then (true, d)
  else
    let b : Int × Nat := match storeFind d.net.cls.punt q with | some b => b | none => (now, burst)
    let have_ := min burst (b.2 + rate * ((now : Int) - b.1).toNat)
    let ok := decide (have_ ≥ 1000000000)
    let left := if ok then have_ - 1000000000 else have_
    (ok, d.upCls (fun c => { c with punt := storeIns q ((now : Int), left) c.punt }))

/-- A punted frame that finds no token or a full queue (R332). -/
def Dev.puntDrop (d : Dev) (q : Nat) : Dev := ((d.count (CLS_CNT_PUNT_DROP.COUNT q) 1).event CLS1_EVT.PUNT_DROP).sinkDisc 10

/-- The DMA channel that takes the frames of a host delivery queue (R398). -/
def Dev.hostChannel (d : Dev) (q : Nat) : Option Nat :=
  (List.range 256).find? (fun c => storeGet (fun _ => (0, 0)) d.dma.roles c == (1, q) && d.bit ((DMA_CH_CTL.D2H_EN (c % 32)).on (c / 32)))

/-- A complete packet at output `o`, handed to its sink or kept for it (R357, R358). -/
def Dev.deliverPkt (d : Dev) (now o : Nat) (p : SwPkt) (err : TxErr) : Dev :=
  let keep (d : Dev) : Dev := d.upOut o (fun x => { x with packets := x.packets ++ [⟨x.nextId, p, none, 0⟩], nextId := x.nextId + 1 })
  if o < 8 then keep d
  else
    let d := match err with
      | .obufCe => (d.count SWC_CNT_OBUF_CE.COUNT 1).flag SWC_FLT.OBUF_CE
      | .obufUe => d.flag SWC_FLT.OBUF_UE
      | _ => d
    if err = .obufUe then d.sinkDisc o
    else if o < 10 then keep d
    else if o = 10 then
      let t : Bool × Dev := if p.act = 4 then d.puntToken now p.arg else (true, d)
      if !t.1 || (p.act = 4 && (t.2.punt p.arg).length ≥ Config.puntDepth) then t.2.puntDrop p.arg
      else
        let r := t.2.alloc 0 0
        if r.1 ≠ 0 then r.2.2.sinkDisc 10
        else if p.act = 4 then r.2.2.setPunt p.arg (r.2.2.punt p.arg ++ [⟨p, r.2.1⟩])
        else r.2.2.upNet (fun n => { n with rtxq := n.rtxq ++ [⟨p, r.2.1⟩] })
    else match d.hostChannel p.arg with
      | none => d.sinkDisc 11
      | some c =>
        if d.bit ((DMA_CH_STS.D2H_WAIT (c % 32)).on (c / 32)) then d.sinkDisc 11
        else
          let r := d.alloc 0 0
          if r.1 ≠ 0 then r.2.2.sinkDisc 11 else r.2.2.setHostq p.arg (r.2.2.hostq p.arg ++ [⟨p, r.2.1⟩])

/-- One cell of input `i` is copied to output `o` (R351). -/
def Dev.copyCell (d : Dev) (now : Nat) (err : TxErr) (e : Nat × Nat) : Dev :=
  match d.cellAt e.1 with
  | none => d
  | some c =>
    let i := e.1
    let o := e.2
    let d := d.count SWC_CNT_CELLS.COUNT 1
    let d := d.upIn i (fun x => { x with staged := x.staged.map (fun s => s.filter (· != o)) })
    let d : Dev := if (d.swOut o).arriving.any (fun a => a.input == i) then d
      else d.upOut o (fun x => { x with arriving := x.arriving ++ [{ input := i, pkt := c.1, discard := o < 8 && !d.linkUp o }] })
    if (d.swIn i).sent + 1 < cellsOf c.1.size then d
    else
      let at_ := (d.swOut o).arriving.find? (fun a => a.input == i)
      let drop := match at_ with | some a => a.discard | none => false
      let counted := match at_ with | some a => a.counted | none => false
      let d := d.upOut o (fun x => { x with arriving := x.arriving.filter (fun a => a.input != i) })
      if counted then d else if drop then (d.flushCount o c.1).event SWC_EVT.FLUSH else d.deliverPkt now o c.1 err

/-- An input whose cell every output has taken frees its staging slot (R352). -/
def Dev.freeSlot (d : Dev) (i : Nat) : Dev :=
  match (d.swIn i).packets, (d.swIn i).staged with
  | p :: rest, some [] =>
    let n := (d.swIn i).sent + 1
    if n < cellsOf p.size then d.upIn i (fun x => { x with sent := n, staged := none })
    else (d.upIn i (fun x => { x with packets := rest, sent := 0, staged := none })).taken p
  | _, _ => d

/-- One cell time: staging, three iterations of matching, the cells moved (R352, R353). -/
def Dev.moveCells (d : Dev) (now : Nat) (err : TxErr) : Dev :=
  let d := d.forEach (List.range 12) Dev.stage
  let m : Match := { pairs := [], gptr := (List.range 12).map (fun o => (d.swOut o).gptr), aptr := (List.range 12).map (fun i => (d.swIn i).aptr) }
  let m := d.matchOnce false (d.matchOnce false (d.matchOnce true m))
  let d := d.forEach (List.range 12) (fun d k =>
    (d.upOut k (fun x => { x with gptr := m.gptr.getD k 0 })).upIn k (fun x => { x with aptr := m.aptr.getD k 0 }))
  let d := d.forEach m.pairs (fun d p => d.copyCell now err p)
  let d := d.forEach ((List.range 12).filter (fun o => (List.range 12).any (fun i => match d.cellAt i with
    | some c => c.2.contains o
    | none => false))) (fun d o => d.count (SWC_CNT_STALL.COUNT.bk o) 1)
  d.forEach (List.range 12) Dev.freeSlot

/-- One cell time of the switch (R352).  `err` is an error met in an output buffer as a packet goes to its sink (R358). -/
def execCellTime (err : TxErr) (s : State) : Host.Outcome State Fault Refusal :=
  s.run fun e d =>
    if !d.open_ pageSWC then d
    else
      d.moveCells e.now err

/-- Firmware on core 1 takes a punted frame, gives its buffer back, and answers (R321, R545). -/
def execPuntedPacket (q : Fin 4) (a : PuntAnswer) (s : State) : Host.Outcome State Fault Refusal :=
  s.run fun _ d =>
    match (if d.service 1 then d.punt q else []) with
    | [] => d
    | f :: rest =>
      let d := (d.setPunt q rest).requestBpm (.free 0x0D1 0 0 f.buf)
      let d := match a.timeInc with
        | some v => d.wr GLB_TIME_INC.INC v
        | none => d
      d.forEach a.frames (fun d x => d.toSwitch 11 (injected x.1 x.2.1 x.2.2))

end Sys2Proof.Machine
end

