-- ==== Sys2Proof/Machine/Ingest.lean ====
section
/-!
DEFINITION. The SMPTE ST 2110-20 unpacker (R376).
-/

namespace Sys2Proof.Machine

/-- Samples stored of each line, after a segment of `n` samples of line `line`. -/
def addLine (l : List (Nat × Nat)) (line n : Nat) : List (Nat × Nat) :=
  storeIns line ((match lookupNat l line with | some v => v | none => 0) + n) l

/-- The lines complete from line `k` on, without a gap. -/
def linesFrom (l : List (Nat × Nat)) (w : Nat) : Nat → Nat → Nat
  | 0, k => k
  | fuel + 1, k => match lookupNat l k with
    | some v => if v ≥ w then linesFrom l w fuel (k + 1) else k
    | none => k

/-- A segment lies in the picture (R376). -/
def Dev.rowFits (d : Dev) (l : Nat) (r : Nat × Nat × List Nat × List Nat) : Bool :=
  r.1 < d.height l && r.2.1 + r.2.2.1.length ≤ d.width l

/-- The samples of a segment go into the store being filled. -/
def Dev.storeRow (d : Dev) (l idx : Nat) (r : Nat × Nat × List Nat × List Nat) : Dev :=
  match (d.ch l).srcAt idx with
  | none => d
  | some p =>
    let base := d.storeAt l 0 p.store
    let ten := d.tenBit l
    let put (d : Dev) (chroma : Bool) (s : List Nat) : Dev := d.putRaw base (d.width l) (d.height l) ten ten chroma r.1 r.2.1 s
    (put (put d false r.2.2.1) true r.2.2.2).upSrc l idx (fun p => { p with partLines := addLine p.partLines r.1 r.2.2.1.length })

/-- A packet of a flow that channel `l` takes: it opens a picture where none is open, stores its segments, and ends the picture with its
marker (R85, R376).  The first picture of a stream begins after OPEN: a first packet that does not begin with the first sample of a picture is
of one that began before, and that is passed over to its marker (R50; log entry 203). -/
def Dev.ingest (d : Dev) (now flow l : Nat) (p : IngestPkt) : Dev :=
  let d := d.count (EGS_CNT_ING_PKTS.COUNT.bk flow) 1
  let gap := match (d.ch l).ingSeq with | some q => q != p.seq | none => false
  let passed := (d.ch l).ingSeq.isNone && !p.rows.head?.any (fun r => r.1 == 0 && r.2.1 == 0)
  let d := d.upCh l (fun x => { x with ingSeq := some ((p.seq + 1) % 2 ^ 32), dropping := x.dropping || passed })
  let d := if (d.ch l).storing.isNone && !(d.ch l).dropping then
      let d := d.srcOpen l (some p.ts)
      if (d.ch l).dropping then d.srcDrop now l else d
    else d
  match (d.ch l).storing with
  | none => if p.marker then d.upCh l (fun x => { x with dropping := false }) else d
  | some idx =>
    let was := match (d.ch l).srcAt idx with | some q => q.bad | none => true
    let bad := gap || p.field || p.rows.any (fun r => !d.rowFits l r)
    let d := if bad && !was then
        (((d.markBad l idx).count (EGS_CNT_ING_BAD.COUNT.bk flow) 1).event EGS_EVT.ING_BAD)
      else d
    let d := d.forEach (p.rows.filter (d.rowFits l)) (fun d r => d.storeRow l idx r)
    let d := match (d.ch l).srcAt idx with
      | some q =>
        let n := linesFrom q.partLines (d.width l) (d.height l) q.lines
        let d := d.upSrc l idx (fun q => { q with partLines := q.partLines.filter (fun t => t.1 ≥ n) })
        if n > q.lines then d.srcLines now l n else d
      | none => d
    if !p.marker then d
    else
      let short := match (d.ch l).srcAt idx with | some q => !q.bad && q.lines < d.height l | none => false
      (if short then ((d.markBad l idx).count (EGS_CNT_ING_BAD.COUNT.bk flow) 1).event EGS_EVT.ING_BAD else d).srcDone now l

/-- A packet reaches the unpacker, in a buffer from BPM that it gives back once it has read it (R357; the group is DEDUCED from R365, log
entry 220); without a channel that takes its flow, or without a buffer, it is discarded (R376). -/
def execIngestUnpack (flow : Fin 8) (p : IngestPkt) (s : State) : Host.Outcome State Fault Refusal :=
  s.run fun e d =>
    if !d.bpmOpen then d
    else
      let d := d.takeSink 9
      match d.flowUser flow with
      | none => d.sinkDisc 9
      | some l =>
        let g := d.rd (BPM_MAP.PKT.bk l)
        let r := d.alloc 0 g
        if r.1 = 0 then (r.2.2.free_ 0x0B3 0 g r.2.1).ingest e.now flow l p else r.2.2.sinkDisc 9

end Sys2Proof.Machine
end

