-- ==== Sys2Proof/Machine/Packets.lean ====
section
/-!
DEFINITION. The packetisers: units of the coded streams, RTP packets (R371, R372, R374), transport-stream datagrams (R373), the
retransmission window and its responders (R377, R378).
-/

namespace Sys2Proof.Machine

/-- A unit of a slice's coded bytes: where the unit starts, the byte that body byte 0 stands for where those that follow are counted from it, and
where the unit ends; its body (a NAL unit, or an OBU element) as far as it is coded; whether it carries coded samples, and whether it is left
out. -/
structure PktUnit where
  at_ : Nat
  start : Nat
  stop : Nat
  body : List Byte
  vcl : Bool
  skip : Bool
  deriving DecidableEq, Repr

/-- Offsets of the three-byte start codes in an Annex B byte stream. -/
def startCodes : List Byte → Nat → List Nat
  | a :: b :: c :: r, k =>
    if a = 0 ∧ b = 0 ∧ c = 1 then k :: startCodes (b :: c :: r) (k + 1) else startCodes (b :: c :: r) (k + 1)
  | _, _ => []

/-- A NAL unit ends before the zero bytes that lead to the next start code. -/
def stripZeros (bs : List Byte) : List Byte := (bs.reverse.dropWhile (· == 0)).reverse

def nalFrom (codec : Nat) (bs : List Byte) : List Nat → List PktUnit
  | [] => []
  | s :: l =>
    let stop := match l with | t :: _ => t | [] => bs.length
    let body := stripZeros (slice bs (s + 3) (stop - (s + 3)))
    let h := (body.getD 0 0).toNat
    let vcl : Bool := if codec = 0 then decide (h / 2 % 64 < 32) else decide (1 ≤ h % 32 ∧ h % 32 ≤ 5)
    ⟨s, s + 3, stop, body, vcl, false⟩ :: nalFrom codec bs l

/-- The OBUs of a low-overhead byte stream, as elements without their size fields; temporal delimiters are left out. -/
def obuFrom (bs : List Byte) : Nat → Nat → List PktUnit
  | 0, _ => []
  | fuel + 1, a =>
    if a ≥ bs.length then []
    else
      let h := (bs.getD a 0).toNat
      let hn := if bitAt h 2 then 2 else 1
      let size := if bitAt h 1 then leb128 (slice bs (a + hn) 8) 0 else (bs.length - (a + hn), 0)
      let stop := a + hn + size.2 + max size.1 0
      let body := [BitVec.ofNat 8 (h - (if bitAt h 1 then 2 else 0))] ++ slice bs (a + 1) (hn - 1) ++ slice bs (a + hn + size.2) size.1
      let ty := h / 8 % 16
      ⟨a, a + size.2, stop, body, ty == 3 || ty == 4 || ty == 6, ty == 2⟩ :: obuFrom bs fuel stop

/-- The units of coded bytes; codec 0 HEVC, 1 AV1, 2 H.264. -/
def unitsOf (codec : Nat) (bs : List Byte) : List PktUnit :=
  if codec = 1 then obuFrom bs bs.length 0 else nalFrom codec bs (startCodes bs 0)

/-- Of the units of a slice, the temporal units that begin behind others in it, by their delimiters (R104, R106). -/
def delimiters (us : List PktUnit) : List PktUnit := (us.dropWhile (·.skip)).filter (·.skip)

/-- The time stamp of the data at byte `pos` of a slice: that of its temporal unit (R372). -/
def SliceOut.tsAt (o : SliceOut) (us : List PktUnit) (pos : Nat) : Nat := o.tuTs.getD ((delimiters us).filter (fun v => v.at_ ≤ pos)).length o.ts

/-- IPv4 in every replication entry of the channel (R372): an IPv4 destination is ::ffff:a.b.c.d (R379). -/
def replV4 (r : Repl) : Bool := slice r.bytes 8 12 == List.replicate 10 0 ++ [0xFF, 0xFF]
def Dev.allV4 (d : Dev) (c : Nat) : Bool :=
  ((List.range 8).flatMap (fun p => d.replList c p)).all (fun i => replV4 (d.replAt i))

/-- MAXPAY (R372). -/
def Dev.maxPay (d : Dev) (c : Nat) : Nat :=
  d.rd (CHN_PKT_CFG.MAXDG.on c) - (if d.allV4 c then 40 else 60) - (if d.bit (CHN_RTX_CFG.EN.on c) then 2 else 0)

/-- The RTP header (R372). -/
def rtpHeader (pt : Nat) (marker : Bool) (seq ts ssrc : Nat) : List Byte :=
  [0x80, BitVec.ofNat 8 (128 * ofBool marker + pt % 128)] ++ natBE 2 seq ++ natBE 4 ts ++ natBE 4 ssrc

/-- The payload a unit yields next, `k` of its body's bytes sent: the payload, and how far the body has then been sent; none while a
unit still being coded has too few bytes. -/
def nextPayload (codec maxpay k : Nat) (still : Bool) (n : Bool) (body : List Byte) : Option (List Byte × Nat) :=
  let b0 := (body.getD 0 0).toNat
  let b1 := (body.getD 1 0).toNat
  if codec ≠ 1 then
    if k = 0 ∧ !still ∧ body.length ≤ maxpay then some (body, body.length)
    else
      let hn := if codec = 0 then 2 else 1
      let a := max k hn
      let cap := maxpay - (hn + 1)
      let more := decide (body.length - a > cap)
      if still ∧ !more then none
      else
        let fu (ty : Nat) : Byte := BitVec.ofNat 8 (128 * ofBool (k == 0) + 64 * ofBool (!more) + ty)
        let head : List Byte := if codec = 0 then [BitVec.ofNat 8 (b0 / 128 * 128 + 49 * 2 + b0 % 2), BitVec.ofNat 8 b1, fu (b0 / 2 % 64)]
          else [BitVec.ofNat 8 (b0 / 32 * 32 + 28), fu (b0 % 32)]
        some (head ++ slice body a cap, if more then a + cap else body.length)
  else
    let cap := maxpay - 1
    let more := decide (body.length - k > cap)
    if still ∧ !more then none
    else some ([BitVec.ofNat 8 (128 * ofBool (k != 0) + 64 * ofBool more + 16 + 8 * ofBool n)] ++ slice body k cap, min body.length (k + cap))

/-- The aggregation packet of an access unit's leading non-VCL units (R372): an AP has the lowest layer and temporal identifiers of its
units, a STAP-A the highest NRI; F where one of them has it. -/
def aggregate (codec : Nat) (us : List PktUnit) : List Byte :=
  let b0 := us.map (fun u => (u.body.getD 0 0).toNat)
  let b1 := us.map (fun u => (u.body.getD 1 0).toNat)
  let f := 128 * ofBool (b0.any (fun b => b ≥ 128))
  let low (l : List Nat) : Nat := (leastNat l).getD 0
  let layer := low ((b0.zip b1).map (fun p => p.1 % 2 * 32 + p.2 / 8))
  let head : List Byte := if codec = 0 then
      [BitVec.ofNat 8 (f + 48 * 2 + layer / 32), BitVec.ofNat 8 (layer % 32 * 8 + low (b1.map (· % 8)))]
    else [BitVec.ofNat 8 (f + 32 * (b0.map (· / 32 % 4)).foldl max 0 + 24)]
  head ++ us.flatMap (fun u => natBE 2 u.body.length ++ u.body)

/-- The slice whose bytes the packetiser takes next: the first in picture and slice order, when no earlier one is outstanding. -/
def Dev.nextOut (d : Dev) (c : Nat) : Option SliceOut :=
  let l := (d.ch c).out.filter (fun o => o.toNet < o.bytes.length)
  match l.foldl (fun b o => match b with
      | none => some o
      | some q => if o.pic < q.pic ∨ (o.pic = q.pic ∧ o.slice < q.slice) then some o else some q) (none : Option SliceOut) with
  | none => none
  | some o =>
    if (d.ch c).pics.all (fun p => !(p.order < o.pic) && (p.order != o.pic || p.slices.all (fun s => s.idx ≥ o.slice || s.done))) then some o
    else none

def Dev.upOutSlice (d : Dev) (c : Nat) (o : SliceOut) (n : Nat) : Dev :=
  d.upCh c (fun x => { x with out := x.out.map (fun q => if q.pic = o.pic ∧ q.slice = o.slice then { q with toNet := n } else q) })

/-- A packet of channel `c`, its UDP payload `bytes`: into a PKT buffer, the window, and onto the channel's feed (R371, R377). -/
def Dev.emitPacket (d : Dev) (now c seq : Nat) (bytes : List Byte) : Dev :=
  let g := d.rd (BPM_MAP.PKT.bk c)
  let r := d.alloc 0 g
  if r.1 ≠ 0 then r.2.2.stopChannel now c 0x40
  else
    let d := r.2.2
    let d := if d.bit (CHN_RTX_CFG.EN.on c) then
        d.upCh c (fun x => { x with window := x.window ++ [⟨seq, g, r.2.1, bytes.length, now, bytes, false, []⟩] })
      else d
    let p : SwPkt :=
      { act := 8, arg := c, link := none, outs := [], hdr := [], bytes := bytes
        size := 18 + (if d.allV4 c then 20 else 40) + 8 + bytes.length, stamp := .none, buf := some (g, r.2.1) }
    d.toSwitch (8 + d.rd (CHN_PKT_CFG.FEED.on c)) p

/-- One RTP packet of the stream (R372). -/
def Dev.packetRtp (d : Dev) (now c : Nat) : Dev :=
  match d.nextOut c with
  | none => d
  | some o =>
    let codec := d.codec c
    let us := unitsOf codec o.bytes
    match (us.filter (fun u => u.stop > o.toNet && !u.skip)).head? with
    | none => (d.upOutSlice c o o.bytes.length).sweepOut c
    | some u =>
      let rest := us.filter (fun v => v.stop > u.stop)
      let lead := us.takeWhile (fun v => !v.vcl)
      let ap := aggregate codec lead
      let isFirst := (us.filter (fun v => !v.skip)).head? == some u && o.slice = 0
      let k := o.toNet - u.start
      let group := codec != 1 && isFirst && k == 0 && lead.length ≥ 2 && (o.ended || lead.length < us.length) && ap.length ≤ d.maxPay c
      let still := !o.ended && rest.isEmpty
      -- the non-VCL units are awaited while they may still fit one packet
      let waits := codec != 1 && isFirst && k == 0 && !u.vcl && !o.ended && lead.length == us.length && ap.length ≤ d.maxPay c
      let lastStop := match lead.getLast? with | some v => v.stop | none => u.stop
      let out : Option (List Byte × Nat) := if waits then none else if group then some (ap, lastStop)
        else (nextPayload codec (d.maxPay c) k still (o.rap && isFirst && k == 0) u.body).map (fun r =>
          (r.1, if r.2 ≥ u.body.length then u.stop else u.start + r.2))
      match out with
      | none => d
      | some (payload, pos) =>
        let final := o.ended && !us.any (fun v => v.stop > pos && !v.skip)
        -- the last packet of an access unit or temporal unit: a hidden frame ends none
        let ends := match us.find? (fun v => v.stop > pos) with
          | some v => v.skip
          | none => o.ended && o.last && (!o.hidden || !(delimiters us).isEmpty)
        let seq := (d.ch c).pktSeq
        let d := d.upOutSlice c o (if final then o.bytes.length else pos)
        let d := d.upCh c (fun x => { x with pktSeq := (seq + 1) % 65536 })
        let d := (d.emitPacket now c seq (rtpHeader (d.rd (CHN_PKT_RTP.PT.on c)) ends seq (o.tsAt us u.at_)
          (d.rd (CHN_PKT_SSRC.SSRC.on c)) ++ payload))
        d.sweepOut c

/-! Transport stream (R373). -/

/-- CRC-32 of PSI sections, most significant bit first. -/
def crc32Mpeg (bs : List Byte) : Nat :=
  bs.foldl (fun c b => (List.range 8).foldl (fun c k =>
    let x := c / 2 ^ 31 % 2 + (b.toNat / 2 ^ (7 - k)) % 2
    let t := c * 2 % 2 ^ 32
    if x = 1 then t ^^^ 0x04C11DB7 else t) c) 0xFFFFFFFF

/-- A PSI section: table id, identifier, body, and its CRC. -/
def psiSection (table ident : Nat) (body : List Byte) : List Byte :=
  let s := natBE 1 table ++ natBE 2 (0xB000 + body.length + 9) ++ natBE 2 ident ++ [0xC1, 0, 0] ++ body
  s ++ natBE 4 (crc32Mpeg s)

/-- The continuity counter of a PID, and the channel after its use. -/
def Dev.nextCc (d : Dev) (c pid : Nat) : Nat × Dev :=
  let v := match lookupNat (d.ch c).ccs pid with | some v => v | none => 0
  (v, d.upCh c (fun x => { x with ccs := storeIns pid ((v + 1) % 16) x.ccs }))

def tsHead (pid : Nat) (start : Bool) (adapt : Nat) (cc : Nat) : List Byte :=
  [0x47] ++ natBE 2 (ofBool start * 0x4000 + pid) ++ natBE 1 (adapt * 16 + cc)

/-- A PSI section in one transport packet. -/
def Dev.psiPacket (d : Dev) (c pid : Nat) (sec : List Byte) : List Byte × Dev :=
  let r := d.nextCc c pid
  let p := tsHead pid true 1 r.1 ++ [0] ++ sec
  (p ++ List.replicate (188 - p.length) 0xFF, r.2)

/-- stream_type of the video: HEVC, H.264, AV1 (R373). -/
def tsStreamType (codec : Nat) : Nat := if codec = 0 then 0x24 else if codec = 1 then 0x06 else 0x1B

/-- PAT and PMT; the transport_stream_id is a free value. -/
def Dev.tsTables (d : Dev) (c : Nat) : List Byte × Dev :=
  let pmt := d.rd (CHN_PKT_TS.PMT_PID.on c)
  let vid := d.rd (CHN_PKT_TS.VID_PID.on c)
  let t := d.freeVal 16
  let a := t.2.psiPacket c 0 (psiSection 0 t.1 (natBE 2 1 ++ natBE 2 (0xE000 + pmt)))
  let desc : List Byte := if d.codec c ≠ 1 then [] else [0x05, 4, 0x41, 0x56, 0x30, 0x31]
  let audio := ((List.range 2).filter (fun k => d.bit ((CHN_PKT_AUD.EN k).on c))).flatMap (fun k =>
    natBE 1 (d.rd ((CHN_PKT_AUD.STREAM_TYPE k).on c)) ++ natBE 2 (0xE000 + d.rd ((CHN_PKT_AUD.PID k).on c)) ++ natBE 2 0xF000)
  let body := natBE 2 (0xE000 + vid) ++ natBE 2 0xF000 ++ natBE 1 (tsStreamType (d.codec c)) ++ natBE 2 (0xE000 + vid)
    ++ natBE 2 (0xF000 + desc.length) ++ desc ++ audio
  let b := a.2.psiPacket c pmt (psiSection 2 1 body)
  (a.1 ++ b.1, b.2)

/-- A 33-bit time stamp of a PES header, with its 4-bit prefix. -/
def pesTime (pre v : Nat) : List Byte :=
  natBE 1 (pre * 16 + v / 2 ^ 30 % 8 * 2 + 1) ++ natBE 2 (v / 2 ^ 15 % 2 ^ 15 * 2 + 1) ++ natBE 2 (v % 2 ^ 15 * 2 + 1)

/-- The PES header of an access unit; a decoding time that differs from the PTS is a free value. -/
def Dev.pesHeader (d : Dev) (c ts : Nat) : List Byte × Dev :=
  let id := if d.codec c ≠ 1 then 0xE0 else 0xBD
  let head (flags n : Nat) : List Byte := [0, 0, 1, BitVec.ofNat 8 id, 0, 0, 0x84, BitVec.ofNat 8 flags, BitVec.ofNat 8 n]
  if d.hierB c then
    let r := d.freeVal 33
    (if r.1 = ts then head 0x80 5 ++ pesTime 2 ts else head 0xC0 10 ++ pesTime 3 ts ++ pesTime 1 r.1, r.2)
  else (head 0x80 5 ++ pesTime 2 ts, d)

/-- The video packets of a datagram: at most `n`, from `bytes`, the first with the PCR where `pcr` is given; a short packet is stuffed
only at the end of the access unit.  The answer holds the packets, the bytes left, and the state. -/
def Dev.tsVideo (d : Dev) (c : Nat) (ended rap : Bool) : Nat → Option (List Byte) → Bool → List Byte → List Byte × List Byte × Dev
  | 0, _, _, bytes => ([], bytes, d)
  | n + 1, pcr, start, bytes =>
    let af : List Byte := match pcr with | some p => [BitVec.ofNat 8 (0x10 + 0x40 * ofBool rap)] ++ p | none => []
    let cap := 184 - (if af.isEmpty then 0 else af.length + 1)
    if bytes.isEmpty ∨ (bytes.length < cap ∧ !ended) then ([], bytes, d)
    else
      let pid := d.rd (CHN_PKT_TS.VID_PID.on c)
      let cc := d.nextCc c pid
      let take := bytes.take cap
      let spare := cap - take.length
      let adapt : List Byte :=
        if af.isEmpty then
          (if spare = 0 then [] else if spare = 1 then [0] else [BitVec.ofNat 8 (spare - 1), 0] ++ List.replicate (spare - 2) 0xFF)
        else [BitVec.ofNat 8 (af.length + spare)] ++ af ++ List.replicate spare 0xFF
      let p := tsHead pid start (if adapt.isEmpty then 1 else 3) cc.1 ++ adapt ++ take
      let r := cc.2.tsVideo c ended rap n none false (bytes.drop cap)
      (p ++ r.1, r.2.1, r.2.2)

/-- Bytes taken from slices, in order, each up to a limit. -/
def Dev.takeNet (d : Dev) (c : Nat) : List (SliceOut × Nat) → Nat → Dev
  | [], _ => d
  | o :: l, n =>
    let k := min n (o.2 - o.1.toNet)
    (d.upOutSlice c o.1 (o.1.toNet + k)).takeNet c l (n - k)

/-- Where the temporal unit at hand ends within the slice, at the delimiter of the next one. -/
def SliceOut.cut (o : SliceOut) (codec : Nat) : Option Nat :=
  if codec ≠ 1 then none else ((delimiters (unitsOf codec o.bytes)).find? (fun v => v.at_ > o.toNet)).map (·.at_)

/-- The slices of one access unit, or temporal unit, from slice `k` of a picture on, whose bytes follow each other without a gap, each with where
they stop; and whether the unit is complete.  A hidden frame shares its unit with what follows (R104). -/
def auRun (codec : Nat) (l : List SliceOut) : Nat → Nat → Nat → List (SliceOut × Nat) × Bool
  | 0, _, _ => ([], false)
  | fuel + 1, pic, k =>
    match l.find? (fun o => o.pic == pic && o.slice == k) with
    | none => ([], false)
    | some o =>
      match o.cut codec with
      | some a => ([(o, a)], true)
      | none =>
        if !o.ended then ([(o, o.bytes.length)], false)
        else if o.last && !o.hidden then ([(o, o.bytes.length)], true)
        else
          let r := if o.last then auRun codec l fuel (pic + 1) 0 else auRun codec l fuel pic (k + 1)
          ((o, o.bytes.length) :: r.1, r.2)

/-- A datagram's UDP payload: with an RTP header where XPORT is 2. -/
def Dev.tsDatagram (d : Dev) (now c ts : Nat) (marker : Bool) (bytes : List Byte) : Dev :=
  let seq := (d.ch c).pktSeq
  if d.rd (CHN_PKT_CFG.XPORT.on c) = 2 then
    (d.upCh c (fun x => { x with pktSeq := (seq + 1) % 65536 })).emitPacket now c seq
      (rtpHeader 33 marker seq ts (d.rd (CHN_PKT_SSRC.SSRC.on c)) ++ bytes)
  else d.emitPacket now c 0 bytes

/-- A PCR is due between pictures, which lie more than 40 ms apart; so are the tables, where pictures lie more than 100 ms apart (R373; the
margins are a DESIGN CHOICE, log entry 224). -/
def Dev.pcrDue (d : Dev) (now c : Nat) : Bool :=
  decide (d.period c > 40000000) && (match (d.ch c).pcrAt with | some t => decide (now ≥ t + 35000000) | none => false)
def Dev.psiDue (d : Dev) (now c : Nat) : Bool :=
  decide (d.period c > 100000000) && (match (d.ch c).psiAt with | some t => decide (now ≥ t + 90000000) | none => false)

/-- A PCR: the system clock is a free value. -/
def Dev.pcrField (d : Dev) : List Byte × Dev :=
  let r := d.freeVal 42
  (natBE 6 (r.1 % 2 ^ 33 * 2 ^ 15 + 0x3F * 2 ^ 9 + r.1 / 2 ^ 33 % 300), r.2)

/-- With no seven packets of video at hand: the tables and the PCR that are due, in packets of their own. -/
def Dev.packetTables (d : Dev) (now c : Nat) : Dev :=
  let psi := d.psiDue now c
  let pcr := d.pcrDue now c
  if !(psi || pcr) || !(d.chState c == 2 || d.chState c == 3) then d
  else
    let a : List Byte × Dev := if psi then d.tsTables c else ([], d)
    let b : List Byte × Dev := if pcr then
        let vid := d.rd (CHN_PKT_TS.VID_PID.on c)
        let last := ((lookupNat (a.2.ch c).ccs vid).getD 0 + 15) % 16
        let f := a.2.pcrField
        (tsHead vid false 2 last ++ [183, 0x10] ++ f.1 ++ List.replicate 176 0xFF, f.2)
      else ([], a.2)
    let d := b.2.upCh c (fun x => { x with psiAt := if psi then some now else x.psiAt, pcrAt := if pcr then some now else x.pcrAt })
    d.tsDatagram now c (now * 9 / 100000 % 2 ^ 32) false (a.1 ++ b.1)

/-- A datagram of video: up to seven packets of an access unit from slice `o` on; fewer only where the unit ends (R373). -/
def Dev.packetVideo (d : Dev) (now c : Nat) (o : SliceOut) : Dev :=
  let codec := d.codec c
  let us := unitsOf codec o.bytes
  let run := auRun codec (d.ch c).out ((d.ch c).out.length + 1) o.pic o.slice
  let avail := run.1.flatMap (fun q => slice q.1.bytes q.1.toNet (q.2 - q.1.toNet))
  let start := (o.toNet == 0 && o.slice == 0 && o.delimiter) || (o.toNet != 0 && (delimiters us).any (fun v => codec == 1 && v.at_ == o.toNet))
  let ts := o.tsAt us o.toNet
  let psiDue := (start && (o.rap || (match (d.ch c).psiAt with | some t => decide (now + d.period c ≥ t + 100000000) | none => true)))
    || d.psiDue now c
  let psi : List Byte × Dev := if psiDue then d.tsTables c else ([], d)
  let pes : List Byte × Dev := if start then psi.2.pesHeader c ts else ([], psi.2)
  let pcrNow := start || d.pcrDue now c
  let pcr : Option (List Byte) × Dev := if pcrNow then (let r := pes.2.pcrField; (some r.1, r.2)) else (none, pes.2)
  let v := pcr.2.tsVideo c run.2 (o.rap && start) (7 - psi.1.length / 188) pcr.1 start (pes.1 ++ avail)
  let bytes := psi.1 ++ v.1
  let ended := run.2 && v.2.1.isEmpty
  if bytes.length < 7 * 188 ∧ !ended then d.packetTables now c
  else
    let d := (v.2.2).takeNet c run.1 (avail.length - v.2.1.length)
    let d := d.upCh c (fun x => { x with psiAt := if psiDue then some now else x.psiAt, pcrAt := if pcrNow then some now else x.pcrAt })
    (d.tsDatagram now c ts ended bytes).sweepOut c

/-- One datagram of the transport stream (R373): audio packets of the host, video, or what is due between pictures. -/
def Dev.packetTs (d : Dev) (now c : Nat) : Dev :=
  match (d.ch c).audio with
  | a :: l =>
    let now90 := now * 9 / 100000 % 2 ^ 32
    (d.upCh c (fun x => { x with audio := x.audio.drop 7 })).tsDatagram now c now90 false (((a :: l).take 7).flatMap (·.2))
  | [] =>
    match d.nextOut c with
    | none => d.packetTables now c
    | some o => d.packetVideo now c o

/-- The packetiser of a channel closes a packet (R371 to R373); while its feed stalls it waits (R353). -/
def execPacketise (c : Fin 256) (s : State) : Host.Outcome State Fault Refusal :=
  s.run fun e d =>
    if d.isDecode c || !d.bpmOpen || !d.bit (CHN_SINK.EGRESS.on c) || !(d.swIn (8 + d.rd (CHN_PKT_CFG.FEED.on c))).packets.isEmpty then d
    else if d.rd (CHN_PKT_CFG.XPORT.on c) = 0 then d.packetRtp e.now c
    else d.packetTs e.now c

/-! Retransmission (R377, R378). -/

/-- Packets whose RTX_MS ran out leave the window, once the switch has taken them. -/
def execRtxWindowExpire (c : Fin 256) (s : State) : Host.Outcome State Fault Refusal :=
  s.run fun e d =>
    let due (w : WinPkt) : Bool := w.taken && e.now ≥ w.sentAt + d.rd (CHN_RTX_CFG.RTX_MS.on c) * 1000000
    let d' := d.freeAll 0 (((d.ch c).window.filter due).map (fun w => (w.group, w.buf)))
    d'.upCh c (fun x => { x with window := x.window.filter (fun w => !due w) })

/-- The sequence numbers an RTCP compound packet asks for: generic NACKs for one media SSRC. -/
def nackSeqs (ssrc : Nat) : Nat → List Byte → List Nat
  | 0, _ => []
  | fuel + 1, bs =>
    if bs.length < 4 then []
    else
      let n := 4 * (beNat (slice bs 2 2) + 1)
      let body := slice bs 12 (n - 12)
      let mine := (bs.getD 1 0).toNat == 205 && (bs.getD 0 0).toNat % 32 == 1 && beNat (slice bs 8 4) == ssrc
      let here := if mine then (List.range (body.length / 4)).flatMap (fun k =>
          let pid := beNat (slice body (4 * k) 2)
          let blp := beNat (slice body (4 * k + 2) 2)
          pid :: (maskBits 16 blp).map (fun b => (pid + 1 + b) % 65536)) else []
      here ++ nackSeqs ssrc fuel (bs.drop n)

/-- One requested sequence number (R378). -/
def Dev.answerNack (d : Dev) (now c : Nat) (link : Option Nat) (d0 : Nat) : Dev :=
  let d := d.count (CHN_CNT_NACK.COUNT.on c) 1
  let miss := d.count (CHN_CNT_RTX_MISS.COUNT.on c) 1
  match link with
  | none => miss
  | some i =>
    if !d.onList c i then miss
    else match (d.ch c).window.find? (fun w => w.seq == d0 && now ≤ w.sentAt + d.rd (CHN_RTX_CFG.RTX_MS.on c) * 1000000) with
      | none => miss
      | some w =>
        let held := match lookupNat w.answered i with
          | some t => decide (now < t + d.rd (CHN_RTX_CFG.HOLDOFF.on c) * 1000000)
          | none => false
        if held then d
        else
          let seq := (d.ch c).rtxSeq
          let marker := bitAt (w.bytes.getD 1 0).toNat 7
          let bytes := rtpHeader (d.rd (CHN_PKT_RTP.RTX_PT.on c)) marker seq (beNat (slice w.bytes 4 4)) (d.rd (CHN_PKT_RTX_SSRC.SSRC.on c))
            ++ natBE 2 w.seq ++ w.bytes.drop 12
          let d := d.upCh c (fun x => { x with
            rtxSeq := (seq + 1) % 65536
            window := x.window.map (fun q => if q = w then { q with answered := storeIns i now q.answered } else q) })
          let p : SwPkt :=
            { act := 8, arg := c, link := some i, outs := [], hdr := [], bytes := bytes
              size := 18 + (if replV4 (d.replAt i) then 20 else 40) + 8 + bytes.length, stamp := .none, buf := none }
          (d.count (CHN_CNT_RTX.COUNT.on c) 1).toSwitch (8 + d.rd (CHN_PKT_CFG.FEED.on c)) p

/-- The responder takes the oldest frame that asks it (R378); its RTCP packets start at OFS2 of the receive header. -/
def execRtxRequest (s : State) : Host.Outcome State Fault Refusal :=
  s.run fun e d =>
    match d.net.rtxq with
    | [] => d
    | f :: rest =>
      let d := (d.upNet (fun n => { n with rtxq := rest })).requestBpm (.free 0x0B3 0 0 f.buf)
      let c := f.pkt.arg
      let udp := leNat (slice f.pkt.hdr 18 2)
      let at_ := leNat (slice f.pkt.hdr 20 2)
      let rtcp := slice f.pkt.bytes at_ (beNat (slice f.pkt.bytes (udp + 4) 2) - 8)
      if d.isDecode c then d
      else d.forEach (nackSeqs (d.rd (CHN_PKT_SSRC.SSRC.on c)) rtcp.length rtcp) (fun d q => d.answerNack e.now c f.pkt.link q)

end Sys2Proof.Machine
end

