-- ==== Sys2Proof/Machine/Dma.lean ====
section
/-!
DEFINITION. The DMA engines: rings, fetching, service, writeback and aborts (R396 to R412).
-/

namespace Sys2Proof.Machine

/-- A channel's field in its engine's page. -/
def dmaField (f : Nat → Field) (c : Nat) : Field := (f (c % 32)).on (c / 32)

def enField : RingId → Nat → Field
  | .h2d => DMA_CH_CTL.H2D_EN
  | .d2h => DMA_CH_CTL.D2H_EN
def abortField : RingId → Nat → Field
  | .h2d => DMA_CH_CTL.H2D_ABORT
  | .d2h => DMA_CH_CTL.D2H_ABORT
def waitField : RingId → Nat → Field
  | .h2d => DMA_CH_STS.H2D_WAIT
  | .d2h => DMA_CH_STS.D2H_WAIT
def lastField : RingId → Nat → Field
  | .h2d => DMA_CH_STS.H2D_LAST
  | .d2h => DMA_CH_STS.D2H_LAST
def irqField : RingId → Nat → Field
  | .h2d => DMA_CH_STS.H2D_IRQ
  | .d2h => DMA_CH_STS.D2H_IRQ
def doneField : RingId → Nat → Field
  | .h2d => DMA_CH_STS.H2D_ABORT_DONE
  | .d2h => DMA_CH_STS.D2H_ABORT_DONE
def dbField : RingId → Nat → Field
  | .h2d => DMA_H2D_DB.COUNT
  | .d2h => DMA_D2H_DB.COUNT
def ptrField : RingId → Nat → Field
  | .h2d => DMA_H2D_PTR.IDX
  | .d2h => DMA_D2H_PTR.IDX
def baseField : RingId → Nat → Field
  | .h2d => DMA_H2D_BASE.ADDR
  | .d2h => DMA_D2H_BASE.ADDR
def sizeField : RingId → Nat → Field
  | .h2d => DMA_H2D_SIZE.N
  | .d2h => DMA_D2H_SIZE.N

def Dev.ringEn (d : Dev) (c : Nat) (r : RingId) : Bool := d.bit (dmaField (enField r) c)

/-- ROLE and QIDX in force (R398). -/
def Dev.roleOf (d : Dev) (c : Nat) : Nat × Nat := storeGet (fun _ => (0, 0)) d.dma.roles c

/-- A written ROLE and QIDX come into force while both rings are disabled (R398). -/
def Dev.applyRole (d : Dev) (c : Nat) : Dev :=
  if d.ringEn c .h2d || d.ringEn c .d2h then d
  else
    let v := (d.rd (dmaField DMA_CH_CFG.ROLE c), d.rd (dmaField DMA_CH_CFG.QIDX c))
    { d with dma := { d.dma with roles := storeSet (fun _ => (0, 0)) d.dma.roles c v } }

/-- EVT_STS bit of a channel in its engine's page (R410). -/
def Dev.dmaEvent (d : Dev) (c : Nat) : Dev := d.event ⟨pageDMA (c / 32) + 0x010, c % 32, 1, false⟩

/-! Host accesses (R405). -/

/-- A range cut at the multiples of `m`, at most `fuel` pieces. -/
def splitAtMultiples (m : Nat) : Nat → Nat → Nat → List (Nat × Nat)
  | 0, _, _ => []
  | fuel + 1, a, n =>
    if n = 0 then [] else let k := min n (m - a % m); (a, k) :: splitAtMultiples m fuel (a + k) (n - k)

/-- The read requests of a range of host memory: at most MRRS bytes each, cut at its boundaries. -/
def Dev.hostReads (d : Dev) (a n : Nat) : Dev :=
  d.forEach (splitAtMultiples (max 1 d.dma.link.maxRead) n a n) (fun d e => d.send (.hostRead e.1 e.2))

/-- The writes of bytes to host memory: at most MPS bytes each, cut at its boundaries. -/
def Dev.hostWrites (d : Dev) (a : Nat) (bs : List Byte) : Dev :=
  d.forEach (splitAtMultiples (max 1 d.dma.link.maxPayload) bs.length a bs.length) (fun d e => d.send (.hostWrite e.1 (slice bs (e.1 - a) e.2)))

/-! Fetching (R399, R403). -/

/-- A descriptor as its 32 bytes give it. -/
def descOf (bs : List Byte) : Desc :=
  let ctl := leNat (slice bs 20 4)
  let own := leNat (slice bs 24 8)
  { host := leNat (slice bs 0 8), dev := leNat (slice bs 8 8), len := leNat (slice bs 16 4) % 2 ^ 21, kind := ctl / 2 ^ 28 % 16
    irq := bitAt ctl 27, picStart := bitAt ctl 26, lmark := bitAt ctl 25, auEnd := bitAt ctl 24, port := ctl / 2 ^ 16 % 8
    lines := ctl % 2 ^ 13, own := bitAt own 63, tag := own % 2 ^ 16 }

/-- The read of the next descriptor is issued; `again` for the one re-read. -/
def Dev.issueFetch (d : Dev) (c : Nat) (r : RingId) (again : Bool) : Dev :=
  let x := d.ring c r
  (d.upRing c r (fun x => { x with fetching := some (d.rd (dmaField (dbField r) c), again), fetched := none })).send
    (.hostRead (x.base + 32 * x.ptr) 32)

/-- A ring is enabled: base, size and pointer, and a fetch at once (R403, R412). -/
def Dev.enableRing (d : Dev) (c : Nat) (r : RingId) : Dev :=
  if d.ringEn c r then d
  else
    let d := (d.wr (dmaField (enField r) c) 1).upRing c r (fun x => { x with
      base := d.rd (dmaField (baseField r) c) * 64, size := clampNat 2 65536 (d.rd (dmaField (sizeField r) c)), ptr := 0, stopping := false })
    ((d.wr (dmaField (ptrField r) c) 0).wr (dmaField (waitField r) c) 0).issueFetch c r false

def execRingEnable (c : Fin 256) (r : RingId) (s : State) : Host.Outcome State Fault Refusal :=
  s.run fun _ d => d.enableRing c r

/-- A frame of a host delivery queue leaves it; its buffer goes back to group 0. -/
def Dev.popHost (d : Dev) (q : Nat) : Dev :=
  match d.hostq q with
  | f :: l => (d.setHostq q l).requestBpm (.free (0x0C0) 0 0 f.buf)
  | [] => d

/-- The frames of a host delivery queue that no ring takes any more are discarded (R398). -/
def Dev.dropHost (d : Dev) (q : Nat) : Dev :=
  if (d.hostChannel q).isSome then d else d.forEach (d.hostq q) (fun d _ => (d.popHost q).sinkDisc 11)

/-- The enable of a ring is clear: what was fetched is dropped, and roles that waited apply. -/
def Dev.stopRing (d : Dev) (c : Nat) (r : RingId) : Dev :=
  let q := (d.roleOf c).2
  let d := (d.wr (dmaField (enField r) c) 0).wr (dmaField (waitField r) c) 0
  ((d.upRing c r (fun x => { x with fetching := none, fetched := none, stopping := false })).applyRole c).dropHost q

/-- Clearing the enable lets the descriptor in progress complete first (R408). -/
def Dev.disableRing (d : Dev) (c : Nat) (r : RingId) : Dev :=
  if (d.ring c r).active.isSome then
    (d.wr (dmaField (enField r) c) 0).upRing c r (fun x => { x with fetching := none, fetched := none, stopping := true })
  else d.stopRing c r

def execRingDisable (c : Fin 256) (r : RingId) (s : State) : Host.Outcome State Fault Refusal :=
  s.run fun _ d => if d.ringEn c r then d.disableRing c r else d

/-- A doorbell write is stored; it wakes a waiting, enabled ring (R402, R403). -/
def execDoorbellWrite (c : Fin 256) (r : RingId) (count : Fin 4294967296) (s : State) : Host.Outcome State Fault Refusal :=
  s.run fun _ d =>
    let d := d.wr (dmaField (dbField r) c) count
    if d.ringEn c r && d.bit (dmaField (waitField r) c) then (d.wr (dmaField (waitField r) c) 0).issueFetch c r false else d

/-- The read of a descriptor returns (R403, R409). -/
def execDescFetch (c : Fin 256) (r : RingId) (data : List Byte) (s : State) : Host.Outcome State Fault Refusal :=
  s.run fun _ d =>
    match (d.ring c r).fetching with
    | none => d
    | some (seen, again) =>
      let x := descOf data
      if !d.ringEn c r || d.bit (dmaField (abortField r) c) then d.upRing c r (fun x => { x with fetching := none })
      else if x.own then d.upRing c r (fun y => { y with fetching := none, fetched := some x })
      else if !again && d.rd (dmaField (dbField r) c) != seen then d.issueFetch c r true
      else (d.upRing c r (fun x => { x with fetching := none })).wr (dmaField (waitField r) c) 1

/-! Starting (R398, R401, R404). -/

/-- The kinds a ring may carry under its role, and under the stream channel's configuration (R398, R399). -/
def Dev.kindAllowed (d : Dev) (c : Nat) (r : RingId) (k : Nat) : Bool :=
  let role := (d.roleOf c).1
  match r, k with
  | .h2d, 0 => role == 0 || role == 3
  | .d2h, 1 => role == 0 || role == 3
  | .h2d, 2 => role == 0 && !d.isDecode c && !d.isMember c && d.rd (CHN_SRC.KIND.on c) == 0
  | .h2d, 3 => role == 0 && d.isDecode c && d.rd (CHN_SRC.KIND.on c) == 0
  | .h2d, 4 => role == 0 && !d.isDecode c && d.bit (CHN_SINK.EGRESS.on c) && d.rd (CHN_PKT_CFG.XPORT.on c) != 0
  | .d2h, 5 => role == 0 && !d.isDecode c && d.bit (CHN_SINK.HOST.on c)
  | .h2d, 6 => role == 2
  | .d2h, 7 => role == 1
  | _, _ => false

/-- BAD_DESC as far as the descriptor itself shows it (R399). -/
def Dev.badDesc (d : Dev) (c : Nat) (r : RingId) (x : Desc) : Bool :=
  !d.kindAllowed c r x.kind || x.len == 0 || x.len > 1048576
    || (x.kind == 2 && x.dev % 2 ^ 28 + x.len > ((d.storePlan c).getD 0 (0, 0)).2)
    || (x.kind == 4 && (x.len % 188 != 0 || x.len > 12032))
    || (x.kind == 6 && (x.len < 60 || x.len > min 9212 (d.maxFrame x.port - 4)))

/-- What a descriptor does when the half comes to it. -/
inductive StartOf where
  | no
  | ended (status : Nat)
  | go

/-- The next slice for the host: the first in picture and slice order whose bytes are not all handed over (R401). -/
def Dev.nextHostOut (d : Dev) (c : Nat) : Option SliceOut :=
  let l := (d.ch c).out.filter (fun o => o.toHost ≤ o.bytes.length)
  match l.foldl (fun b o => match b with
      | none => some o
      | some q => if o.pic < q.pic ∨ (o.pic = q.pic ∧ o.slice < q.slice) then some o else some q) (none : Option SliceOut) with
  | none => none
  | some o =>
    if (d.ch c).pics.all (fun p => !(p.order < o.pic) && (p.order != o.pic || p.slices.all (fun s => s.idx ≥ o.slice || s.done))) then some o
    else none

/-- Can the descriptor start (R404)? -/
def Dev.startOf (d : Dev) (c : Nat) (r : RingId) (x : Desc) : StartOf :=
  let st := d.chState c
  if d.badDesc c r x then .ended 2
  else match x.kind with
    | 0 | 1 => .go
    | 5 =>
      match d.nextHostOut c with
      | some o => if o.ended || o.bytes.length - o.toHost ≥ x.len then .go else .no
      | none => .no
    | 6 => if (d.swIn 11).packets.isEmpty then .go else .no
    | 7 => if (d.hostq (d.roleOf c).2).isEmpty || d.hostChannel (d.roleOf c).2 != some c then .no else .go
    | k =>
      if st = 1 then .no
      else if st ≠ 2 ∧ st ≠ 3 then .ended 5
      else if k = 2 then (if x.picStart ∧ (d.freeStore c).isNone then .no else .go)
      else if k = 3 then (if d.jbHeld c + cdiv x.len 2048 ≤ d.rd (CHN_DEC_JB.PKTS.on c) then .go else .no)
      else (if (d.ch c).audio.length + x.len / 188 ≤ 64 then .go else .no)

/-- Which channel of a half is in progress, and the ring it served last. -/
def Dev.halfActive (d : Dev) (e : Nat) (r : RingId) : Option Nat :=
  ((List.range 32).map (fun k => 32 * e + k)).find? (fun c => (d.ring c r).active.isSome)
def halfKey (e : Nat) : RingId → Nat
  | .h2d => 2 * e
  | .d2h => 2 * e + 1
def Dev.lastServed (d : Dev) (e : Nat) (r : RingId) : Nat := storeGet (fun _ => 31) d.dma.last (halfKey e r)

def busyField : RingId → Field
  | .h2d => DMA_ENG_STS.IN_BUSY
  | .d2h => DMA_ENG_STS.OUT_BUSY
def chField : RingId → Field
  | .h2d => DMA_ENG_STS.IN_CH
  | .d2h => DMA_ENG_STS.OUT_CH

/-- A descriptor starts: its read requests go out; what a SLICE carries is taken (R401, R404, R405). -/
def Dev.startDesc (d : Dev) (now c : Nat) (r : RingId) (x : Desc) (ended : Option Nat) : Dev :=
  let e := c / 32
  let d := { d with dma := { d.dma with last := storeSet (fun _ => 31) d.dma.last (halfKey e r) (c % 32) } }
  let d := ((d.wr ((busyField r).on e) 1).wr ((chField r).on e) (c % 32)).wr PCI_LINK_STS.L1 0
  let d := d.upRing c r (fun y => { y with fetched := none, active := some x, forced := ended.map (fun s => (s, x.len)), cut := false, outData := [] })
  if ended.isSome then d
  else match r, x.kind with
    | .h2d, 2 =>
      let d := if x.picStart then
          let d := if (d.ch c).storing.isSome then
              match (d.ch c).storing with
              | some i => (d.markBad c i).srcDone now c
              | none => d
            else d
          d.srcOpen c none
        else d
      d.hostReads x.host x.len
    | .h2d, _ => d.hostReads x.host x.len
    | .d2h, 5 =>
      match d.nextHostOut c with
      | some o =>
        d.upRing c r (fun y => { y with outData := slice o.bytes o.toHost x.len, from_ := (o.pic, o.slice, o.toHost) })
      | none => d
    | .d2h, _ => d

/-- The ring that half of engine `e` starts next: in ascending order after the one just served, the first whose descriptor can start
(R404). -/
def Dev.nextStart (d : Dev) (e : Nat) (r : RingId) : Option (Nat × Desc × Option Nat) :=
  ((List.range 32).map (fun k => 32 * e + (d.lastServed e r + 1 + k) % 32)).findSome? (fun c =>
    match (d.ring c r).fetched with
    | some x => (match d.startOf c r x with
        | .no => none
        | .ended st => some (c, x, some st)
        | .go => some (c, x, none))
    | none => none)

/-- A half that is free takes the next ring that can start.  A FRAME_OUT buffer that is too small costs the frame (R401). -/
def execDescStart (e : Fin 8) (r : RingId) (s : State) : Host.Outcome State Fault Refusal :=
  s.run fun env d =>
    if !d.open_ (pageDMA e) || (d.halfActive e r).isSome then d
    else
      match d.nextStart e r with
      | none => d
      | some (c, x, st) =>
        if st.isNone ∧ x.kind = 7 then
          match d.hostq (d.roleOf c).2 with
          | f :: _ =>
            let bs := f.pkt.hdr ++ f.pkt.bytes
            if bs.length > x.len then (d.popHost (d.roleOf c).2).sinkDisc 11
            else (((d.popHost (d.roleOf c).2).startDesc env.now c r x none).upRing c r (fun y => { y with outData := bs }))
          | [] => d
        else d.startDesc env.now c r x st

/-! Ending (R400, R401, R407). -/

/-- The bytes of a BITS descriptor join the unit being received (R148): a new unit starts at each of `starts`. -/
def Dev.takeBits (d : Dev) (e : Env) (c len : Nat) (starts : List Nat) (auEnd : Bool) : Dev :=
  let cuts := (starts.filter (fun a => a < len))
  let d := d.upDec c (fun x => { x with partDone := e.now })
  let d := (cuts.foldl (fun (t : Dev × Nat) a =>
    let d := t.1.upDec c (fun x => { x with part := x.part + (a - t.2) })
    (if (d.dc c).part = 0 then d else d.releaseUnit c 0, a)) (d, 0))
  let d := d.1.upDec c (fun x => { x with part := x.part + (len - d.2) })
  if auEnd ∧ (d.dc c).part ≠ 0 then d.releaseUnit c 0 else d

/-- PKT buffers for `n` pieces of a byte stream; whether all were had. -/
def Dev.jbAllocs (d : Dev) (now c : Nat) : Nat → Dev × Bool
  | 0 => (d, true)
  | n + 1 => let r := d.jbAlloc now c; if r.2 then r.1.jbAllocs now c n else (r.1, false)

/-- The unit a jitter buffer was filling is discarded, with its buffers (R400). -/
def Dev.dropPart (d : Dev) (c : Nat) : Dev :=
  let n := (d.dc c).partPkts
  let l := (d.ch c).jbBufs
  let keep := l.take (l.length - n)
  ((d.upCh c (fun x => { x with jbBufs := keep })).upDec c (fun x => { x with part := 0, partPkts := 0 })).freeAll 0 (l.drop (l.length - n))

/-- Whole audio packets on an enabled PID (R373, R399). -/
def Dev.audioGood (d : Dev) (c : Nat) (data : List Byte) : Bool :=
  (List.range (data.length / 188)).all (fun k =>
    let p := slice data (188 * k) 188
    (p.getD 0 0).toNat == 0x47
      && (List.range 2).any (fun a => d.bit ((CHN_PKT_AUD.EN a).on c) && d.rd ((CHN_PKT_AUD.PID a).on c) == beNat (slice p 1 2) % 8192))

/-- Whole audio packets join the channel's queue (R373). -/
def Dev.takeAudio (d : Dev) (c : Nat) (data : List Byte) : Dev :=
  d.upCh c (fun y => { y with audio := y.audio ++ (List.range (data.length / 188)).map (fun k =>
    let p := slice data (188 * k) 188
    (beNat (slice p 1 2) % 8192, p)) })

/-- Bytes of a SRC descriptor go to the source store being filled (R399); with the first of them the picture has its time (R374). -/
def Dev.storeSrc (d : Dev) (now c : Nat) (x : Desc) (data : List Byte) : Dev :=
  match (d.ch c).storing.bind (fun i => (d.ch c).srcAt i) with
  | some p => (if data.isEmpty then d else d.dateSrc now c).hbmWrites (d.storeAt c 0 p.store + x.dev % 2 ^ 28) data
  | none => d

/-- The first `n` bytes of a SLICE descriptor have reached the host (R401). -/
def Dev.sliceSent (d : Dev) (c : Nat) (y : Ring) (n : Nat) : Dev :=
  if y.cut then d
  else (d.upCh c (fun x => { x with out := x.out.map (fun q => if q.pic = y.from_.1 ∧ q.slice = y.from_.2.1 then { q with toHost := y.from_.2.2 + n } else q) })).sweepOut c

/-- The bytes `moved` of a descriptor in progress that does not reach its end are in place: those of COPY, SRC and whole AUDIO packets;
what was written to the host (R400, R408). -/
def Dev.movePart (d : Dev) (env : Env) (c : Nat) (r : RingId) (q : Desc) (moved : List Byte) : Dev :=
  let y := d.ring c r
  match r, q.kind with
  | .h2d, 0 => d.hbmWrites (q.dev % 2 ^ 35) moved
  | .h2d, 2 => if y.cut then d else d.storeSrc env.now c q moved
  | .h2d, 4 => if !y.cut && d.audioGood c moved then d.takeAudio c moved else d
  | .h2d, _ => d
  | .d2h, 1 => (d.hbmReads (0x0C0 + c / 32) (q.dev % 2 ^ 35) moved.length).hostWrites q.host ((env.seen d).bytes .hbm (q.dev % 2 ^ 35) moved.length)
  | .d2h, 5 => let out := y.outData.take moved.length; (d.hostWrites q.host out).sliceSent c y out.length
  | .d2h, _ => d.hostWrites q.host (y.outData.take moved.length)

/-- What an H2D descriptor's data does: the status it ends with, and the state. -/
def Dev.takeData (d : Dev) (e : Env) (c : Nat) (x : Desc) (data : List Byte) (starts : List Nat) : Nat × Dev :=
  match x.kind with
  | 0 => (0, d.hbmWrites (x.dev % 2 ^ 35) data)
  | 2 =>
    let d := d.storeSrc e.now c x data
    if x.lmark ∧ (d.ch c).storing.isSome then
      let d := d.srcLines e.now c x.lines
      (0, if x.lines ≥ d.height c then d.srcDone e.now c else d)
    else (0, d)
  | 3 =>
    -- units after a damaged one are discarded (R157)
    if (d.dc c).stop.isSome then (0, d) else
    let n := cdiv data.length 2048
    let r := d.jbAllocs e.now c n
    if !r.2 then (5, r.1)
    else
      let d := (r.1.count (CHN_CNT_BYTES.COUNT.on c) data.length).upDec c (fun y => { y with partPkts := y.partPkts + n })
      (0, d.takeBits e c data.length starts x.auEnd)
  | 4 =>
    if d.audioGood c data then (0, d.takeAudio c data) else (2, d)
  | _ => (0, d.toSwitch 11 (injected x.port data .none))

/-- The OWN word of a writeback (R400). -/
def ownWord (sop eop : Bool) (status residue tag : Nat) : Nat :=
  2 ^ 62 + ofBool sop * 2 ^ 61 + ofBool eop * 2 ^ 60 + status * 2 ^ 56 + residue % 2 ^ 21 * 2 ^ 32 + tag

/-- A descriptor is written back, its ring goes on or stops (R400, R408, R410). -/
def Dev.writeBack (d : Dev) (c : Nat) (r : RingId) (x : Desc) (status residue : Nat) (sop eop : Bool) (word : Option Nat) : Dev :=
  let k := c % 32
  let e := c / 32
  let y := d.ring c r
  let a := y.base + 32 * y.ptr
  let d := match word with | some w => d.send (.hostWrite (a + 8) (natLE 8 w)) | none => d
  let d := d.send (.hostWrite (a + 24) (natLE 8 (ownWord sop eop status residue x.tag)))
  let d := (d.count (dmaField DMA_CH_CNT_DESC.COUNT c) 1).wr (dmaField (lastField r) c) status
  let d := if status = 0 then d else d.count (dmaField DMA_CH_CNT_ERR.COUNT c) 1
  let d := match r with
    | .h2d => d.count (DMA_CNT_BYTES_IN.COUNT.on e) (x.len - residue)
    | .d2h => d.count (DMA_CNT_BYTES_OUT.COUNT.on e) (x.len - residue)
  let next := (y.ptr + 1) % max 1 y.size
  let d := (d.upRing c r (fun y => { y with ptr := next, active := none, forced := none, cut := false, outData := [] })).wr (dmaField (ptrField r) c) next
  let d := d.wr ((busyField r).on e) 0
  let d := if x.irq || status != 0 then (d.wr ((irqField r) k |>.on e) 1).dmaEvent c else d
  if status = 2 ∨ status = 3 ∨ status = 4 ∨ status = 6 ∨ y.stopping ∨ !d.ringEn c r then d.stopRing c r
  else if status = 1 then d else d.issueFetch c r false

/-- A non-OK SRC descriptor makes its picture bad; a non-OK BITS descriptor discards the unit being filled (R400). -/
def Dev.descFailed (d : Dev) (c : Nat) (x : Desc) (status : Nat) : Dev :=
  if status = 0 then d
  else match x.kind with
    | 2 => match (d.ch c).storing with | some i => d.markBad c i | none => d
    | 3 => d.dropPart c
    | _ => d

/-- A descriptor ends with a status other than OK: SOP and EOP as its kind and place give them (R400). -/
def Dev.endBadly (d : Dev) (c : Nat) (r : RingId) (q : Desc) (status residue : Nat) : Dev :=
  let y := d.ring c r
  let sop := q.kind == 7 || (q.kind == 5 && y.forced.isNone && y.from_.2.2 == 0)
  (d.descFailed c q status).writeBack c r q status residue sop (q.kind == 7) none

/-- The slice status word, if a SLICE descriptor carries the last bytes of its slice; the slice leaves the host's output (R401). -/
def Dev.endSlice (d : Dev) (c : Nat) (y : Ring) : Option Nat × Dev :=
  match (d.ch c).out.find? (fun o => !y.cut && o.pic == y.from_.1 && o.slice == y.from_.2.1) with
  | some o =>
    if o.ended && o.toHost ≥ o.bytes.length then
      let d := d.upCh c (fun x => { x with out := x.out.map (fun q => if q = o then { q with toHost := o.bytes.length + 1 } else q) })
      (some o.status, d.sweepOut c)
    else (none, d)
  | none => (none, d)

/-- First poisoned byte of an HBM range, as an offset. -/
def Dev.poisonAt (d : Dev) (a n : Nat) : Option Nat := ((wordsOf a n).find? (fun w => d.poison.contains w)).map (fun w => w - a)

/-- The bytes a descriptor has still to move lie in HBM that its engine gets (R294, R300); the buffers of coded bytes come from the BPM (R368). -/
def Dev.descTakes (d : Dev) (c : Nat) (r : RingId) (x : DmaEnd) : Bool :=
  match (d.ring c r).active, x with
  | some q, .done _ _ =>
    (match r, q.kind with
    | .h2d, 0 | .d2h, 1 => d.hbmTakes (0x0C0 + c / 32) (q.dev % 2 ^ 35) q.len
    | .h2d, 2 =>
      (match (d.ch c).storing.bind (fun i => (d.ch c).srcAt i) with
      | some p => d.hbmTakes (0x0C0 + c / 32) (d.storeAt c 0 p.store + q.dev % 2 ^ 28) q.len
      | none => true)
    | .h2d, 3 => d.bpmOpen || (d.dc c).stop.isSome
    | _, _ => true)
  | _, _ => true

/-- A descriptor ends (R400): the result of its data phase is `x`. -/
def Dev.finishDesc (d : Dev) (env : Env) (c : Nat) (r : RingId) (x : DmaEnd) : Dev :=
  let y := d.ring c r
  match y.active with
  | none => d
  | some q =>
    let wb (d : Dev) (st res : Nat) : Dev := d.endBadly c r q st res
    match y.forced, x with
    | some f, _ => wb d f.1 f.2
    | none, .pcieErr moved why =>
      let part := moved.take q.len
      wb ((if why = 2 then d.event PCI_EVT.POISON_RX else d).movePart env c r q part) 3 (q.len - part.length)
    | none, .bufPar moved =>
      let part := moved.take q.len
      wb ((d.flag (DMA_FLT.BUF_PAR.on (c / 32))).movePart env c r q part) 6 (q.len - part.length)
    | none, .done data starts =>
      match r with
      | .h2d =>
        let stream := q.kind == 2 || q.kind == 3 || q.kind == 4
        if stream && (y.cut || !(d.chState c == 2 || d.chState c == 3)) then
          let part := data.take q.len
          wb (d.movePart env c r q part) 5 (q.len - part.length)
        else
          let t := d.takeData env c q (data.take q.len) starts
          wb t.2 t.1 (if t.1 = 0 then q.len - data.length else q.len)
      | .d2h =>
        match q.kind with
        | 1 =>
          let a := q.dev % 2 ^ 35
          match d.poisonAt a q.len with
          | some o => wb ((d.hbmReads (0x0C0 + c / 32) a (o + 1)).hostWrites q.host ((env.seen d).bytes .hbm a o)) 4 (q.len - o)
          | none => wb ((d.hbmReads (0x0C0 + c / 32) a q.len).hostWrites q.host ((env.seen d).bytes .hbm a q.len)) 0 0
        | 5 =>
          let out := if y.cut then y.outData.take data.length else y.outData
          let w := (d.sliceSent c y out.length).endSlice c y
          (w.2.hostWrites q.host out).writeBack c r q 0 (q.len - out.length) (y.from_.2.2 == 0) w.1.isSome w.1
        | _ => (d.hostWrites q.host y.outData).writeBack c r q 0 (q.len - y.outData.length) true true none

def execDescWriteback (e : Fin 8) (r : RingId) (x : DmaEnd) (s : State) : Host.Outcome State Fault Refusal :=
  s.run fun env d =>
    match d.halfActive e r with
    | some c => if d.bit (dmaField (abortField r) c) || !d.descTakes c r x then d else d.finishDesc env c r x
    | none => d

/-- A read goes unanswered within the completion timeout (R395). -/
def execCplTimeout (e : Fin 8) (r : RingId) (moved : List Byte) (s : State) : Host.Outcome State Fault Refusal :=
  s.run fun env d =>
    match d.halfActive e r with
    | some c =>
      let d := ((d.count PCI_CNT_CPL_TO.COUNT 1).event PCI_EVT.CPL_TO).send .aer
      if d.bit (dmaField (abortField r) c) then d else d.finishDesc env c r (.pcieErr moved 0)
    | none => d

/-! Aborts (R408, R409). -/

/-- A write of 1 to a ring's ABORT. -/
def execRingAbort (c : Fin 256) (r : RingId) (s : State) : Host.Outcome State Fault Refusal :=
  s.run fun _ d => d.wr (dmaField (abortField r) c) 1

/-- The abort of a ring completes: `moved` are the bytes its descriptor had moved (R408). -/
def Dev.endAbort (d : Dev) (env : Env) (c : Nat) (r : RingId) (moved : List Byte) : Dev :=
  let y := d.ring c r
  let d := match y.active with
    | none => d
    | some q =>
      let part := moved.take q.len
      (d.movePart env c r q part).endBadly c r q 1 (q.len - part.length)
  let d := (d.stopRing c r).wr (dmaField (abortField r) c) 0
  (d.wr (dmaField (doneField r) c) 1).dmaEvent c

/-- An abort completes: the descriptor in progress, of whose bytes `moved` were transferred, is written back with ABORTED. -/
def execAbortDone (c : Fin 256) (r : RingId) (moved : List Byte) (s : State) : Host.Outcome State Fault Refusal :=
  s.run fun env d =>
    if !d.bit (dmaField (abortField r) c) then d
    else
      d.endAbort env c r moved

end Sys2Proof.Machine
end

