-- ==== Sys2Proof/Machine/Pcie.lean ====
section
/-!
DEFINITION. The PCIe endpoint: resets, the link, MSI-X, the windows WIN2 and WIN4, and the errors at the endpoint (R391 to R396, R410,
R413, R523).
-/

namespace Sys2Proof.Machine

/-- The PCI and DMA blocks under PERST_N or a Function Level Reset (R396): descriptors in progress end without writeback, the DMA
channels return to their reset configuration while their counters stay (R37), PCI_WIN2_POS to 0, the MSI-X table and array to their reset state. -/
def Dev.pciReset (d : Dev) : Dev :=
  let d := { d with
    regs := storeDrop (fun k => pageDMA 0 ≤ k && k < pagePCI && k % 0x1000 ≥ 0x100 && k % 64 < 0x38) d.regs
    liveHeld := storeDrop (fun k => pageDMA 0 ≤ k && k < pagePCI && k % 0x1000 ≥ 0x100) d.liveHeld
    dma := { d.dma with rings := [], roles := [], last := [] }
    pci := { msixTable := [], pba := [], funcMask := false } }
  let d := d.forEach (List.range 8) (fun d e => (d.setWord (pageDMA e + 0x040) 0).dropHost e)
  d.wr PCI_WIN2_POS.POS 0

/-- The link is down. -/
def Dev.pcieDown (d : Dev) : Dev := d.setWord (pagePCI + 0x040) 0

/-- The PCIe link's state with `f` applied. -/
def Dev.upLink (d : Dev) (f : PcieLink → PcieLink) : Dev := { d with dma := { d.dma with link := f d.dma.link } }

/-- What the host programmed in configuration space is gone (R396; the base specification's reset). -/
def Dev.configReset (d : Dev) : Dev := d.upLink (fun l => { PcieLink.reset with perst := l.perst })

def execPerstAssert (s : State) : Host.Outcome State Fault Refusal :=
  .next <| s.act fun _ d =>
    let d := d.pciReset.configReset.pcieDown
    d.upLink (fun l => { l with perst := true })

def execFlr (s : State) : Host.Outcome State Fault Refusal := s.runLink fun _ d => d.pciReset.configReset

/-- The link comes up; strap PCIE_X8 limits it to 8 lanes (R391, R41). -/
def execPcieLinkUp (width : Fin 64) (speed : Fin 16) (s : State) : Host.Outcome State Fault Refusal :=
  s.runLink fun _ d =>
    if d.dma.link.perst || width.val == 0 || width.val > (if d.bit GLB_STRAP.PCIE_X8 then 8 else 16) || speed.val == 0 || speed.val > 5 then d
    else ((d.wr PCI_LINK_STS.WIDTH width).wr PCI_LINK_STS.SPEED speed).wr PCI_LINK_STS.UP 1

/-! MSI-X (R410). -/

/-- Some active source is routed to the vector. -/
def Dev.vectorAsserted (d : Dev) (v : Nat) : Bool :=
  (List.range 1024).any (fun s => d.sourceActive s && d.routeKind s == 5 && d.routeVector s == v)

/-- A vector that is pending and no longer masked: its message is sent if a source is still asserted. -/
def Dev.sendPending (d : Dev) (v : Nat) : Dev :=
  if d.vectorMasked v || !d.pci.pba.contains v then d
  else
    let d' := { d with pci := { d.pci with pba := d.pci.pba.filter (· != v) } }
    if d.vectorAsserted v then d'.message v else d'

/-- A word of the MSI-X table is written. -/
def Dev.setMsix (d : Dev) (k v : Nat) : Dev :=
  let v := if k % 4 = 3 then v % 2 else if k % 4 = 0 then v / 4 * 4 else v
  { d with pci := { d.pci with msixTable := storeSet msixReset d.pci.msixTable k v } }

def execMsixUnmask (v : Fin 2048) (s : State) : Host.Outcome State Fault Refusal :=
  s.run fun _ d => (d.setMsix (4 * v + 3) 0).sendPending v

/-! LTR and L1 (R413). -/

/-- The latencies in PCI_LTR go out. -/
def Dev.sendLtr (d : Dev) : Dev := d.send (.ltr (d.rd PCI_LTR.SNOOP) (d.rd PCI_LTR.NOSNOOP))

/-- A write of PCI_LTR sends a message; while the clock of the PCIe core is stopped it waits (R28). -/
def execLtrWrite (data : Fin 4294967296) (s : State) : Host.Outcome State Fault Refusal :=
  s.run fun _ d =>
    let w : Word := BitVec.ofNat 32 data
    if d.pageClocked .PCI 0 then (d.setWord (pagePCI + 0x048) w).sendLtr else d.holdLive (pagePCI + 0x048) (maskOf 31 0) w 0

/-- The link was idle for US µs, with ASPM L1 enabled; 0 never requests. -/
def execL1IdleExpire (s : State) : Host.Outcome State Fault Refusal :=
  s.run fun _ d =>
    if d.bit PCI_LINK_STS.UP && d.dma.link.aspmL1 && d.rd PCI_L1_IDLE.US != 0 && !d.bit PCI_LINK_STS.L1 then
      (d.wr PCI_LINK_STS.L1 1).send .l1Request
    else d

/-! The windows (R393, R395). -/

/-- A poisoned host write: discarded, advisory non-fatal, POISON_RX. -/
def Dev.poisonedWrite (d : Dev) : Dev := (d.event PCI_EVT.POISON_RX).send .aer

/-- A host access through WIN2; only bytes within the window exist. -/
def execWin2Access (off : Fin 268435456) (op : WinOp) (s : State) : Host.Outcome State Fault Refusal :=
  s.run fun e d =>
    let a := d.rd PCI_WIN2_POS.POS * 2 ^ 28 + off
    let room := 268435456 - off.val
    let d := d.wr PCI_LINK_STS.L1 0
    match op with
    | .read n =>
      let n := min n room
      if d.hbmTakes 0x0C8 a n then (d.hbmReads 0x0C8 a n).send (.readData (e.bytes .hbm a n) (d.poisoned a n)) else d
    | .write bs poisoned =>
      if poisoned then d.poisonedWrite else if d.hbmTakes 0x0C8 a (bs.take room).length then d.hbmWrites a (bs.take room) else d

/-- Words of the MSI-X structures: table, then pending-bit array. -/
def Dev.win4Word (d : Dev) (k : Nat) : Nat :=
  if k < 8192 then storeGet msixReset d.pci.msixTable k else bitsMask ((List.range 32).filter (fun b => d.pci.pba.contains (32 * (k - 8192) + b)))

/-- A write of one word of the table, with the message a vector that it unmasks sends. -/
def Dev.win4Write (d : Dev) (k v : Nat) : Dev := if k < 8192 then (d.setMsix k v).sendPending (k / 4) else d

/-- How many bytes a host access covers. -/
def winSize : WinOp → Nat
  | .read n => n
  | .write bs _ => bs.length

/-- A host access to WIN4 in whole words; beyond table and array an Unsupported Request. -/
def execWin4Access (off : Fin 65536) (op : WinOp) (s : State) : Host.Outcome State Fault Refusal :=
  s.run fun _ d =>
    let d := d.wr PCI_LINK_STS.L1 0
    if off.val + winSize op > 0x8100 then ((d.event PCI_EVT.UR_RX).send .unsupported).send .aer
    else match op with
      | .read n =>
        let bs := (List.range (n / 4 + 2)).flatMap (fun i => natLE 4 (d.win4Word (off / 4 + i)))
        d.send (.readData (slice bs (off % 4) n) false)
      | .write bs poisoned =>
        if poisoned then d.poisonedWrite
        else if off % 4 ≠ 0 ∨ bs.length % 4 ≠ 0 then d
        else d.forEach (List.range (bs.length / 4)) (fun d i => d.win4Write (off / 4 + i) (leNat (slice bs (4 * i) 4)))

/-! Errors and configuration (R391, R395). -/

def execLinkErrorReplay (s : State) : Host.Outcome State Fault Refusal := s.run fun _ d => (d.count PCI_CNT_CORR.COUNT 1).send .aer

def execMalformedTlp (s : State) : Host.Outcome State Fault Refusal := s.run fun _ d => d.event PCI_EVT.MALFORMED

def execUnexpectedCompletion (s : State) : Host.Outcome State Fault Refusal := s.run fun _ d => d.event PCI_EVT.UNEXP_CPL

/-- A configuration write: payload sizes other than 128, 256 and 512 bytes, and requests above 4,096, are not supported and leave the
size as it was. -/
def execPcieConfigWrite (w : PcieCfg) (s : State) : Host.Outcome State Fault Refusal :=
  s.runLink fun _ d =>
    match w with
    | .maxPayload k => if k.val ≤ 2 then d.upLink (fun l => { l with maxPayload := 128 * 2 ^ k.val }) else d
    | .maxRead k => if k.val ≤ 5 then d.upLink (fun l => { l with maxRead := 128 * 2 ^ k.val }) else d
    | .busMaster on => d.upLink (fun l => { l with busMaster := on })
    | .aspmL1 on => d.upLink (fun l => { l with aspmL1 := on })
    | .powerD3 on => d.upLink (fun l => { l with d3 := on })
    | .msixMask on => ({ d with pci := { d.pci with funcMask := on } }).forEach (List.range 2048) Dev.sendPending

end Sys2Proof.Machine
end

