-- ==== Sys2Proof/Machine/PixelEngines.lean ====
section
/-!
DEFINITION. The service commands of the pixel engines (chapter 8): microcode banks, quarantine, self-test, release, retirement
and operating points.
-/

namespace Sys2Proof.Machine

/-- A bank's validity and generation set; the generation of an invalid bank reads 0 (R229). -/
def Dev.setBank (d : Dev) (e bank : Nat) (valid : Bool) (gen : Nat) : Dev :=
  (d.wr ((if bank = 0 then PXE_UC_STS.VALID0 else PXE_UC_STS.VALID1).on e) (ofBool valid)).wr
    ((if bank = 0 then PXE_UC_GEN.GEN0 else PXE_UC_GEN.GEN1).on e) (if valid then gen else 0)

/-- A generation is assigned to some channel that is not CLOSED (R213, R252). -/
def Dev.genInUse (d : Dev) (g : Nat) : Bool :=
  g != 0 && (List.range 256).any (fun c => d.chState c != 0 && (d.genOf c == g || d.rd (WDP_CHN_GEN.PEND.bk c) == g))

/-- A generation is assigned to some channel (R216). -/
def Dev.genAssigned (d : Dev) (g : Nat) : Bool :=
  g != 0 && (List.range 256).any (fun c => d.genOf c == g || d.rd (WDP_CHN_GEN.PEND.bk c) == g)

/-- The bank holds a generation in use. -/
def Dev.bankInUse (d : Dev) (e bank : Nat) : Bool := d.bankValid e bank && d.genInUse (d.bankGen e bank)

/-- A microcode command ends: RESULT, LAST_BANK, UC_DONE (R213). -/
def Dev.ucResult (d : Dev) (e bank result : Nat) : Dev :=
  ((d.wr (PXE_UC_STS.RESULT.on e) result).wr (PXE_UC_STS.LAST_BANK.on e) bank).event (PXE_EVT.UC_DONE.on e)

/-- The outcome of a digest check of a loaded bank: 1 PASS, 2 MISMATCH, 3 NO_ENTRY. -/
def checkResult (man : List ManEntry) (gen : Nat) (words : List Nat) : Nat :=
  match man.find? (fun m => m.gen == gen) with
  | none => 3
  | some m => if m.len = words.length ∧ m.digest = wordsDigest words then 1 else 2

/-- Not for a retired engine, nor for one that is not IDLE (R217, R222, R227). -/
def Dev.pxeAccepts (d : Dev) (e off : Nat) (f : Dev → Dev) : Dev :=
  if d.pxeService e = 3 then d else if !d.pxeIdle e then d.ignored (pagePXE e) off else f d

/-- PXE_UC_CMD LOAD (R213). -/
def execPxeUcLoad (e : Fin 128) (bank : Bool) (s : State) : Host.Outcome State Fault Refusal :=
  s.run fun _ d => d.pxeAccepts e 0x050 fun d =>
    let b := ofBool bank
    let gen := d.rd (PXE_UC_LOADCFG.GEN.on e)
    if d.bankInUse e b then d.ucResult e b 4
    else if d.bankValid e (1 - b) && d.bankGen e (1 - b) == gen then d.ucResult e b 6
    else (d.setBank e b false 0).upPx e (fun x => { x with op := .load b })

/-- PXE_UC_CMD CHECK (R213). -/
def execPxeUcCheck (e : Fin 128) (bank : Bool) (s : State) : Host.Outcome State Fault Refusal :=
  s.run fun _ d => d.pxeAccepts e 0x050 fun d =>
    let b := ofBool bank
    if d.bankValid e b then d.upPx e (fun x => { x with op := .check b }) else d.ucResult e b 3

/-- PXE_UC_CMD INVALIDATE (R213). -/
def execPxeUcInvalidate (e : Fin 128) (bank : Bool) (s : State) : Host.Outcome State Fault Refusal :=
  s.run fun _ d => d.pxeAccepts e 0x050 fun d =>
    let b := ofBool bank
    if d.bankInUse e b then d.ucResult e b 4 else (d.setBank e b false 0).ucResult e b 1

/-- A check of a bank whose digest or entry fails invalidates it, and faults where its generation is assigned (R213, R216). -/
def Dev.checkBank (d : Dev) (now e bank : Nat) : Dev × Nat :=
  let gen := d.bankGen e bank
  let r := checkResult d.pxeMan gen ((d.px e).bank bank).image
  if r = 1 then (d, 1)
  else
    let used := d.genAssigned gen
    let d := d.setBank e bank false 0
    (if used then d.pxeFault now e 7 none none else d, r)

/-- The load of bank `b` ends (R212, R213). -/
def Dev.loadEnds (d : Dev) (env : Env) (e b : Nat) (poison : Bool) : Dev :=
  let d := d.upPx e (fun x => { x with op := .none })
  let gen := d.rd (PXE_UC_LOADCFG.GEN.on e)
  let len := d.rd (PXE_UC_LOADCFG.LEN.on e)
  let src := d.rd (PXE_UC_SRC.ADDR.on e) * 64
  let words := env.image src len
  let poison := poison || (List.range len).any (fun k => d.poisoned (src + 8 * k) 5)
  let r := if len = 0 ∨ len > 8192 then 5
    else match d.pxeMan.find? (fun m => m.gen == gen) with
      | none => 3
      | some m => if m.len ≠ len then 5 else if poison then 7 else checkResult d.pxeMan gen words
  let d := if r = 1 ∨ r = 2 ∨ r = 7 then d.hbmReads e src (8 * len) else d
  let d := if r = 1 ∨ r = 2 then
      d.upPx e (fun x => if b = 0 then { x with bank0 := x.bank0.load words } else { x with bank1 := x.bank1.load words }) else d
  let d := if r = 1 then d.setBank e b true gen else d
  let d := if r = 1 ∧ d.pxeService e = 0 then d.quarantine e else d
  (d.ucResult e b r).pxeBoundary e

/-- The fetch of a load waits while the HBM channels that hold the image take nothing (R294, R300). -/
def Dev.loadHeld (d : Dev) (e : Nat) : Bool :=
  let len := d.rd (PXE_UC_LOADCFG.LEN.on e)
  len != 0 && len ≤ 8192 && !d.hbmTakes e (d.rd (PXE_UC_SRC.ADDR.on e) * 64) (8 * len)

/-- A load or check ends (R213); `poison` tells an uncorrectable HBM error that the fetch met first. -/
def execPxeUcDone (e : Fin 128) (poison : Bool) (s : State) : Host.Outcome State Fault Refusal :=
  s.run fun env d =>
    match (if d.safe then PxeOp.none else (d.px e).op) with
    | .load b => if d.loadHeld e then d else d.loadEnds env e b poison
    | .check b =>
      let d := d.upPx e (fun x => { x with op := .none })
      let r := d.checkBank env.now e b
      (r.1.ucResult e b r.2).pxeBoundary e
    | _ => d

/-- PXE_CTL.QUAR (R218). -/
def Dev.pxeQuar (d : Dev) (e : Nat) : Dev :=
  if d.pxeService e != 1 then d
  else if d.bit (PXE_JOB.ACTIVE.on e) then d.upPx e (fun x => { x with quarAfter := true })
  else d.quarantine e

def execPxeQuar (e : Fin 128) (s : State) : Host.Outcome State Fault Refusal := s.run fun _ d => d.pxeQuar e

/-- PXE_CTL.SELFTEST (R219). -/
def Dev.pxeSelftest (d : Dev) (e : Nat) : Dev :=
  d.pxeAccepts e 0x040 fun d =>
  if d.pxeService e != 2 then d
  else if !d.bankValid e 0 && !d.bankValid e 1 then d.wr (PXE_STS.ST_RESULT.on e) 3
  else (d.wr (PXE_CTL.SELFTEST.on e) 1).upPx e (fun x => { x with op := .selftest, stFault := false, entry := 20 })

def execPxeSelftest (e : Fin 128) (s : State) : Host.Outcome State Fault Refusal := s.run fun _ d => d.pxeSelftest e

/-- The self-test ends: `pass` is what the engine found, and the valid banks are checked; a datapath test whose first word is illegal fails with
UC_ILL (R211, R219). -/
def Dev.selftestEnds (d : Dev) (now e : Nat) (pass : Bool) : Dev :=
  let check (t : Dev × Bool) (b : Nat) : Dev × Bool :=
    if t.1.bankValid e b then
      let r := t.1.checkBank now e b
      (r.1, t.2 && r.2 == 1)
    else t
  let dead := (d.testBank e).any (fun b => ((d.px e).bank b).dead (d.px e).entry)
  let d := (if dead then d.flag (PXE_FLT.UC_ILL.on e) else d).clearCache e
  let r := check (check (d, true) 0) 1
  let ok := pass && !dead && r.2 && !(r.1.px e).stFault
  let d := r.1.upPx e (fun x => { x with op := .none, stFault := false })
  let d := (d.wr (PXE_CTL.SELFTEST.on e) 0).wr (PXE_STS.ST_RESULT.on e) (if ok then 1 else 2)
  (d.event (PXE_EVT.SELFTEST_DONE.on e)).pxeBoundary e

/-- The self-test ends: `pass` tells the march test and the datapath test; the check of each valid bank is part of it (R219). -/
def execPxeSelftestDone (e : Fin 128) (pass : Bool) (s : State) : Host.Outcome State Fault Refusal :=
  s.run fun env d =>
    if (d.px e).op != .selftest || d.safe then d
    else
      d.selftestEnds env.now e pass

/-- PXE_CTL.RELEASE (R217, R232). -/
def Dev.pxeRelease (d : Dev) (e : Nat) : Dev :=
  d.pxeAccepts e 0x040 fun d =>
  if d.pxeService e = 2 ∧ d.rd (PXE_STS.ST_RESULT.on e) = 1 then
    (d.wr (PXE_STS.SERVICE.on e) 1).upPx e (fun x => { x with infoFree := true })
  else d

def execPxeRelease (e : Fin 128) (s : State) : Host.Outcome State Fault Refusal := s.run fun _ d => d.pxeRelease e

/-- PXE_CTL.RETIRE (R217). -/
def Dev.pxeRetire (d : Dev) (e : Nat) : Dev :=
  d.pxeAccepts e 0x040 fun d => (d.wr (PXE_STS.SERVICE.on e) 3).wr (PXE_CTL.RETIRE.on e) 1

def execPxeRetire (e : Fin 128) (s : State) : Host.Outcome State Fault Refusal := s.run fun _ d => d.pxeRetire e

/-- One step of an operating-point change. -/
def Dev.oppStep (d : Dev) (e : Nat) : OppStep → Dev
  | .voltage v => d.wr (PXE_OPP_STS.VSET.on e) v
  | .frequency f => d.wr (PXE_OPP_STS.FREQ.on e) f

/-- The operating-point change completes: its steps, in order (R221; the row is one, DESIGN CHOICE, log entry 182). -/
def execOppDone (e : Fin 128) (s : State) : Host.Outcome State Fault Refusal :=
  s.run fun _ d =>
    match (d.px e).oppSteps with
    | [] => d
    | l =>
      let d := (d.forEach l (fun d x => d.oppStep e x)).wr (PXE_OPP_STS.CHANGING.on e) 0
      ((d.upPx e (fun x => { x with oppSteps := [] })).event (PXE_EVT.OPP_DONE.on e)).antResume e

end Sys2Proof.Machine
end

