-- ==== Sys2Proof/Machine/Clocks.lean ====
section
/-!
DEFINITION. Clock domains: locks, voltage changes and Antler measurements (R473 to R475, R511 to R513, R521, R536).
-/

namespace Sys2Proof.Machine

/-- The nominal frequency in force in kHz (R511). -/
def Dev.nominalKHz (d : Dev) (dom : Nat) : Nat :=
  let eth (p : Nat) : Nat := if d.bit (ETH_CTL.SPEED.on p) then 644531 else 322266
  if dom < 128 then d.rd (PXE_OPP_STS.FREQ.on dom) * 10000
  else if dom < 160 then 1200000
  else if dom < 192 then 800000
  else if dom < 200 then eth (dom - 192)
  else if dom < 208 then eth (dom - 200)
  else match dom - 208 with
    | 0 => 1250000 | 1 => 1000000 | 2 => 1000000 | 3 => 250000 | 4 => 1000000 | 5 => 1000000 | 6 => 1600000 | 7 => 800000
    | 8 => 25000 | 9 => 100000 | 10 => Config.sdKHz | 12 => 500000 | _ => 0

/-- CLK_STS.FREQ (R526). -/
def Dev.nominalMHz (d : Dev) (dom : Nat) : Nat :=
  let f := d.nominalKHz dom
  if f % 1000 = 0 then f / 1000 else Config.wholeMHz f

def Dev.ck (d : Dev) (dom : Nat) : Clk := storeGet (fun _ => Clk.reset) d.clks dom
def Dev.setCk (d : Dev) (dom : Nat) (x : Clk) : Dev := { d with clks := storeSet (fun _ => Clk.reset) d.clks dom x }

/-- The sweep of the domain's HMC is gathering (R464). -/
def Dev.sweepHolds (d : Dev) (dom : Nat) : Bool :=
  160 ≤ dom && dom < 192 && d.bit BGS_CAL_STS.BUSY && d.rd BGS_CAL_STS.HMC == dom - 160

/-- A voltage change that waits starts, unless a measurement or a sweep holds it, FRZ defers it, or no clock runs (R513, R524). -/
def Dev.tryOpp (d : Dev) (dom : Nat) : Dev :=
  match (d.ck dom).waits with
  | none => d.wr (CLK_STS.HELD.on dom) 0
  | some v =>
    if (d.ck dom).target.isSome then d
    else if d.measuring dom || d.sweepHolds dom then d.wr (CLK_STS.HELD.on dom) 1
    else if d.frozen (pageCLK dom) || !d.clockRuns dom then d.wr (CLK_STS.HELD.on dom) 0
    else ((d.setCk dom { target := some v, waits := none }).wr (CLK_STS.HELD.on dom) 0).wr (CLK_STS.CHANGING.on dom) 1

/-- The voltage that a domain is going to, or is at. -/
def Dev.goingTo (d : Dev) (dom : Nat) : Nat := match (d.ck dom).target with | some t => t | none => d.rd (CLK_STS.VSET.on dom)

/-- CLK_OPP.VSET written (R513, R525): the voltage goes to the step, unless it is there. -/
def Dev.setClkOpp (d : Dev) (dom vset : Nat) : Dev :=
  if clkNoVset dom then d
  else
    let d := d.wr (CLK_OPP.VSET.on dom) vset
    let v := min 32 vset
    (d.setCk dom { d.ck dom with waits := if d.goingTo dom = v then none else some v }).tryOpp dom

def execClkOppWrite (dom : Fin 221) (vset : Fin 64) (s : State) : Host.Outcome State Fault Refusal :=
  s.run fun _ d => d.setClkOpp dom vset

/-- The change is complete (R513). -/
def execClkOppDone (dom : Fin 221) (s : State) : Host.Outcome State Fault Refusal :=
  s.run fun _ d =>
    match (d.ck dom).target with
    | none => d
    | some v =>
      let d := (d.wr (CLK_STS.VSET.on dom) v).wr (CLK_STS.CHANGING.on dom) 0
      let d := (d.setCk dom { d.ck dom with target := none }).event (CLK_EVT.OPP_DONE.on dom)
      let d := if 160 ≤ dom.val ∧ dom.val < 192 then d.upBgs (fun b => { b with again := b.again ++ [dom.val - 160] }) else d
      (d.antResume dom).tryOpp dom

/-- A free value from `a` to `b`, in either order. -/
def Dev.freeWithin (d : Dev) (a b : Nat) : Nat × Dev :=
  let r := d.freeVal 16
  (min a b + r.1 % (max a b - min a b + 1), r.2)

/-- A change in progress is abandoned at its current voltage, which lies between the two end points (R513, R521). -/
def Dev.abandonOpp (d : Dev) (dom : Nat) : Dev :=
  let d := match (d.ck dom).target with
    | none => d
    | some v =>
      let r := d.freeWithin (d.rd (CLK_STS.VSET.on dom)) v
      ((r.2.setCk dom { d.ck dom with target := none }).wr (CLK_STS.VSET.on dom) r.1).wr (CLK_STS.CHANGING.on dom) 0
  if dom ≥ 128 then d
  else match (d.px dom).oppSteps with
    | [] => d
    | l =>
      let v := l.foldl (fun v x => match x with | .voltage w => w | .frequency _ => v) (d.rd (PXE_OPP_STS.VSET.on dom))
      let f := l.foldl (fun f x => match x with | .frequency g => g | .voltage _ => f) (d.rd (PXE_OPP_STS.FREQ.on dom))
      let r := d.freeWithin (d.rd (PXE_OPP_STS.VSET.on dom)) v
      let q := r.2.freeVal 1
      let d := (q.2.wr (PXE_OPP_STS.VSET.on dom) r.1).wr (PXE_OPP_STS.FREQ.on dom) (if q.1 = 1 then f else d.rd (PXE_OPP_STS.FREQ.on dom))
      (d.upPx dom (fun x => { x with oppSteps := [] })).wr (PXE_OPP_STS.CHANGING.on dom) 0

/-- A synthesiser loses lock (R512, R436). -/
def Dev.lockLost (d : Dev) (now dom : Nat) : Dev :=
  if !hasSynth dom || !d.bit (CLK_STS.LOCK.on dom) then d
  else
    let d := ((d.wr (CLK_STS.LOCK.on dom) 0).count (CLK_CNT_LOCK_LOSS.COUNT.on dom) 1).event (CLK_EVT.LOCK_LOSS.on dom)
    let d := d.flag ((if dom < 128 then CLK_FLT.PX_LOCK_LOSS else CLK_FLT.LOCK_LOSS).on dom)
    let d := (d.abandonOpp dom).antResume dom
    if dom < 128 then d.pxeFault now dom 0 none none else d

def execLockLoss (dom : Fin 221) (s : State) : Host.Outcome State Fault Refusal := s.run fun e d => d.lockLost e.now dom

/-- A reference stops (R536). -/
def execRefclkLoss (ref : RefClk) (s : State) : Host.Outcome State Fault Refusal :=
  match ref with
  | .eth => s.run fun e d => d.forEach [200, 201, 202, 203, 204, 205, 206, 207, 211] (fun d k => d.lockLost e.now k)
  | .pcie => s.run fun e d =>
    if d.dma.link.perst then d.forEach [212, 213] (fun d k => (d.wr (CLK_STS.LOCK.on k) 0).abandonOpp k)
    else (d.forEach [212, 213] (fun d k => d.lockLost e.now k)).pcieDown
  | .sys => if s.dev.sec.rst = 1 then .next s else .fault .outsideConditions
  | .xtal => if s.dev.sec.rst = 1 then .next s else .fault .outsideConditions

/-! Antler measurements (R474, R475). -/

/-- ANT_CMD.MEASURE: ignored while BUSY; it waits for a change in progress, and for its page to be enabled. -/
def Dev.antMeasure (d : Dev) (dom : Nat) : Dev :=
  if d.bit (ANT_STS.BUSY.on dom) then d
  else
    let d := d.wr (ANT_STS.BUSY.on dom) 1
    if !d.open_ (pageANT dom) || d.changing dom then d.upAnts (fun l => dom :: l) else d

def execAntMeasure (dom : Fin 221) (s : State) : Host.Outcome State Fault Refusal := s.run fun _ d => d.antMeasure dom

/-- The smallest of the slacks, and the first tine that has it. -/
def minTine (l : List Nat) : Nat × Nat :=
  let m := l.foldl min 255
  (m, l.findIdx (· == m))

/-- The changes that waited for the measurement go on (R221, R513). -/
def Dev.measured (d : Dev) (dom : Nat) : Dev :=
  let d := if dom < 128 then d.upPx dom (fun x => match x.oppWaits with
    | some w => { x with oppWaits := none, oppSteps := d.oppStepsTo dom w.1 w.2 }
    | none => x) else d
  d.tryOpp dom

/-- The measurement ends with what it read (R474, R475). -/
def Dev.endMeasure (d : Dev) (now dom : Nat) (m : Meas) : Dev :=
  let d := if !d.clockRuns dom then d.wr (ANT_STS.NOCLK.on dom) 1
    else
      let l := m.slacks.map (·.val)
      let r := minTine l
      let d := (((d.wr (ANT_STS.NOCLK.on dom) 0).wr (ANT_STS.VALID.on dom) 1).wr (ANT_STS.FAIL.on dom) (ofBool m.fail))
      let d := (d.wr (ANT_STS.SLACK.on dom) (if m.fail then 0 else r.1)).wr (ANT_STS.TINE.on dom) r.2
      let w (k : Nat) : Nat := ((List.range 4).map (fun i => l.getD (4 * k + i) 0 * 2 ^ (8 * i))).sum
      let d := (d.wr ((ANT_SLACK.PS 0).on dom) (w 0)).wr ((ANT_SLACK.PS 1).on dom) (w 1)
      (d.wr (ANT_ROSC_S.COUNT.on dom) m.stressed).wr (ANT_ROSC_U.COUNT.on dom) m.unstressed
  let d := ((d.wr (ANT_STS.BUSY.on dom) 0).wr (ANT_TIME.TIME.on dom) now).count (ANT_CNT_MEAS.COUNT.on dom) 1
  ((d.event (ANT_EVT.MEAS_DONE.on dom)).latch (pageANT dom)).measured dom

/-- A measurement ends (R474). -/
def execMeasDone (dom : Fin 221) (m : Meas) (s : State) : Host.Outcome State Fault Refusal :=
  s.run fun e d =>
    if !d.measuring dom || m.slacks.length != 8 then d
    else
      d.endMeasure e.now dom m

end Sys2Proof.Machine
end

