-- ==== Sys2Proof/Machine/Entropy.lean ====
section
/-!
DEFINITION. The entropy engines (chapter 7): choosing and ending jobs, machine checks and rebinding, moves, and the engine's
service commands.
-/

namespace Sys2Proof.Machine

/-! Moves and rebinding (R183, R194, R195, R197). -/

/-- The jobs of channel `c` on engine `f` go to engine `e`'s queue, its suspended slices with what they had reached. -/
def Dev.moveQueue (d : Dev) (c f e : Nat) : Dev :=
  let x := d.en f
  let l := (x.queue ++ x.suspended).filter (fun j => j.chn == c)
  let rest (l : List EntJob) : List EntJob := l.filter (fun j => j.chn != c)
  (d.upEn f (fun x => { x with queue := rest x.queue, suspended := rest x.suspended })).upEn e (fun x => { x with queue := x.queue ++ l })

/-- A destination above 1,200 sets OVERCOMMIT (R183, R194). -/
def Dev.overCheck (d : Dev) (e : Nat) : Dev := if d.eneLoad e > 1200 then d.event (ENE_EVT.OVERCOMMIT.on e) else d

/-- Engine `e` admits a move of channel `c` (R183).  An engine not loaded yet, SERVICE 0, admits none either: the rule's list does not name it
(DESIGN CHOICE, log entry 214). -/
def Dev.moveOk (d : Dev) (c e : Nat) : Bool :=
  (d.chState c == 2 || d.chState c == 3) && (d.boundTo c).isSome && d.eneInService e && d.bit (ENE_CTL.BIND_EN.on e)

/-- Channel `c` goes to engine `e` at its picture boundary (R183). -/
def Dev.doMove (d : Dev) (c e : Nat) : Dev :=
  let d := match d.boundTo c with
    | some f => if f = e then d else d.moveQueue c f e
    | none => d
  let d := (d.bind c e true).upEn e (fun x => { x with moves := x.moves.filter (· != c) })
  (d.overCheck e).event (ENE_EVT.MOVE_DONE.on e)

/-- No entropy job of the job's picture, or of its access unit, has begun (R183). -/
def Dev.firstOfPicture (d : Dev) (j : EntJob) : Bool :=
  !j.begun && (j.decode || j.hold ||
    ((match (d.ch j.chn).pic j.pic with | some p => p.slices.all (fun s => !s.done) | none => true)
      && !(d.ch j.chn).out.any (fun o => o.pic == j.pic)
      && (d.unbound ++ (List.range 32).flatMap (fun e => (d.en e).queue ++ (d.en e).suspended ++ (d.en e).running.toList)).all
        (fun k => !(k.begun && k.chn == j.chn && k.pic == j.pic))))

/-! The control store (R191, R192). -/

/-- The fields of a control-store word. -/
def eneP (w : Nat) : Bool := bitAt w 47
def eneClass (w : Nat) : Nat := w / 2 ^ 44 % 8
def eneNext (w : Nat) : Nat := w / 2 ^ 32 % 4096
def eneNway (w : Nat) : Nat := w / 2 ^ 29 % 8
def eneCsel (w : Nat) : Nat := w / 2 ^ 24 % 32
def eneOps (w : Nat) : Nat := w % 2 ^ 24

/-- Bits 47 to 0 together hold an odd number of ones: P makes it so. -/
def oddParity (w : Nat) : Bool := sumBy (List.range 48) (fun k => ofBool (bitAt w k)) % 2 == 1

/-- The word of an engine's control store at an address, and the address of a fetch. -/
def Ene.word (x : Ene) (a : Nat) : Nat := storeGet (fun _ => 0) x.ucode (a % 4096)
def Ene.fetch (x : Ene) : UcFetch → Nat
  | .entry a => a % 4096
  | .after prev cond => ucNext (eneNext (x.word prev)) (eneNway (x.word prev)) cond.val

/-- What the check of a word at its fetch finds: 1 parity, 2 illegal, 0 nothing (R192). -/
def wordCheck (w : Nat) : Nat := if !oddParity w then 1 else if eneNway w > 4 then 2 else 0

/-! Staging queues (R189). -/

/-- Bytes that the running job can have read: the syntax written, or the access unit. -/
def Dev.staged (d : Dev) (j : EntJob) : Nat :=
  if j.decode then (match (d.dc j.chn).aus.find? (fun a => a.idx == j.pic) with | some a => a.bytes | none => 0)
  else match ((d.ch j.chn).pic j.pic).bind (·.slice j.slice) with | some s => s.reached | none => 0

/-- The prefetcher fills the input queue with data of the running slice, and of no other. -/
def Dev.prefetch (d : Dev) (e : Nat) : Dev :=
  d.upEn e (fun x => { x with inq := match x.running with | some j => min 2048 (cdiv (d.staged j - j.read) 32) | none => 0 })

/-- The running job of an engine, changed; no job. -/
def Dev.upRun (d : Dev) (e : Nat) (f : EntJob → EntJob) : Dev := d.upEn e (fun x => { x with running := x.running.map f })
def Dev.stopRun (d : Dev) (e : Nat) : Dev := d.upEn e (fun x => { x with running := none, inq := 0 })

/-- The entry of a slice among the coded bytes for the sinks, and its bytes. -/
def Dev.outOf (d : Dev) (c pic slice : Nat) : Option SliceOut := (d.ch c).out.find? (fun o => o.pic == pic && o.slice == slice)
def Dev.outBytes (d : Dev) (c pic slice : Nat) : List Byte := match d.outOf c pic slice with | some o => o.bytes | none => []

/-- The coded bytes of a slice for the sinks become `bytes`, which extend what they had; SLC buffers are taken for them (R185, R365).  False
where the pool refuses one: the channel stops with NO_BUFFER (R53). -/
def Dev.giveBytes (d : Dev) (now c pic slice : Nat) (bytes : List Byte) : Dev × Bool :=
  let g := d.rd (BPM_MAP.SLC.bk c)
  let old := d.outBytes c pic slice
  let r := d.allocMany 1 g (cdiv bytes.length 65536 - cdiv old.length 65536)
  if !r.1 then ((r.2.2.freeAll 1 (r.2.1.map (fun a => (g, a)))).stopChannel now c 0x40, false)
  else
    let d := r.2.2.upCh c (fun x => { x with slc := x.slc ++ r.2.1.map (fun a => ⟨pic, slice, g, a⟩) })
    match (d.ch c).pic pic with
    | none => (d, true)
    | some p =>
      let o : SliceOut := { pic := pic, slice := slice, bytes := bytes, hdr := if slice = 0 then p.hdr.or (some (d.picHdr c p)) else none
                            ended := false, last := false, status := 0, toNet := 0, toHost := 0, rap := p.ptype == 0, ts := p.ts
                            hidden := p.hidden, delimiter := p.delimiter, tuTs := p.tuTs }
      (d.upCh c (fun x => { x with out :=
        if (d.outOf c pic slice).isSome then x.out.map (fun q => if q.pic = pic ∧ q.slice = slice then { q with bytes := bytes } else q)
        else x.out ++ [o] }), true)

/-! Access units (R147, R152 to R155, R185). -/

/-- A unit leaves the channel undecoded: it is skipped on the way to a random-access point (R154). -/
def Dev.skipUnit (d : Dev) (e : Env) (c : Nat) (a : Au) : Dev :=
  let d := ((d.freePkts c a.pkts).unclaim c (fun k => k.pic == a.idx)).upDec c (fun x => { x with aus := x.aus.filter (fun b => b.idx != a.idx) })
  ((d.count (CHN_DEC_SKIP_AU.COUNT.on c) 1).queueUnits c).decodeStep e c

/-- The 8 consecutive units that end with `a` exceed 8 picture periods at PEAK (R153). -/
def Dev.overPeak (d : Dev) (c : Nat) (a : Au) : Bool :=
  let w := (d.dc c).recent.filter (fun r => r.1 ≤ a.idx && a.idx < r.1 + 8)
  w.length == 8 && decide (sumBy w (·.2) * d.rateNum c > d.rd (CHN_DEC_LIMITS.PEAK.on c) * 1000 * d.rateDen c)

/-- What the headers of a frame of unit `a` show to be damaged: code, AUX, CTU and whether AUX is a frame_num (R152, R153, R155, R188).  Where
several conditions hold, the first in this order is reported (DESIGN CHOICE, log entry 210). -/
def Dev.headDamage (d : Dev) (c : Nat) (a : Au) (info : AuInfo) : Option (Nat × Nat × Nat × Bool) :=
  if d.unitOver c a.bytes then some (0x0A, a.bytes, 0xFFFFF, false)
  else if !auSupported info (d.codec c) then some (3, info.at_, 0xFFFFF, false)
  else if (match auLargest info (d.codec c) with | some n => decide (a.bytes > n) | none => false) then some (0x0A, a.bytes, 0xFFFFF, false)
  else if info.width > d.width c ∨ info.height > d.height c then some (4, 1, 0xFFFFF, false)
  else if (info.tenBit && !d.tenBit c) || (info.c422 && !d.c422 c) then some (4, 2, 0xFFFFF, false)
  else if max info.refs.length info.keep.length > d.rd (CHN_DEC_LIMITS.REFS.on c) then some (4, 3, 0xFFFFF, false)
  else if d.overPeak c a then some (4, 4, 0xFFFFF, false)
  else (info.refs.find? (fun r => !(d.dc c).dpb.any (fun p => p.isRef && p.poc == r.1))).map (fun r => (5, r.2, 0, d.codec c == 2))

/-- A frame of unit `a` becomes a picture of the channel, still without segments; the standard's bumping process releases others. -/
def Dev.newFrame (d : Dev) (c : Nat) (a : Au) (info : AuInfo) : Dev :=
  let order := (d.ch c).nextOrder
  let q : DecPic := { poc := info.poc, idx := a.idx, frame := a.frames, ts := a.ts, info := info, gap := a.gapBefore, store := none
                      ready := false, isRef := info.isRef, toOut := info.shown && d.bit (CHN_SINK.HOST.on c), again := 0
                      claimed := false, linkIdx := none, linkWait := info.shown && d.bit (CHN_SINK.SURFACE.on c), lines := 0 }
  let d := d.addPic c { idx := a.idx, ptype := if info.rap then 0 else 1, layer := a.frames, order := order, gop := a.idx, unit := 1
                        prevRap := none, due := info.rap, forced := false, still := false, refs := [] } 0
  let d := d.upPic c order (fun p => { p with ts := a.ts, decided := true, rcStarted := true, rcDone := true })
  let d := d.upDec c (fun x => { x with
    aus := x.aus.map (fun b => if b.idx = a.idx then { b with frames := b.frames + 1 } else b)
    dpb := x.dpb.map (fun p => { p with isRef := p.isRef && info.keep.contains p.poc }) ++ [q] })
  let rel := info.bumped.filterMap (fun k =>
    ((d.dc c).dpb.find? (fun p => p.poc == k && !(d.dc c).outQ.contains p.key && (p.toOut || p.linkWait))).map (·.key))
  d.upDec c (fun x => { x with outQ := x.outQ ++ rel })

/-- Frames of unit `au` all of whose syntax is committed and reconstructed are complete. -/
def Dev.settleUnit (d : Dev) (e : Env) (c au : Nat) : Dev :=
  (d.forEach ((d.ch c).pics.filter (fun p => p.idx == au)) (fun d p => match d.decOf c p with
    | some q => if p.slices.all (·.done) && d.frameWhole c q then d.decodeDone e c p q else d
    | none => d)).unitDone c au

/-- The headers of frame `k` of a unit are read: whether its segments can follow.  A unit is discarded while the channel waits for a
random-access point, or where R154 skips it. -/
def Dev.openFrame (d : Dev) (e : Env) (c au k : Nat) (info : AuInfo) : Dev × Bool :=
  let x := d.dc c
  match x.aus.find? (fun a => a.idx == au) with
  | none => (d, false)
  | some a =>
    if k ≠ a.frames then (d, k + 1 == a.frames)
    else if k = 0 ∧ x.skipping ∧ !info.rap then (d, false)
    else
      let d := if k ≠ 0 then d
        else if x.skipping then d.upDec c (fun x => { x with skipping := false, rapAu := au, lastRap := au })
        else if info.rap then d.upDec c (fun x => { x with lastRap := au }) else d
      if k = 0 && info.skip && (d.dc c).lastRap == (d.dc c).rapAu && !info.rap then (d, false)
      else match d.headDamage c a info with
        | some (code, aux, ctu, fn) => (d.damage e c { au := au, code := code, aux := aux, ctu := ctu, frameNum := fn, poc := some info.poc }, false)
        | none => ((d.newFrame c a info).settleUnit e c au, true)

/-- One more segment of the frame begun last: its reconstruct job becomes ready (R147, R185); syntax beyond the unit's claim is damage
CPB_OVERRUN (R188). -/
def Dev.addSegment (d : Dev) (e : Env) (c au : Nat) (seg : Segment) : Dev :=
  match (d.dc c).aus.find? (fun a => a.idx == au) with
  | none => d
  | some a =>
    match (d.ch c).pics.find? (fun p => p.idx == au && p.layer + 1 == a.frames) with
    | none => d
    | some p =>
      if a.syn + seg.bytes > d.unitClaim c a.bytes then
        d.damage e c { au := au, code := 0x0A, aux := a.bytes, ctu := 0xFFFFF, frameNum := false, poc := (d.decOf c p).map (·.poc) }
      else
        let dl := a.readyAt + (if d.isLive c then d.period c else 2 * d.period c)
        let whole := (sumBy p.slices (·.area) + seg.area) / max 1 (match d.decOf c p with | some q => q.info.width | none => 1)
        let s := { newSlice p.slices.length false with deadline := dl, readyAt := some a.readyAt, issued := true, area := seg.area
                                                       rows := min seg.rows whole, synAt := a.syn, written := seg.bytes }
        let d := (d.upPic c p.order (fun p => { p with slices := p.slices ++ [s] })).upDec c (fun x => { x with
          aus := x.aus.map (fun b => if b.idx = au then { b with syn := b.syn + seg.bytes } else b) })
        d.addJob (d.mkJob c 4 p.order s.idx dl p.gen seg.area)

/-! The output queue. -/

/-- The oldest entry of an engine's output queue leaves it: coded bytes into SLC buffers, while the pools take requests; syntax of a decode
segment into the ring, where it is committed (R185, R189). -/
def Dev.flushHead (d : Dev) (env : Env) (e : Nat) : Dev :=
  match (d.en e).outq with
  | [] => d
  | b :: rest =>
    let out := d.upEn e (fun x => { x with outq := rest })
    match b.seg with
    | some (k, info, seg) =>
      let t := out.openFrame env b.chn b.pic k info
      if t.2 then t.1.addSegment env b.chn b.pic seg else t.1
    | none =>
      if d.bpmOpen then (out.giveBytes env.now b.chn b.pic b.slice (d.outBytes b.chn b.pic b.slice ++ b.bytes)).1 else d

/-- The output queue of an engine empties, first in first out; what waits behind an entry that cannot leave waits too, and a full queue stalls the
engine (R189, R190). -/
def Dev.flushOut (d : Dev) (env : Env) (e : Nat) : Dev := d.forEach (d.en e).outq (fun d _ => d.flushHead env e)

/-- The coded bytes of a slice so far: those the sinks have, and those in the output queue. -/
def Dev.codedSoFar (d : Dev) (e : Nat) (j : EntJob) : List Byte :=
  d.outBytes j.chn j.pic j.slice ++ ((d.en e).outq.filter (fun b => b.chn == j.chn && b.pic == j.pic && b.slice == j.slice)).flatMap (·.bytes)

/-- Coded bytes a slice can have before its end is coded: its allowance, or its size once it is encoded, with the access unit's overhead in
the first. -/
def codedRoom (p : Pic) (s : Slice) : Nat := (if s.encoded then s.bytes else s.h) + (if s.idx = 0 then p.overhead else 0)

/-! Machine checks (R194, R195, R197). -/

/-- The engine holds work done for the job, which waits to go on. -/
def EntJob.inProgress (j : EntJob) : Bool := j.begun && (j.dry || j.made != 0 || j.read != 0)

/-- A slice that was in progress on a failed engine is coded again from its start (R195). -/
def Dev.recodeSlice (d : Dev) (j : EntJob) : Dev × EntJob :=
  let d := (d.markReissued j.chn j.pic j.slice).upSlice j.chn j.pic j.slice (fun s => { s with tries := s.tries + 1 })
  let n := match ((d.ch j.chn).pic j.pic).bind (·.slice j.slice) with | some s => s.tries | none => j.tries
  (d, { j with made := 0, read := 0, dry := false, tries := n })

/-- A decode channel whose engine failed discards what was in flight and waits for a random-access point (R154, R195). -/
def Dev.resync (d : Dev) (env : Env) (c : Nat) (inHand : List Nat) : Dev :=
  let x := d.ch c
  let flight (a : Nat) : Bool := inHand.contains a || x.pics.any (fun p => p.idx == a)
  let gone := x.dec.aus.filter (fun a => flight a.idx)
  let d := d.dropJobsOf c
  let d := d.freePkts c (sumBy (gone.filter (fun a => !a.whole)) (·.pkts))
  let d := (d.unclaim c (fun k => flight k.pic)).upCh c (fun x => { x with
    pics := []
    dec := { x.dec with aus := x.dec.aus.filter (fun a => !flight a.idx), dpb := x.dec.dpb.filter (·.ready)
                        outQ := x.dec.outQ.filter (fun i => x.dec.dpb.any (fun p => p.key == i && p.ready)), skipping := true } })
  let d := ((d.wr (CHN_DEC_STS.WAIT_RAP.on c) 1).wr (CHN_DEC_STS.RESYNC.on c) 1).event (CHN_EVT.RESYNC.on c)
  (d.queueUnits c).decodeStep env c

/-- One channel is rebound from a failed or retired engine (R194, R195); `hand` is what the engine had in progress. -/
def Dev.rebindOne (d : Dev) (env : Env) (e c : Nat) (hand : List EntJob) : Dev :=
  let mine := hand.filter (fun j => j.chn == c)
  let queued := (d.en e).queue.filter (fun j => j.chn == c)
  let d := d.upEn e (fun x => { x with queue := x.queue.filter (fun j => j.chn != c) })
  let r : Dev × List EntJob := if d.isDecode c then (d, [])
    else mine.foldl (fun t j =>
      let r := t.1.recodeSlice j
      (r.1, t.2 ++ [r.2])) (d, [])
  let jobs := r.2 ++ queued
  let d := r.1.wr (CHN_ENE_BIND.VALID.on c) 0
  let d := match d.leastLoaded ((List.range 32).filter (fun f => f != e && d.eneInService f)) with
    | none => { d with unbound := d.unbound ++ jobs }
    | some f =>
      let d := (d.bind c f true).upEn f (fun x => { x with queue := x.queue ++ jobs })
      (d.overCheck f).event (ENE_EVT.REBIND.on f)
  if d.isDecode c then d.resync env c (mine.map (·.pic))
  else if d.chState c = 2 ∨ d.chState c = 4 then d.forceRap c else d

/-- Coded bytes of the running slice that the packetiser took before a machine check: they stay with it (R195). -/
def Dev.takeSent (d : Dev) (now : Nat) (j : EntJob) (sent : List Byte) : Dev :=
  match (d.ch j.chn).pic j.pic, ((d.ch j.chn).pic j.pic).bind (·.slice j.slice) with
  | some p, some s =>
    if !j.decode && (d.outBytes j.chn j.pic j.slice).isPrefixOf sent && sent.length ≤ codedRoom p s && d.bpmOpen
    then (d.giveBytes now j.chn j.pic j.slice sent).1 else d
  | _, _ => d

/-- Every channel bound to the engine is rebound, in rising order, and pending moves are cancelled (R194 steps 2 to 4). -/
def Dev.rebindAll (d : Dev) (env : Env) (e : Nat) (sent : List Byte) : Dev :=
  let d := d.flushOut env e
  let d := match (d.en e).running with | some j => (d.eneLose e).takeSent env.now j sent | none => d
  let x := d.en e
  let l := d.boundOf e
  let hand := x.running.toList ++ x.suspended ++ x.queue.filter (·.inProgress)
  let d := d.upEn e (fun x => { x with running := none, suspended := [], queue := x.queue.filter (fun j => !j.inProgress), inq := 0, outq := [] })
  let d := d.cancelMoves (fun f c => f == e || l.contains c)
  d.forEach l (fun d c => d.rebindOne env e c hand)

/-- Channels that wait for a binding get one when an engine leaves quarantine (R197). -/
def Dev.bindWaiting (d : Dev) : Dev :=
  d.forEach ((List.range 256).filter (fun c => (d.ch c).reserved && (d.boundTo c).isNone)) (fun d c =>
    match d.leastLoaded ((List.range 32).filter d.eneInService) with
    | none => d
    | some e =>
      let l := d.unbound.filter (fun j => j.chn == c)
      let d := ({ d with unbound := d.unbound.filter (fun j => j.chn != c) }.bind c e true).upEn e (fun x => { x with queue := x.queue ++ l })
      (d.overCheck e).event (ENE_EVT.REBIND.on e))

/-! Jobs. -/

/-- Live jobs by deadline first, then scheduled jobs by the order in which they became ready (R184). -/
def entBefore (a b : EntJob) : Bool :=
  if a.live != b.live then a.live else if a.live then a.deadline < b.deadline || (a.deadline == b.deadline && a.seq < b.seq) else a.seq < b.seq

def entFirst (l : List EntJob) : Option EntJob :=
  l.foldl (fun best j => match best with | none => some j | some b => if entBefore j b then some j else some b) none

/-- The jobs an engine could run now: those queued and those suspended, but for slices that ran dry. -/
def Ene.ready (x : Ene) : List EntJob := (x.queue ++ x.suspended).filter (fun j => !j.dry)

/-- The slice a job codes is complete in the ring: its encode job committed. -/
def Dev.syntaxWhole (d : Dev) (j : EntJob) : Bool :=
  j.decode || j.hold || (match ((d.ch j.chn).pic j.pic).bind (·.slice j.slice) with | some s => s.encoded | none => true)

/-- The syntax that running encode jobs have written: a live slice's entropy job becomes ready with its first CTU (R185). -/
def Dev.noteWritten (d : Dev) (w : Written) : Dev :=
  d.forEach w (fun d t =>
    let c := t.1
    match d.jobs.find? (fun j => j.chn == c && j.stage == 2 && j.pic == t.2.1 && j.slice == t.2.2.1 && j.engine.isSome),
        ((d.ch c).pic t.2.1).bind (·.slice t.2.2.1), (d.ch c).claims.find? (fun k => k.pic == t.2.1 && k.slice == t.2.2.1) with
    | some j, some s, some k =>
      let n := max s.written (min t.2.2.2 k.len)
      let ready := j.live && decide (0 < n) && !s.entropyMade
      let d := d.upSlice c t.2.1 t.2.2.1 (fun x => { x with written := n, reached := max x.reached n, entropyMade := x.entropyMade || ready })
      let d := if ready then d.addEntropy (newEntropy c t.2.1 t.2.2.1 true s.deadline false false) else d
      d.forEach (List.range 32) (fun d e =>
        if (d.en e).running.any (fun j => !j.decode && j.chn == c && j.pic == t.2.1 && j.slice == t.2.2.1) then d.prefetch e else d)
    | _, _, _ => d)

/-- A job as it runs: from its first run on it knows the failed attempts of its slice so far (R197). -/
def Dev.begin_ (d : Dev) (j : EntJob) : EntJob :=
  match j.begun, ((d.ch j.chn).pic j.pic).bind (·.slice j.slice) with
  | false, some s => { j with begun := true, tries := s.tries }
  | _, _ => { j with begun := true }

/-- Engine `e` takes job `j` from its queue, or from its suspended slices. -/
def Dev.takeEntropy (d : Dev) (e : Nat) (j : EntJob) : Dev :=
  (d.upEn e (fun x => { x with running := some (d.begin_ j), queue := x.queue.filter (· != j), suspended := x.suspended.filter (· != j) })).prefetch e

/-- The running slice leaves the engine to go on later: to a free one of 16 slots, else among the waiting jobs, with what was reached of it
(R184; where all slots are full, DESIGN CHOICE, log entry 180). -/
def Dev.suspend (d : Dev) (e : Nat) (j : EntJob) : Dev :=
  (d.upEn e (fun x =>
    if x.suspended.length < 16 then { x with running := none, inq := 0, suspended := x.suspended ++ [j] }
    else { x with running := none, inq := 0, queue := x.queue ++ [j] })).count (ENE_CNT_SUSPEND.COUNT.on e) 1

/-- The running slice has coded everything written so far (R185). -/
def Dev.ranDry (d : Dev) (j : EntJob) : EntJob :=
  match ((d.ch j.chn).pic j.pic).bind (·.slice j.slice) with
  | some s => { j with dry := true, read := s.reached }
  | none => { j with dry := true }

/-- 8 KiB more of its syntax, or its end, has been written; after a fault of the pixel engine, more than it had read (R185, R197). -/
def Dev.resumable (d : Dev) (j : EntJob) : Bool :=
  match ((d.ch j.chn).pic j.pic).bind (·.slice j.slice) with
  | some s => s.encoded || (if s.tries = j.tries then decide (j.read + 8192 ≤ s.written) else decide (j.read < s.written))
  | none => true

/-- The engine takes its most urgent ready job.  A pending move of the job's channel is carried out first where the job opens a picture, or
refused there where its conditions no longer hold (R183). -/
def Dev.startFirst (d : Dev) (e : Nat) : Dev :=
  match entFirst (d.en e).ready with
  | none => d
  | some j =>
    match (List.range 32).find? (fun f => (d.en f).moves.contains j.chn) with
    | some f => if !d.firstOfPicture j then d.takeEntropy e j
      else if d.moveOk j.chn f then d.doMove j.chn f
      else (d.cancelMoves (fun _ k => k == j.chn)).takeEntropy e j
    | none => d.takeEntropy e j

/-- An engine starts its most urgent ready job (R184).  A follow-mode slice that was running has run dry, and is suspended (R185). -/
def execEntropyJobStart (m : EneMoment) (s : State) : Host.Outcome State Fault Refusal :=
  s.run fun env d =>
    let d := (d.noteWritten m.w).flushOut env m.e
    if !d.eneInService m.e || !d.open_ (pageENE m.e) then d
    else match (d.en m.e).running with
      | none => d.startFirst m.e
      | some j => if j.live && !d.syntaxWhole j then (d.suspend m.e (d.ranDry j)).startFirst m.e else d

/-- A slice that ran dry can go on: it resumes where the engine is free and it is the most urgent (R184, R185). -/
def execFollowResume (m : EneMoment) (c : Fin 256) (pic slice : Nat) (s : State) : Host.Outcome State Fault Refusal :=
  s.run fun _ d =>
    let d := d.noteWritten m.w
    let x := d.en m.e
    match (x.suspended ++ x.queue).find? (fun k => k.dry && k.chn == c.val && k.pic == pic && k.slice == slice) with
    | none => d
    | some k =>
      if !d.resumable k then d
      else
        let q := { k with dry := false, tries := match ((d.ch k.chn).pic k.pic).bind (·.slice k.slice) with | some s => s.tries | none => k.tries }
        let wake (l : List EntJob) : List EntJob := l.map (fun j => if j = k then q else j)
        let d := d.upEn m.e (fun x => { x with suspended := wake x.suspended, queue := wake x.queue })
        if (d.en m.e).running.isNone && entFirst (d.en m.e).ready == some q then d.takeEntropy m.e q else d

/-- A live job that is ready suspends the running scheduled slice at its next CTU boundary, while a slot is free (R184). -/
def execLivePreempt (m : EneMoment) (s : State) : Host.Outcome State Fault Refusal :=
  s.run fun _ d =>
    let d := d.noteWritten m.w
    let x := d.en m.e
    match x.running with
    | some j => if j.live || !x.ready.any (·.live) || x.suspended.length ≥ 16 then d else d.suspend m.e j
    | none => d

/-- The bytes a slice of a picture yields: its coded bytes, with the access unit's overhead in the first slice and filler in the
last (R122, R123). -/
def sliceLength (p : Pic) (s : Slice) : Nat :=
  s.bytes + (if s.idx = 0 then p.overhead else 0) + (if s.idx + 1 = p.slices.length then p.filler else 0)

/-- A slice or hold picture is coded: lateness, status word, its bytes for the sinks, and the end of its picture (R134, R239, R245).  The last
`fill` bytes of a hold picture are filler (R122). -/
def Dev.sliceCoded (d : Dev) (e : Env) (j : EntJob) (bytes : List Byte) (fill : Nat) : Dev :=
  match (d.ch j.chn).pic j.pic, ((d.ch j.chn).pic j.pic).bind (·.slice j.slice) with
  | some p, some s =>
    let c := j.chn
    let l := d.lateness e.now c s
    let d := l.1
    let s := { l.2 with done := true, bytes := if j.hold then bytes.length - fill else s.bytes }
    let d := d.upSlice c j.pic j.slice (fun _ => s)
    let w := statusWord c p.idx s false
    let d := (d.flagWord w s).upCh c (fun x => { x with out := x.out.map (fun q => if q.pic = j.pic ∧ q.slice = j.slice
      then { q with ended := true, last := s.idx + 1 == p.slices.length, status := w } else q) })
    let d := d.unclaim c (fun k => k.pic == j.pic && k.slice == j.slice)
    let d := if !j.hold then d
      else match (d.ch c).pic j.pic with
        | none => d
        | some p =>
          let r := d.rcCommit e.now c { p with bStart := (d.ch c).rc.occ, rcStarted := true } (bytes.length - fill)
          (r.1.upPic c j.pic (fun _ => r.2)).picStatus c p
    (d.picDone c j.pic).sweepOut c
  | _, _ => d

/-! The end of an access unit. -/

/-- A frame coded before is shown by unit `a` (R152): it is output again where it was already. -/
def Dev.showFrame (d : Dev) (e : Env) (c : Nat) (a : Au) (poc : Int) : Dev :=
  match (d.dc c).dpb.find? (fun p => p.poc == poc && p.isRef) with
  | none => d.damage e c { au := a.idx, code := 5, aux := toSigned 32 poc, ctu := 0xFFFFF, frameNum := false, poc := some poc }
  | some p =>
    (d.upDpb c p.key (fun q => if q.toOut || q.linkWait then { q with again := q.again + 1 }
      else { q with toOut := d.bit (CHN_SINK.HOST.on c), linkWait := d.bit (CHN_SINK.SURFACE.on c), claimed := false, linkIdx := none
                    ts := a.ts })).upDec c (fun x => { x with outQ := x.outQ ++ [p.key] })

/-- An access unit is decoded as far as syntax: it is discarded while the channel waits, skipped, damaged, or its frames become pictures
(R153, R154, R155).  Its claim shrinks to the syntax written, as R188 says for encode claims (DESIGN CHOICE, log entry 212). -/
def Dev.unitDecoded (d : Dev) (e : Env) (j : EntJob) (frames : List (AuInfo × List Segment)) (shows : List Int) : Dev :=
  let c := j.chn
  let au := j.pic
  let at_ (d : Dev) : Option Au := (d.dc c).aus.find? (fun a => a.idx == au)
  match at_ d with
  | none => d
  | some a =>
    let one (d : Dev) (k : Nat) (f : AuInfo × List Segment) : Dev :=
      let r := d.openFrame e c au k f.1
      if r.2 then r.1.forEach f.2 (fun d s => d.addSegment e c au s) else r.1
    let d := d.forEach ((List.range frames.length).zip frames) (fun d f => one d (a.frames - 1 + f.1) f.2)
    match at_ d with
    | none => d
    | some b =>
      if b.frames = 0 ∧ ((d.dc c).skipping ∨ !frames.isEmpty) then d.skipUnit e c b
      else
        let d := d.forEach shows (fun d k => d.showFrame e c b k)
        if (at_ d).isNone then d
        else
          let d := (d.freePkts c b.pkts).upDec c (fun x => { x with aus := x.aus.map (fun q => if q.idx = au then { q with whole := true } else q) })
          (((d.shrink c au 0 b.syn).settleUnit e c au).queueUnits c).decodeStep e c

/-- The running job of an entropy engine leaves it, with its counters (R185). -/
def Dev.entropyDone (d : Dev) (e bins cycles : Nat) : Dev :=
  (((d.stopRun e).count (ENE_CNT_SLICES.COUNT.on e) 1).count (ENE_CNT_BINS.COUNT.on e) bins).count (ENE_CNT_BUSY.COUNT.on e) cycles

/-- A hold picture of `n` bytes, `overhead` of them the access unit's, with `filler` bytes after it: at most the floor of one slice beyond its
overhead (R160), within the hard cap (R123), and filler as R122 gives it. -/
def Dev.holdFits (d : Dev) (c n overhead filler : Nat) : Bool :=
  let rc := (d.ch c).rc
  decide (overhead ≤ n) && decide (n - overhead ≤ d.floorOf c (d.ctuRows c) 1) && decide (rc.occ + n ≤ rc.bmax)
    && filler == d.fillerOf c n rc.occ

/-- It is an encode job's turn to end: the slice is encoded whole, and the last of a picture comes after its rate control; a hold
picture keeps its place in the rate control (R185). -/
def Dev.codedTurn (d : Dev) (j : EntJob) (p : Pic) (sl : Slice) : Bool :=
  if j.hold then d.rcTurn j.chn p else sl.encoded && (sl.idx + 1 != p.slices.length || p.rcDone)

/-- More coded bytes of the running slice, in the order of its coding: those that an earlier attempt gave are the same, and are discarded (R185,
R189, R195).  A full output queue stalls the engine, and so does syntax that the input queue does not hold yet. -/
def Dev.moreBytes (d : Dev) (env : Env) (e : Nat) (j : EntJob) (more : List Byte) (read : Nat) : Dev :=
  let d := d.flushOut env e
  match (d.en e).running == some j, (d.ch j.chn).pic j.pic, ((d.ch j.chn).pic j.pic).bind (·.slice j.slice) with
  | true, some p, some s =>
    let sofar := d.codedSoFar e j
    let known := sofar.drop j.made
    let new := more.drop known.length
    let queued := sumBy (d.en e).outq (fun b => match b.seg with | some s => s.2.2.bytes | none => b.bytes.length)
    if j.decode || j.made + more.length > codedRoom p s || known.take more.length != more.take known.length || read > min s.reached (j.read + 32 * (d.en e).inq)
        || queued + new.length > 65536 then d
    else
      let d := d.upRun e (fun j => { j with made := j.made + more.length, read := max j.read read })
      let d := if new.isEmpty then d else d.upEn e (fun x => { x with outq := x.outq ++ [{ chn := j.chn, pic := j.pic, slice := j.slice, bytes := new }] })
      (d.flushOut env e).prefetch e
  | _, _, _ => d

/-- One more segment of the access unit that runs leaves the engine through the output queue (R185, R189). -/
def Dev.moreSyntax (d : Dev) (env : Env) (e : Nat) (j : EntJob) (k : Nat) (info : AuInfo) (seg : Segment) (read : Nat) : Dev :=
  let d := d.flushOut env e
  let size (b : Staged) : Nat := match b.seg with | some s => s.2.2.bytes | none => b.bytes.length
  if !j.decode || (d.en e).running != some j || read > j.read + 32 * (d.en e).inq
      || (!(d.en e).outq.isEmpty && sumBy (d.en e).outq size + seg.bytes > 65536) then d
  else
    let d := (d.upRun e (fun j => { j with read := max j.read read })).upEn e (fun x => { x with
      outq := x.outq ++ [{ chn := j.chn, pic := j.pic, slice := 0, bytes := [], seg := some (k, info, seg) }] })
    (d.flushOut env e).prefetch e

/-- The last of an encode job's bytes leaves the engine: `bytes` are all of them, the last `fill` of a hold picture filler. -/
def Dev.lastBytes (d : Dev) (env : Env) (e : Nat) (j : EntJob) (bytes : List Byte) (fill bins cycles : Nat) : Dev :=
  let d := d.flushOut env e
  if (d.en e).running != some j || !(d.en e).outq.isEmpty || !(d.outBytes j.chn j.pic j.slice).isPrefixOf bytes then d
  else
    let r := (d.entropyDone e bins cycles).giveBytes env.now j.chn j.pic j.slice bytes
    if r.2 then r.1.sliceCoded env j bytes fill else r.1

/-- Output of an entropy job, or its end (R185, R239).  The table has no row of its own for the bytes and segments before the end: they come
with this one (DESIGN CHOICE, log entry 31). -/
def execEntropyJobEnd (e : Fin 32) (r : EntropyResult) (s : State) : Host.Outcome State Fault Refusal :=
  s.run fun env d =>
    match (d.en e).running with
    | none => d
    | some j =>
      let d := d.noteReady 0
      Dev.noteReady (overhead := 0) <| match r with
      | .bytes more read => d.moreBytes env e j more read
      | .segment frame info seg read => d.moreSyntax env e j frame info seg read
      | .coded bytes bins cycles =>
        match (d.ch j.chn).pic j.pic, ((d.ch j.chn).pic j.pic).bind (·.slice j.slice) with
        | some p, some sl =>
          if j.decode || j.hold || !d.codedTurn j p sl || !d.bpmOpen || bytes.length != sliceLength p sl then d
          else d.lastBytes env e j bytes 0 bins cycles
        | _, _ => d.stopRun e
      | .hold bytes overhead filler bins cycles =>
        match (d.ch j.chn).pic j.pic, ((d.ch j.chn).pic j.pic).bind (·.slice j.slice) with
        | some p, some sl =>
          if !j.hold || !d.codedTurn j p sl || !d.bpmOpen || !d.holdFits j.chn bytes.length overhead filler.length then d
          else d.lastBytes env e j (bytes ++ filler) filler.length bins cycles
        | _, _ => d.stopRun e
      | .decoded frames shows bins cycles =>
        let d := d.flushOut env e
        if j.decode && d.bpmOpen && (d.en e).outq.isEmpty && (d.en e).running == some j then
          (d.entropyDone e bins cycles).unitDecoded env j frames shows
        else d
      | .damaged x rap bins cycles =>
        let d := d.flushOut env e
        if !j.decode || !d.bpmOpen || !(d.en e).outq.isEmpty || (d.en e).running != some j then d
        else
          let d := d.entropyDone e bins cycles
          match (d.dc j.chn).aus.find? (fun a => a.idx == j.pic) with
          | some a =>
            if (d.dc j.chn).skipping && a.frames == 0 && !rap then d.skipUnit env j.chn a
            else if d.unitOver j.chn a.bytes then
              d.damage env j.chn { au := j.pic, code := 0x0A, aux := a.bytes, ctu := 0xFFFFF, frameNum := false, poc := x.poc }
            else d.damageOf env j.chn j.pic x
          | none => d

/-- A machine check (R192, R194, R204): 1 parity, 2 illegal, 3 staging parity.  Where no job was running, ENE_MC_INFO.CHN is a free value (log
entry 213). -/
def Dev.machineCheck (d : Dev) (env : Env) (e kind addr : Nat) (sent : List Byte) : Dev :=
  let d := match kind with
    | 1 => d.flag (ENE_FLT.UC_PAR.on e)
    | 2 => d.flag (ENE_FLT.UC_ILL.on e)
    | _ => d.flag (ENE_FLT.STG_PAR.on e)
  let t := match (d.en e).running with | some j => (j.chn, d) | none => d.freeVal 8
  let c := t.1
  let d := (((t.2.wr (ENE_MC_INFO.VALID.on e) 1).wr (ENE_MC_INFO.KIND.on e) kind).wr (ENE_MC_INFO.CHN.on e) c).wr (ENE_MC_INFO.ADDR.on e) addr
  let d := (d.count (ENE_CNT_MC.COUNT.on e) 1).event (ENE_EVT.MCHK.on e)
  if d.eneService e ≤ 1 then (d.wr (ENE_STS.SERVICE.on e) 2).rebindAll env e sent else d

/-- What a fetch of kind `kind` turns out to be: staging parity as reported; a word of bad parity or NWAY as the check finds it; a sound
word can still be read with a parity error (R192, R193). -/
def Ene.checkKind (x : Ene) (kind addr : Nat) : Nat :=
  if kind = 3 then 3
  else match wordCheck (x.word addr) with
    | 0 => if kind = 1 then 1 else 0
    | k => k

/-- A machine check of an engine, at a fetch of its microcode (R192 to R194); a sound word takes no check of kind illegal. -/
def execMachineCheck (e : Fin 32) (kind : Fin 4) (fetch : UcFetch) (sent : List Byte) (s : State) : Host.Outcome State Fault Refusal :=
  s.run fun env d =>
    let a := (d.en e).fetch fetch
    let k := (d.en e).checkKind kind a
    if kind.val = 0 ∨ k = 0 then d else d.machineCheck env e k a sent

/-- A write of ENE_MOVE with GO 1 (R183, R202). -/
def Dev.eneMove (d : Dev) (e c : Nat) : Dev :=
  if !d.moveOk c e then d.event (ENE_EVT.MOVE_REFUSED.on e)
  else
    let d := d.forEach (List.range 32) (fun d f => d.upEn f (fun x => { x with moves := x.moves.filter (· != c) }))
    d.upEn e (fun x => { x with moves := x.moves ++ [c] })

def execEneMove (e : Fin 32) (c : Fin 256) (s : State) : Host.Outcome State Fault Refusal := s.run fun _ d => d.eneMove e c

/-- The engine is IDLE and no channel is bound to it (R203). -/
def Dev.eneFree (d : Dev) (e : Nat) : Bool := d.eneIdle e && (d.boundOf e).isEmpty

/-- A write of ENE_UC_HI: the word is stored at ADDR, which advances (R200, R203). -/
def execEneUcStore (e : Fin 32) (hi : Nat) (s : State) : Host.Outcome State Fault Refusal :=
  s.run fun _ d =>
    if !d.eneFree e then d.ignored (pageENE e) 0x058
    else if d.eneService e = 3 then d
    else
      let a := d.rd (ENE_UC_ADDR.ADDR.on e)
      let w := d.rd (ENE_UC_LO.DATA.on e) + hi % 65536 * 2 ^ 32
      let d := d.upEn e (fun x => { x with ucode := storeSet (fun _ => 0) x.ucode a w })
      ((d.wr (ENE_UC_ADDR.ADDR.on e) (a + 1)).wr (ENE_STS.SERVICE.on e) 2).wr (ENE_STS.ST_RESULT.on e) 0

/-- ENE_CTL.SELFTEST (R199, R203). -/
def execEneSelftest (e : Fin 32) (s : State) : Host.Outcome State Fault Refusal :=
  s.run fun _ d =>
    if !d.eneFree e then d.ignored (pageENE e) 0x040
    else d.wr (ENE_CTL.SELFTEST.on e) 1

/-- The self-test ends (R199, R200). -/
def execEneSelftestDone (e : Fin 32) (pass : Bool) (s : State) : Host.Outcome State Fault Refusal :=
  s.run fun _ d =>
    if !d.bit (ENE_CTL.SELFTEST.on e) || d.safe then d
    else
      let d := (d.wr (ENE_CTL.SELFTEST.on e) 0).wr (ENE_STS.ST_RESULT.on e) (if pass then 1 else 2)
      d.event (ENE_EVT.SELFTEST_DONE.on e)

/-- ENE_CTL.RELEASE (R196, R197, R199). -/
def execEneRelease (e : Fin 32) (s : State) : Host.Outcome State Fault Refusal :=
  s.run fun _ d =>
    if !d.eneIdle e then d.ignored (pageENE e) 0x040
    else if d.eneService e = 2 ∧ d.rd (ENE_STS.ST_RESULT.on e) = 1 then (d.wr (ENE_STS.SERVICE.on e) 1).bindWaiting
    else d

/-- ENE_CTL.RETIRE (R196, R199). -/
def Dev.eneRetire (d : Dev) (env : Env) (e : Nat) : Dev :=
  if !d.eneIdle e then d.ignored (pageENE e) 0x040
  else ((d.wr (ENE_STS.SERVICE.on e) 3).wr (ENE_CTL.RETIRE.on e) 1).rebindAll env e []

def execEneRetire (e : Fin 32) (s : State) : Host.Outcome State Fault Refusal := s.run fun env d => d.eneRetire env e

end Sys2Proof.Machine
end

