-- ==== Sys2Proof/Machine/WorkDispatch.lean ====
section
/-!
DEFINITION. The dispatcher (chapter 9) and the rows that pixel jobs pass through: issue, row quantisers, commit, faults,
generations, the admission registers, and the rate-control model's commit (R137).
-/

namespace Sys2Proof.Machine

/-! The choice of a job (R237, R240 to R242). -/

/-- Engines that may take the job now, in rising order. -/
def Dev.enginesFor (d : Dev) (j : Job) : List Nat := (List.range 128).filter (fun e => d.eligible e j)

/-- The engine a job gets: the warm one where it is free, else the lowest (R237). -/
def Dev.engineFor (d : Dev) (j : Job) : Option Nat :=
  let l := d.enginesFor j
  match (if d.bit WDP_CTL.AFFINITY then lookupNat d.wdp.warm (8 * j.chn + j.stage) else none) with
  | some e => if l.contains e then some e else l.head?
  | none => l.head?

/-- The order of live jobs: deadline, channel, picture, of one access unit the earlier frame, slice, stage (R240). -/
def Dev.jobBefore (d : Dev) (a b : Job) : Bool :=
  let k (j : Job) : List Nat := [j.deadline, j.chn, d.jobPic j, if j.stage = 4 then j.pic else 0, j.slice, j.stage]
  decide (k a < k b)

def Dev.earliest (d : Dev) (l : List Job) : Option Job :=
  l.foldl (fun best j => match best with | none => some j | some b => if d.jobBefore j b then some j else some b) none

/-- The job of the list that has the least number. -/
def leastBy (f : Job → Nat) (l : List Job) : Option Job :=
  l.foldl (fun best j => match best with | none => some j | some b => if f j < f b then some j else some b) none

def Dev.creditOf (d : Dev) (c : Nat) : Int := storeGet (fun _ => 0) d.wdp.credit c

/-- The channels 0 to 255 from `from_` upwards, wrapping. -/
def visitOrder (from_ : Nat) : List Nat := (List.range 256).map (fun i => (from_ + i) % 256)

/-- The credit a channel gains at the start of a round, in pc (R242, R258). -/
def Dev.gain (d : Dev) (c : Nat) : Nat :=
  max 1 (d.rd (CHN_SCHED_WEIGHT.WEIGHT.on c)) * max 1 (d.rd WDP_RR_QUANTUM.Q) * 4096

/-- Rounds that start until a channel's credit is above 0. -/
def Dev.roundsFor (d : Dev) (c : Nat) : Nat :=
  let cr := d.creditOf c
  if cr > 0 then 0 else cdiv (cr.natAbs + 1) (d.gain c)

/-- Channels of a list of jobs, in rising order. -/
def channelsOf (l : List Job) : List Nat := (List.range 256).filter (fun c => l.any (fun j => j.chn == c))

/-- The round ends where no channel with a ready job has credit above 0: -W fields latch (R30), and channels without a ready job
lose positive credit (R242). -/
def Dev.endRound (d : Dev) (ready : List Nat) : Dev :=
  if !d.wdp.round || ready.any (fun c => d.creditOf c > 0) then d
  else
    let d := (d.latch pageWDP).count WDP_CNT_ROUNDS.COUNT 1
    { d with wdp := { d.wdp with round := false, credit := d.wdp.credit.filter (fun e => decide (e.2 < 0)) } }

/-- `k` rounds start one after the other: every channel with a ready job gains its credit, and the visit begins after the last
channel that issued (R242). -/
def Dev.startRounds (d : Dev) (ready : List Nat) (k : Nat) : Dev :=
  let credit := ready.foldl (fun m c => storeSet (fun _ => (0 : Int)) m c (d.creditOf c + k * d.gain c)) d.wdp.credit
  { d with wdp := { d.wdp with credit := credit, round := true, visit := (d.wdp.lastIssuer + 1) % 256 } }

/-- A round starts where none is in progress; one that leaves every channel with a ready job without credit ends at once, and further
rounds follow, at the gain in force after that end, until such a channel has credit (R30, R242). -/
def Dev.newRounds (d : Dev) (ready : List Nat) : Dev :=
  if d.wdp.round || ready.isEmpty then d
  else
    let d := (d.startRounds ready 1).endRound ready
    if d.wdp.round then d
    else
      let k := (leastNat (ready.map d.roundsFor)).getD 1
      (d.startRounds ready k).count WDP_CNT_ROUNDS.COUNT (k - 1)

/-- The scheduled job to issue, with the state that has passed the rounds in between. -/
def Dev.pickScheduled (d : Dev) (l : List Job) : Dev × Option Job :=
  let runs (j : Job) : Bool := !(d.enginesFor j).isEmpty
  let d := d.endRound (channelsOf l)
  if d.busySched ≥ d.working.length - d.rd WDP_LIVE_ENG.N then (d, none)
  else
    match leastBy (fun j => j.reissue.getD 0) (l.filter (fun j => j.reissue.isSome && runs j)) with
    | some j => (d, some j)
    | none =>
      let d := d.newRounds (channelsOf l)
      let l := l.filter (fun j => j.reissue.isNone)
      match (visitOrder d.wdp.visit).find? (fun c => d.creditOf c > 0 && l.any (fun j => j.chn == c && runs j)) with
      | none => (d, none)
      | some c =>
        match leastBy (fun j => j.ready.getD j.seq) (l.filter (fun j => j.chn == c && runs j)) with
        | none => (d, none)
        | some j =>
          ({ d with wdp := { d.wdp with
              credit := storeSet (fun _ => (0 : Int)) d.wdp.credit c (d.creditOf c - j.estimate), visit := c, lastIssuer := c } },
            some j)

/-- The job starts on its engine, at word 4 x STAGE of its generation's bank (R207, R233); an encode job settles its picture's type, starts its rate control, and receives
its budget, allowance and ring claim (R99, R128, R188). -/
def Dev.issue (d : Dev) (j : Job) (e overhead : Nat) : Dev :=
  let d := d.setJobs (d.jobs.map (fun k => if k.same j then { k with engine := some e, reissue := none, filter := d.scaleFilter j.chn } else k))
  let d := d.count WDP_CNT_ISSUED.COUNT 1
  let d := if j.stage = 2 then
      let d := (d.decide_ j.chn j.pic).takeStore j.chn j.pic
      match (d.ch j.chn).pic j.pic with
      | none => d
      | some p =>
        let r := d.beginPic j.chn p overhead
        let q := { r.2 with hdr := r.2.hdr.or (some (r.1.picHdr j.chn r.2)) }
        let d := r.1.upPic j.chn j.pic (fun _ => q)
        match r.2.slice j.slice with
        | none => d
        | some s =>
          if s.issued then d
          else
            let f := d.sliceFigures j.chn r.2 j.slice
            let d := d.upSlice j.chn j.pic j.slice (fun s => { s with issued := true, b := f.1, h := f.2 })
            d.claim j.chn j.pic j.slice (d.encodeClaim j.chn j.slice f.2)
    else if j.stage = 1 then d.takeScaled j.chn j.pic
    else if j.stage = 4 then
      match ((d.ch j.chn).pic j.pic).bind (d.decOf j.chn) with
      | some q =>
        if q.store.isSome then d
        else
          let held := (d.dc j.chn).dpb.filterMap (·.store)
          let k := ((List.range (d.rd (CHN_DEC_LIMITS.REFS.on j.chn) + 1)).find? (fun k => !held.contains k)).getD 0
          d.upDpb j.chn q.key (fun q => { q with store := some k, claimed := d.outNext j.chn q.key })
      | none => d
    else d
  let w := (d.wr (PXE_JOB.ACTIVE.on e) 1).upPx e (fun x => { x with entry := 4 * j.stage })
  let w := ((w.wr (PXE_JOB.STAGE.on e) j.stage).wr (PXE_JOB.CHN.on e) j.chn).wr (PXE_JOB.PIC.on e) (d.jobPic j)
  let w := w.wr (PXE_JOB.BANK.on e) ((d.bankOf e j.gen).getD 0)
  if j.live then w else w.endRound (channelsOf (w.jobs.filter (fun k => !k.live && w.jobAllowed k overhead && w.genHeld k.gen)))

/-- WDP gives a free engine its next job (R237, R240 to R242).  `overhead` is the exact size of the access unit's headers, where
the job begins a picture (R123). -/
def execJobIssue (overhead : Nat) (s : State) : Host.Outcome State Fault Refusal :=
  s.run fun _ d =>
    if !d.open_ pageWDP then d
    else
      let d := d.noteReady overhead
      let allowed := d.jobs.filter (fun j => d.jobAllowed j overhead)
      let d := if allowed.any (fun j => !d.genHeld j.gen) then d.event WDP_EVT.NO_ENGINE else d
      let ready := allowed.filter (fun j => d.genHeld j.gen)
      match d.earliest (ready.filter (fun j => j.live && !(d.enginesFor j).isEmpty)) with
      | some j => (match d.engineFor j with | some e => d.issue j e overhead | none => d)
      | none =>
        let r := d.pickScheduled (ready.filter (fun j => !j.live))
        match r.2 with
        | none => r.1
        | some j => (match r.1.engineFor j with | some e => r.1.issue j e overhead | none => r.1)

/-- What the other slices of a picture in flight have produced by now (R130): never less than before, nor beyond their hard allowance. -/
def Pic.produced (p : Pic) (s : Nat) (others : List (Nat × Nat)) : Pic :=
  { p with slices := p.slices.map (fun x => match (if x.idx = s ∨ !x.issued ∨ x.encoded then none else lookupNat others x.idx) with
    | some n => { x with produced := max x.produced (min n x.h) }
    | none => x) }

/-- At row 0 a hard cap that is smaller than the level-1 prediction puts every row of the picture at level 2 (R139). -/
def Dev.capRows (d : Dev) (c : Nat) (p : Pic) (sl : Slice) (row : Nat) : Pic :=
  if row = 0 && !d.levelOneFits c p sl 0 p.cap then { p with level2From := some 0 } else p

/-- The row's quantiser and starvation level are chosen (R127). -/
def Dev.takeRow (d : Dev) (j : Job) (p : Pic) (sl : Slice) (row sofar : Nat) : Dev :=
  let p := d.capRows j.chn p sl row
  let d := d.upPic j.chn j.pic (fun x => { x with level2From := p.level2From })
  let ch := d.rowChoice j.chn p sl row sofar
  d.upSlice j.chn j.pic j.slice (fun x => { x with
    rowQ := x.rowQ ++ [(row, ch.1, ch.2)], sofar := x.sofar ++ [(row, sofar)], produced := sofar })

/-- An encode job reaches a CTU row: RCT gives it the row's quantiser and level (R127, R130).  A reissue receives those of the first
attempt (R139). -/
def execRowQuantiser (e : Fin 128) (row : Nat) (p : RowProgress) (s : State) : Host.Outcome State Fault Refusal :=
  s.run fun _ d =>
    match d.jobOn e with
    | none => d
    | some j =>
      if j.stage != 2 then d
      else match (d.ch j.chn).pic j.pic, ((d.ch j.chn).pic j.pic).bind (·.slice j.slice) with
        | some x, some sl =>
          if row != d.rowFrom j.chn j.slice + sl.rowQ.length || row ≥ d.rowTo j.chn j.slice || p.sofar > sl.h then d
          else
            let d := d.upPic j.chn j.pic (fun _ => x.produced j.slice p.others)
            d.takeRow j (x.produced j.slice p.others) sl row p.sofar
        | _, _ => d

/-- Lines `lo` to `hi` of a source picture hold what no job can read: a malformed block, or uncorrectable HBM data (R275, R292). -/
def Dev.srcUnreadable (d : Dev) (env : Env) (l : Nat) (p : SrcPic) (lo hi : Nat) : Bool :=
  if d.rd (CHN_SRC.KIND.on l) = 3 ∧ !p.still then
    d.badBlocks env (d.linkSurf l p.store) (d.c422 (d.sourceOf l)) lo hi (d.height (d.sourceOf l))
  else
    let n := rawStride (d.width l) (d.tenBit l)
    let base := if p.still then (d.ch l).hold.stillAddr else d.storeAt l 0 p.store
    let c := base + rawChroma (d.width l) (d.height l) (d.tenBit l)
    let within (a b : Nat) : Bool := d.poison.any (fun w => decide (a < w + 8) && decide (w < b))
    within (base + lo * n) (base + hi * n) || (if d.c422 l then within (c + lo * n) (c + hi * n) else within (c + lo / 2 * n) (c + cdiv hi 2 * n))

/-- A sample that the job reads of its source, or of the band that it filters, cannot be read: the job ends with HBM_POISON, not with a commit
(R216, R275). -/
def Dev.readsBad (d : Dev) (env : Env) (j : Job) : Bool :=
  let c := j.chn
  let l := d.leaderOf c
  let lo := d.lineFrom c j.slice
  let hi := d.lineTo c j.slice
  let h := d.height c
  let own : Option SrcPic := (if j.stage = 0 then some j.pic else ((d.ch c).pic j.pic).map (·.idx)).bind (d.ch l).srcAt
  match j.stage, own with
  | 0, some p => d.srcUnreadable env c p (d.srcFrom c j.slice) (d.srcTo c j.slice)
  | 1, some p =>
    let hs := d.height (d.sourceOf c)
    d.srcUnreadable env l p ((scalePos hs h lo).1 - 3) (min hs ((scalePos hs h (hi - 1)).1 + 5))
  | 2, some p => if d.isScaled c then d.badBlocks env (d.scaledSurf c j.pic) (d.c422 c) lo hi h else d.srcUnreadable env l p lo hi
  | 3, _ => d.badBlocks env (d.encSurf c j.pic) (d.c422 c) (lo - 8) (min h (lo + 8)) h
  | _, _ => false

/-- Reference `i` of a job's picture, with its surface. -/
def Dev.refPic (d : Dev) (j : Job) (i : Nat) : Option ((Nat × Nat) × Surf) :=
  let p := (d.ch j.chn).pic j.pic
  if j.stage = 2 then p.bind (fun p => (p.refs[i]?).map (fun o => ((o, 0), d.encSurf j.chn o)))
  else if j.stage = 4 then
    (p.bind (d.decOf j.chn)).bind (fun q => (q.info.refs[i]?).bind (fun r =>
      ((d.dc j.chn).dpb.find? (fun p => p.poc == r.1 && p.key != q.key)).map (fun p => (p.key, d.decSurf j.chn p))))
  else none

/-- A miss of the reference cache: the block is read from HBM into a line of its set, in place of one of 4 where the set is full (R206; which one
leaves is a free value, log entry 190).  None where the engine holds the block, or there is no such block. -/
def Dev.miss (d : Dev) (env : Env) (j : Job) (m : RefMiss) : Option Dev :=
  let e := j.engine.getD 0
  match d.refPic j m.ref with
  | none => none
  | some (pic, f) =>
    let set (l : RefLine) : Nat := Config.refSet l.chn l.pic.1 l.pic.2 (ofBool l.chroma) l.bx l.byy % 192
    let line : RefLine := { chn := j.chn, pic := pic, chroma := m.chroma, bx := m.bx, byy := m.byy
                            samples := ((env.seen d).block f m.chroma m.bx m.byy).getD [] }
    let same (l : RefLine) : Bool := l.chn == j.chn && l.pic == pic && l.chroma == m.chroma && l.bx == m.bx && l.byy == m.byy
    let x := d.px e
    if x.cache.any same || m.bx ≥ f.geo.bw || m.byy ≥ (if m.chroma then f.geo.rowsC else f.geo.rowsY) then none
    else
      let mates := x.cache.filter (fun l => set l == set line)
      if mates.length < 4 then some (d.upPx e (fun x => { x with cache := line :: x.cache }))
      else
        let r := d.freeVal 2
        some (r.2.upPx e (fun x => { x with cache := line :: x.cache.filter (fun l => some l != mates[r.1]?) }))

/-- The misses of a job, in order; none where one of them cannot be a miss. -/
def Dev.missAll (d : Dev) (env : Env) (j : Job) (l : List RefMiss) : Option Dev :=
  l.foldl (fun t m => t.bind (fun d => d.miss env j m)) (some d)

/-- The job's writes cannot be acknowledged while an arbiter or controller of its channel's set takes none (R288, R294, R300). -/
def Dev.jobStalled (d : Dev) (e : Nat) (j : Job) : Bool :=
  match (d.ch j.chn).memory with
  | some m => !d.hbmTakes e m.1 m.2
  | none => false

/-- The first word of the job is illegal whatever its conditions: the job cannot end but by UC_ILL (R211). -/
def Dev.entryDead (d : Dev) (e : Nat) (j : Job) : Bool :=
  (d.bankOf e j.gen).any (fun b => ((d.px e).bank b).dead (d.px e).entry)

/-- A result that the job can end with: what an analysis finds (R86); an encode job's syntax, rows and writes, within its ring claim (R188); a
seam job's writes of its 16-row band, with the parameters the encode jobs coded (R93); a reconstruct job's writes, in its picture's surface;
padding repeats the samples next to it (R265).  A scale job's samples follow from the source. -/
def Dev.resultFits (d : Dev) (env : Env) (j : Job) (r : JobResult) : Bool :=
  let c := j.chn
  (d.missAll env j r.refMiss).isSome && match j.stage with
  | 0 => d.analysisFits env c j.pic j.slice r
  | 2 => match (d.ch c).pic j.pic, ((d.ch c).pic j.pic).bind (·.slice j.slice) with
    | some p, some s => d.encodeFits c p s (d.encSurf c j.pic) r && decide (r.syntaxBytes ≤ d.encodeClaim c j.slice s.h)
    | _, _ => true
  | 3 => writesIn (d.encSurf c j.pic) (d.c422 c) (d.lineFrom c j.slice - 8) (d.lineFrom c j.slice + 8) false r.cham
    && writesAll (d.encSurf c j.pic) (d.c422 c) (d.lineFrom c j.slice - 8) (d.lineFrom c j.slice + 8) (d.height c) r.cham
    && (match (d.ch c).pic j.pic with | some p => r.filter == d.seamFilter c p j.slice | none => true)
    && paddingFits (d.c422 c) (d.codedSize c).1 (d.codedSize c).2 r.cham
  | 4 => match ((d.ch c).pic j.pic).bind (d.decOf c) with
    | some q =>
      let f := d.reconSurf c (q.store.getD 0) q.info.width q.info.height q.info.tenBit q.info.c422
      writesIn f q.info.c422 0 q.info.height true r.cham && paddingWith f q.info.c422 q.info.width q.info.height r.cham
        && paddingFits q.info.c422 q.info.width q.info.height r.cham
    | none => true
  | _ => true

/-- A job commits on its engine: counters, the engine free again, the stage's own effect (R217, R243). -/
def Dev.commitJob (d : Dev) (env : Env) (e : Nat) (j : Job) (r : JobResult) : Dev :=
  let d := (d.count (PXE_CNT_JOBS.COUNT.on e) 1).count (PXE_CNT_BUSY.COUNT.on e) r.cycles
  let d := ((d.missAll env j r.refMiss).getD d).count (PXE_CNT_REF_MISS.COUNT.on e) r.refMiss.length
  let d := d.dropJob j
  let d := { d with wdp := { d.wdp with warm :=
    (8 * j.chn + j.stage, e) :: d.wdp.warm.filter (fun w => w.1 != 8 * j.chn + j.stage) } }
  let d := d.pxeFree e
  let d := match j.stage with
    | 0 => d.commitAnalysis env j r
    | 1 => d.commitScale env j
    | 2 => d.commitEncode env j r
    | 3 => d.commitSeam env j r
    | _ => d.commitRecon env j r
  if j.stage = 4 then d
  else
    let d := match (if j.stage = 0 then none else some j.pic) with | some o => d.picDone j.chn o | none => d
    (d.refresh (d.leaderOf j.chn)).resumeLink env (d.leaderOf j.chn)

/-- A job ended without fault is committed (R208, R243). -/
def execJobCommit (e : Fin 128) (r : JobResult) (s : State) : Host.Outcome State Fault Refusal :=
  s.run fun env d =>
    match d.jobOn e with
    | none => d
    | some j =>
      if d.entryDead e j || d.jobStalled e j || d.readsBad env j || !d.resultFits env j r || r.cycles > d.jobLimit e then d else ((d.noteReady 0).commitJob env e j r).noteReady 0

/-- An illegal word at `addr` of the bank that the engine runs: its job's, or in a self-test that of the higher generation (R211, R219). -/
def Dev.ucIllegal (d : Dev) (e addr cond : Nat) : Bool :=
  let bank : Option Nat := match d.jobOn e with
    | some j => d.bankOf e j.gen
    | none => if (d.px e).op != .selftest then none else d.testBank e
  match bank with
  | some b => ((d.px e).bank b).illegal addr cond
  | none => false

/-- A job fault (R216, R244), or damage that a reconstruct job met (R155): the job ends without commit.  Faults that have a row of their own
(JOB_WATCHDOG, ARB_WDOG_EXPIRE, LOCK_LOSS, and UC_DIGEST of a check) and a word that is not illegal have no effect here. -/
def execJobFault (e : Fin 128) (kind : Fin 8) (a : FaultPlace) (damage : Option Damage) (s : State) :
    Host.Outcome State Fault Refusal :=
  s.run fun env d =>
    match damage, d.jobOn e with
    | some x, some j =>
      if j.stage = 4 then
        match (d.ch j.chn).pic j.pic with
        | some p => d.damageOf env j.chn p.idx x
        | none => d
      else d
    | some _, none => d
    | none, _ =>
      if kind.val = 1 ∨ kind.val = 4 ∨ kind.val = 6 ∨ (kind.val = 2 ∧ d.ucIllegal e a.addr a.cond)
      then ((d.noteReady 0).pxeFault env.now e kind (some a.ctu) none).noteReady 0 else d

/-- A job's cycle count passes the limit, which is what was in force when the job started: JOB_TIMEOUT (R231, R234). -/
def execJobWatchdog (e : Fin 128) (o : Overrun) (s : State) : Host.Outcome State Fault Refusal :=
  s.run fun env d => if (d.jobOn e).isSome ∧ o.cycles > d.jobLimit e
    then ((d.noteReady 0).pxeFault env.now e 3 (some o.ctu) (some o.cycles)).noteReady 0 else d

/-- A generation goes to every channel and becomes the default (R252). -/
def Dev.assignAll (d : Dev) (gen : Nat) : Dev := (d.wr WDP_STS.GEN_DEFAULT gen).forEach (List.range 256) (fun d c => d.assignGen c gen)

/-- WDP compares the budget with the reservations after a write of either (R256). -/
def Dev.compareBudget (d : Dev) : Dev :=
  let was := d.bit WDP_STS.OVERCOMMIT
  if d.rd WDP_ADMIT_BUDGET.MPCS < d.rd WDP_LIVE_RSV.MPCS then
    let d := d.wr WDP_STS.OVERCOMMIT 1
    if was then d else d.event WDP_EVT.OVERCOMMIT
  else d.wr WDP_STS.OVERCOMMIT 0

/-- A write of WDP_ADMIT_BUDGET or WDP_LIVE_RSV (R256); while WDP's clock is stopped it waits (R28). -/
def Dev.setBudget (d : Dev) (reservation : Bool) (mpcs : Nat) : Dev :=
  let f := if reservation then WDP_LIVE_RSV.MPCS else WDP_ADMIT_BUDGET.MPCS
  if d.pageClocked .WDP 0 then (d.wr f mpcs).compareBudget else d.holdLive f.base (maskOf 19 0) (BitVec.ofNat 32 mpcs) 0

def execAdmitBudgetWrite (reservation : Bool) (mpcs : Nat) (s : State) : Host.Outcome State Fault Refusal := s.run fun _ d => d.setBudget reservation mpcs

/-- RCT_CTX_COMMIT: the staged set of the selected context waits for its next picture (R137). -/
def execRctCtxCommit (seq : Fin 65536) (s : State) : Host.Outcome State Fault Refusal :=
  s.run fun _ d =>
    let c := d.rd RCT_CTX_SEL.CTX
    let w (f : Field) : Nat := d.rd (f.bk c)
    let bw := (d.word (RCT_CTX_BW.W0.bk c).base).toNat
    d.upCh c (fun x => { x with rc := { x.rc with staged := some (w RCT_CTX_M_P.M, w RCT_CTX_M_I.M, bw, seq) } })

end Sys2Proof.Machine
end

