-- ==== Sys2Proof/Machine/Background.lean ====
section
/-!
DEFINITION. Background services: scrubbing, eye sweeps, sensors, PMBus, telemetry, and the firmware's spares and margin plan
(R250, R251, R455 to R481).
-/

namespace Sys2Proof.Machine

/-! Scrubbing (R456 to R460). -/

/-- Units of an HMC that the patrol reads in a pass: all but its training area. -/
def patrolUnits : Nat := 16777216 - 32

/-- The HBM address of a unit of an HMC, in ascending order. -/
def patrolAddr (hmc u : Nat) : Nat := hmc / 4 * 2 ^ 32 + u / 8 * 2048 + hmc % 4 * 512 + u % 8 * 64

/-- The patrol's read of one unit of one HMC; `found` tells a single-bit or an uncorrectable error that was not there before. -/
def Dev.patrolRead (d : Dev) (hmc u : Nat) (found : List (Nat × Bool)) : Dev :=
  if !d.open_ (pageHMC hmc) then d
  else
    let a := patrolAddr hmc u
    let q : BankEntry := { req := 0x0E0, use := .other, addr := a, op := .read 64, poisoned := false, failed := false }
    let d := d.hbmMoved false a 64
    let d := if found.contains (hmc, true) then let r := d.freeVal 3; r.2.addPoison [a + 8 * r.1] else d
    let d := if found.contains (hmc, false) then let r := d.freeVal 1; r.2.hbmCe hmc (errAt q (r.1 == 1)) else d
    match (wordsOf a 64).find? (fun w => d.poison.contains w) with
    | some w => d.hbmUe hmc { q with addr := w }
    | none => d

/-- The next unit of every HMC is read. -/
def execPatrolScrub (found : List (Fin 32 × Bool)) (s : State) : Host.Outcome State Fault Refusal :=
  s.run fun _ d =>
    if !d.open_ pageBGS || !d.bit BGS_SCRUB_CFG.EN then d
    else
      let u := d.rd BGS_SCRUB_POS.UNIT
      let d := d.forEach (List.range 32) (fun d h => d.patrolRead h u (found.map (fun x => (x.1.val, x.2))))
      if u + 1 < patrolUnits then d.wr BGS_SCRUB_POS.UNIT (u + 1)
      else ((d.wr BGS_SCRUB_POS.UNIT 0).count BGS_CNT_SCRUB_PASS.COUNT 1).event BGS_EVT.SCRUB_PASS

/-- Bytes of a scrubbed array, 0 for a number that names none (R459). -/
def scrubSize (array : Nat) : Nat :=
  if array < 0x80 then 384 * 1024 else if array < 0x8C then 512 * 1024
  else if array = 0x90 then 3 * 2 ^ 20 else if array = 0xA0 then 2 * 2 ^ 20 else 0

/-- One word of an array: `found` 0 good, 1 corrected, 2 uncorrectable, where the firmware quarantines a pixel engine (R460). -/
def execSramScrub (array off : Nat) (found : Fin 3) (s : State) : Host.Outcome State Fault Refusal :=
  s.run fun _ d =>
    if !d.open_ pageBGS || !d.bit BGS_SSCRUB_CFG.EN || off ≥ scrubSize array then d
    else if found.val = 1 then (d.flag BGS_FLT.SCRUB_CE).count BGS_CNT_SSCRUB_CE.COUNT 1
    else if found.val = 2 then
      let d := d.flag BGS_FLT.SCRUB_UE
      if array < 128 ∧ d.service 2 then d.pxeQuar array else d
    else d

/-! Eye sweeps (R461 to R464). -/

/-- The trim in force: trims 0 to 9 are the read trims of the lanes, 10 to 19 the write trims. -/
def trimField (h k : Nat) : Field :=
  let j := k % 10
  ⟨pageHMC h + (if k < 10 then 0x068 else 0x074) + 4 * (j / 4), 8 * (j % 4), 7, false⟩

/-- The staging field of a trim. -/
def stageField (h k : Nat) : Field := { trimField h k with base := (trimField h k).base - 0x18 }

/-- The HMC cannot be swept: its pages are disabled or in a soft reset, or it is not in service (R464). -/
def Dev.hmcLost (d : Dev) (h : Nat) : Bool :=
  !d.enabled (pageHMC h) || !d.enabled (pageARB h) || d.bit (PAGE_CTL.SRST.page (pageHMC h)) || d.bit (PAGE_CTL.SRST.page (pageARB h))
    || !d.bit (HMC_CTL.SVC.on h)

/-- The sweep overwrites the HMC's training area with its patterns, which the spec does not give (R285, R461). -/
def Dev.scratchTraining (d : Dev) (h : Nat) : Dev :=
  d.forEach (List.range 4) (fun d i =>
    let r := d.freeVal 4096
    r.2.store .hbm (h / 4 * 2 ^ 32 + 0xFFFFE000 + 2048 * i + h % 4 * 512) (natLE 512 r.1))

/-- BGS_CAL_CMD.START. -/
def Dev.calStart (d : Dev) (h : Nat) : Dev :=
  if d.bit BGS_CAL_STS.BUSY then d.wr BGS_CAL_STS.REJECT 1
  else
    let d := (d.wr BGS_CAL_STS.HMC h).wr BGS_CAL_STS.OPP_MOVED 0
    if d.hmcLost h then d.wr BGS_CAL_STS.OUTCOME 5
    else
      let d := (d.wr BGS_CAL_STS.OUTCOME 0).wr BGS_CAL_STS.BUSY 1
      let d := d.forEach (List.range 20) (fun d k => (d.wr (BGS_CAL_MASK.MASK.bk k) 0).setWord (BGS_CAL_RES.WIDTH.bk k).base 0)
      (d.scratchTraining h).upBgs (fun b => { b with fresh := false })

def execCalStart (hmc : Fin 32) (s : State) : Host.Outcome State Fault Refusal := s.run fun _ d => d.calStart hmc

/-- Gathering ends: the training offsets return to 0 and a held change goes on. -/
def Dev.calEnd (d : Dev) (outcome : Nat) : Dev :=
  let h := d.rd BGS_CAL_STS.HMC
  let d := (d.wr BGS_CAL_STS.BUSY 0).wr BGS_CAL_STS.OUTCOME outcome
  (d.setWord (pageHMC h + 0x080) 0).tryOpp (160 + h)

/-- The sweep in progress is aborted; the firmware sweeps the HMC again out of turn (R464). -/
def Dev.calAbort (d : Dev) (outcome : Nat) : Dev :=
  if !d.bit BGS_CAL_STS.BUSY then d
  else
    let d := d.upBgs (fun b => { b with again := b.again ++ [d.rd BGS_CAL_STS.HMC] })
    d.calEnd outcome

/-- The HMC is lost to its sweep. -/
def Dev.calLost (d : Dev) (h : Nat) : Dev := if d.rd BGS_CAL_STS.HMC = h then d.calAbort 5 else d

def execCalCmdAbort (s : State) : Host.Outcome State Fault Refusal := s.run fun _ d => d.calAbort 4

def execCalTimeout (s : State) : Host.Outcome State Fault Refusal :=
  s.run fun _ d => if d.bit BGS_CAL_STS.BUSY then (d.calAbort 3).event BGS_EVT.CAL_ABORT else d

def execCalOppHoldExpire (s : State) : Host.Outcome State Fault Refusal :=
  s.run fun _ d =>
    if d.bit BGS_CAL_STS.BUSY && (d.ck (160 + d.rd BGS_CAL_STS.HMC)).waits.isSome then
      ((d.calAbort 2).event BGS_EVT.CAL_ABORT).count BGS_CNT_CAL_ABORT.COUNT 1
    else d

/-- The offsets above 0, or below it, up to which a trim passes without a gap; bit 32 is offset 0. -/
def passRun (pass : Nat → Bool) : Nat → Nat
  | 0 => 0
  | n + 1 => if pass 0 then 1 + passRun (fun i => pass (i + 1)) n else 0

/-- What the sweep finds of one trim, and the width of its eye (R462). -/
def Dev.calTrim (d : Dev) (h k mask : Nat) : Nat × Dev :=
  let v := d.rd (trimField h k)
  let pass (i : Nat) : Bool := bitAt mask i && 32 ≤ v + i && v + i ≤ 159
  let m := ((List.range 64).map (fun i => ofBool (pass i) * 2 ^ i)).sum
  let up := passRun (fun i => pass (33 + i)) 31
  let down := passRun (fun i => pass (31 - i)) 32
  let width := if pass 32 then up + down + 1 else 0
  let r := if pass 32 then (toSigned 7 (((up : Int) - (down : Int)) / 2), d) else d.freeVal 7
  let shift := signedOf 7 r.1
  let new := (clampInt 0 127 ((v : Int) + shift)).toNat
  let ok := width ≥ d.rd BGS_CAL_LIMITS.MIN_WIDTH && shift.natAbs ≤ d.rd BGS_CAL_LIMITS.MAX_SHIFT
  let d := (r.2.wr (BGS_CAL_MASK.MASK.bk k) m).wr (BGS_CAL_RES.ACCEPT.bk k) (ofBool ok)
  (width, ((d.wr (BGS_CAL_RES.NEW.bk k) new).wr (BGS_CAL_RES.WIDTH.bk k) width).wr (BGS_CAL_RES.SHIFT.bk k) r.1)

/-- The sweep ends with the masks gathered: each trim's result, and OUTCOME DONE (R462, R464). -/
def Dev.endSweep (d : Dev) (masks : List Nat) : Dev :=
  let h := d.rd BGS_CAL_STS.HMC
  let r := ((List.range 20).zip masks).foldl (fun (t : Nat × Dev) x =>
    let q := t.2.calTrim h x.1 x.2
    (min t.1 q.1, q.2)) (64, d)
  let moved := (d.ck (160 + h)).waits.isSome
  let d := r.2.wr BGS_CAL_STS.OPP_MOVED (ofBool moved)
  let v := (r.1, d.rd (HMC_STS.TEMP.on h))
  let d := if moved then d
    else d.upBgs (fun b => { b with fresh := true, accepted := storeSet (fun _ => (0, 0)) b.accepted h v })
  (d.calEnd 1).event BGS_EVT.CAL_DONE

/-- Gathering ends with a pass mask for each trim (R461, R462). -/
def execCalGatherDone (masks : List Nat) (s : State) : Host.Outcome State Fault Refusal :=
  s.run fun _ d =>
    if !d.bit BGS_CAL_STS.BUSY || !d.open_ pageBGS || masks.length != 20 then d
    else
      d.endSweep masks

/-- The firmware applies the accepted trims of a sweep (R463). -/
def Dev.applyTrims (d : Dev) : Dev :=
  let h := d.rd BGS_CAL_STS.HMC
  let ok (k : Nat) : Bool := d.bit (BGS_CAL_RES.ACCEPT.bk k)
  let d' := d.upBgs (fun b => { b with fresh := false })
  if !(List.range 20).any ok then d'
  else (d'.forEach (List.range 20) (fun d' k =>
    d'.wr (stageField h k) (if ok k then d.rd (BGS_CAL_RES.NEW.bk k) else d.rd (trimField h k)))).wr (HMC_STS.TRIM_PEND.on h) 1

/-- The HMC whose stack temperature has moved by more than 10 °C since its last accepted sweep (R463). -/
def Dev.warmed (d : Dev) : Option Nat :=
  (List.range 32).find? (fun h => match storeFind d.bgs.accepted h with
    | some x => 10 < x.2 - d.rd (HMC_STS.TEMP.on h) || 10 < d.rd (HMC_STS.TEMP.on h) - x.2
    | none => false)

/-- Every 2 minutes: the trims of a sweep that is DONE are applied, and the next sweep starts; one out of turn goes first (R463). -/
def execEyeSweepSchedule (s : State) : Host.Outcome State Fault Refusal :=
  s.run fun _ d =>
    if !d.service 2 || d.bit BGS_CAL_STS.BUSY then d
    else
      let d := if d.bgs.fresh then d.applyTrims else d
      match d.bgs.again with
      | h :: r => (d.upBgs (fun b => { b with again := r.filter (· != h) })).calStart h
      | [] => match d.warmed with
        | some h => d.calStart h
        | none => (d.upBgs (fun b => { b with turn := (b.turn + 1) % 32 })).calStart d.bgs.turn

/-! Sensors and PMBus (R465, R466). -/

/-- The field of a sensor's temperature, and of a rail. -/
def tempField (k : Nat) : Field := ⟨0x900080 + 4 * (k / 2), 16 * (k % 2), 16, false⟩
def railField (k : Nat) : Field := ⟨0x9000A4 + 4 * (k / 2), 16 * (k % 2), 16, false⟩

/-- The readings are taken; a junction temperature that rises past the alarm raises TEMP_HIGH (R465). -/
def Dev.takeSensors (d : Dev) (temps rails : List (Fin 65536)) : Dev :=
  let alarm := signedOf 16 (d.rd BGS_TEMP_ALARM.LIMIT)
  let rose := ((List.range 16).zip temps).any (fun x =>
    decide (signedOf 16 (d.rd (tempField x.1)) ≤ alarm) && decide (alarm < signedOf 16 x.2.val))
  let d := d.forEach ((List.range 16).zip temps) (fun d x => d.wr (tempField x.1) x.2.val)
  let d := d.forEach ((List.range 8).zip rails) (fun d x => d.wr (railField x.1) x.2.val)
  if rose then d.event BGS_EVT.TEMP_HIGH else d

/-- The sixteen sensors and the eight rails are read (R465). -/
def execSensorRead (temps rails : List (Fin 65536)) (s : State) : Host.Outcome State Fault Refusal :=
  s.run fun _ d =>
    if !d.enabled pageBGS || temps.length != 16 || rails.length != 8 then d
    else
      d.takeSensors temps rails

/-- BGS_PMB_CMD with GO 1: ignored while BUSY. -/
def Dev.pmb (d : Dev) (op addr code : Nat) (pec : Bool) : Dev :=
  if d.bit BGS_PMB_STS.BUSY then d
  else
    let data := if op = 2 then d.rd BGS_PMB_DATA.DATA % 256 else if op = 3 then d.rd BGS_PMB_DATA.DATA else 0
    ((d.wr BGS_PMB_STS.BUSY 1).send (.pmbus op addr code data pec)).upBgs (fun b => { b with pmb := op })

def execPmbSendByte (addr : Fin 128) (code : Fin 256) (pec : Bool) (s : State) : Host.Outcome State Fault Refusal :=
  s.run fun _ d => d.pmb 1 addr code pec
def execPmbWriteByte (addr : Fin 128) (code : Fin 256) (pec : Bool) (s : State) : Host.Outcome State Fault Refusal :=
  s.run fun _ d => d.pmb 2 addr code pec
def execPmbWriteWord (addr : Fin 128) (code : Fin 256) (pec : Bool) (s : State) : Host.Outcome State Fault Refusal :=
  s.run fun _ d => d.pmb 3 addr code pec
def execPmbReadByte (addr : Fin 128) (code : Fin 256) (pec : Bool) (s : State) : Host.Outcome State Fault Refusal :=
  s.run fun _ d => d.pmb 4 addr code pec
def execPmbReadWord (addr : Fin 128) (code : Fin 256) (pec : Bool) (s : State) : Host.Outcome State Fault Refusal :=
  s.run fun _ d => d.pmb 5 addr code pec

/-- The transaction ends (R466, R480). -/
def execPmbDone (r : PmbEnd) (s : State) : Host.Outcome State Fault Refusal :=
  s.run fun _ d =>
    if !d.bit BGS_PMB_STS.BUSY then d
    else
      let d := d.wr BGS_PMB_STS.BUSY 0
      let d := match r with
        | .done v =>
          let d := d.wr BGS_PMB_STS.DONE 1
          if d.bgs.pmb = 4 then d.wr BGS_PMB_DATA.DATA (v.val % 256) else if d.bgs.pmb = 5 then d.wr BGS_PMB_DATA.DATA v else d
        | .nack => d.wr BGS_PMB_STS.NACK 1
        | .pecErr => d.wr BGS_PMB_STS.PEC_ERR 1
      d.event BGS_EVT.PMB_DONE

def execPmbStretchTimeout (s : State) : Host.Outcome State Fault Refusal :=
  s.run fun _ d => if d.bit BGS_PMB_STS.BUSY then (d.wr BGS_PMB_STS.BUSY 0).wr BGS_PMB_STS.TIMEOUT 1 else d

/-! Telemetry (R467, R468). -/

/-- The fields of a channel, and of an HMC, in a snapshot. -/
def Dev.tlmChannel (d : Dev) (c : Nat) : List Byte :=
  natLE 4 (d.chState c) ++ natLE 8 (d.rd (CHN_CNT_PIC.COUNT.on c)) ++ natLE 8 (d.rd (CHN_CNT_BYTES.COUNT.on c))
    ++ [CHN_CNT_REISSUED.COUNT, CHN_CNT_LATE.COUNT, CHN_CNT_STARVED.COUNT, CHN_CNT_HOLD.COUNT, CHN_CNT_IRAP_FORCED.COUNT, CHN_CNT_NACK.COUNT,
        CHN_CNT_RTX.COUNT, CHN_RC_OCC.VALUE, CHN_HOLD_MISS.COUNT, CHN_DEC_PKT_DISC.COUNT].flatMap (fun f => natLE 4 (d.rd (f.on c)))
    ++ natLE 4 0
def Dev.tlmHmc (d : Dev) (h : Nat) : List Byte :=
  natLE 8 (d.rd (HMC_CNT_RD.COUNT.on h)) ++ natLE 8 (d.rd (HMC_CNT_WR.COUNT.on h)) ++ natLE 4 (d.rd (HMC_CNT_CE.COUNT.on h))
    ++ natLE 4 (d.rd (HMC_CNT_UE.COUNT.on h)) ++ natLE 4 (d.rd (HMC_CNT_FORCED_REF.COUNT.on h)) ++ natLE 1 (d.rd (HMC_STS.TEMP.on h))
    ++ natLE 1 (storeGet (fun _ => (0, 0)) d.bgs.accepted h).1 ++ natLE 2 0

/-- The planned point of a domain (R476). -/
def Dev.tlmDomain (d : Dev) (dom : Nat) : List Byte :=
  let p := d.plan dom
  natLE 1 p.slack ++ natLE 1 p.vset ++ natLE 1 p.freq ++ natLE 1 p.flags

/-- A snapshot but for its sequence word: bytes 0 to 3, and bytes 8 to 20,479. -/
def Dev.tlmBody (d : Dev) (now : Nat) (core : List Nat) : List Byte :=
  natLE 4 (1 * 2 ^ 24) ++ natLE 4 0 ++ natLE 8 now ++ natLE 40 0
    ++ (List.range 16).flatMap (fun k => natLE 2 (d.rd (tempField k)))
    ++ (List.range 8).flatMap (fun k => natLE 2 (d.rd (railField k)))
    ++ (List.range 3).flatMap (fun k => natLE 2 (core.getD k 0)) ++ natLE 138 0
    ++ (List.range 32).flatMap d.tlmHmc ++ (List.range 256).flatMap d.tlmChannel ++ (List.range 221).flatMap d.tlmDomain
    ++ natLE 1932 0

/-- Slots of the ring: a field of 0, which no six-bit value for 64 leaves otherwise used, is 64. -/
def Dev.tlmSlots (d : Dev) : Nat := if d.rd BGS_TLM_CFG.SLOTS = 0 then 64 else max 2 (d.rd BGS_TLM_CFG.SLOTS)

/-- A snapshot goes to its slot of the host ring, its sequence number last (R467). -/
def Dev.snapshot (d : Dev) (now : Nat) (core : List (Fin 65536)) : Dev :=
  let n := (d.rd BGS_TLM_SEQ.SEQ + 1) % 2 ^ 32
  let a := d.rd BGS_TLM_BASE.ADDR * 4096 + 20480 * (n % d.tlmSlots)
  let body := d.tlmBody now (core.map (·.val))
  (((((d.hostWrites a (natLE 4 0x4D4C544B)).hostWrites (a + 8) body).hostWrites (a + 4) (natLE 4 n)).wr BGS_TLM_SEQ.SEQ n)).event BGS_EVT.TLM

/-- The snapshot of 100 ms; `core` is what firmware read from the core rail regulator (R466). -/
def execTlmSnapshot (core : List (Fin 65536)) (s : State) : Host.Outcome State Fault Refusal :=
  s.run fun e d =>
    if !d.enabled pageBGS || !d.bit BGS_TLM_CFG.EN then d
    else if d.frozen pageBGS || d.dma.link.perst || !d.bit PCI_LINK_STS.UP || !d.dma.link.busMaster then d.count BGS_CNT_TLM_SKIP.COUNT 1
    else
      d.snapshot e.now core

/-! Spare engines (R249 to R251). -/

/-- A write of PXE_CTL.SPARE: it latches at the end of the engine's job, at once where it has none (R224). -/
def Dev.writeSpare (d : Dev) (e v : Nat) : Dev :=
  let d := d.pend (PXE_CTL.SPARE.on e) v
  if d.bit (PXE_JOB.ACTIVE.on e) then d else d.pxeBoundary e

/-- The generations assigned, to a channel or as the default. -/
def Dev.assignedGens (d : Dev) : List Nat :=
  ((d.rd WDP_STS.GEN_DEFAULT :: (List.range 256).flatMap (fun c => [d.genOf c, d.rd (WDP_CHN_GEN.PEND.bk c)])).filter (· != 0)).eraseDups

/-- The lowest-numbered spare in service that holds them all (R250). -/
def Dev.spareFor (d : Dev) : Option Nat :=
  let gens := d.assignedGens
  (List.range 128).find? (fun e => d.pxeInService e && d.pxeSpare e && gens.all (fun g => (d.bankOf e g).isSome))

/-- An engine's share of the admission budget in Mpc/s: its planned frequency, nominal before a plan (R66, R251). -/
def Dev.share (d : Dev) (e : Nat) : Nat := let f := (d.plan e).freq; 10 * (if f = 0 then 110 else f)

/-- WDP_ADMIT_BUDGET changed: `less` off, `more` on. -/
def Dev.moveBudget (d : Dev) (less more : Nat) : Dev :=
  if less = more then d else d.setBudget false ((d.shown WDP_ADMIT_BUDGET.MPCS.base).toNat + more - less)

/-- Another engine takes a working engine's place where a spare can; the answer says whether one did. -/
def Dev.replaceEngine (d : Dev) (e : Nat) : Dev × Bool :=
  match d.spareFor with
  | some p => ((d.writeSpare p 0).moveBudget (d.share e) (d.share p), true)
  | none => (d, false)

/-! The margin plan (R476, R477). -/

/-- The voltage step in force, and a domain's point set by the firmware. -/
def Dev.stepInForce (d : Dev) (dom : Nat) : Nat := if dom < 128 then d.rd (PXE_OPP_STS.VSET.on dom) else d.rd (CLK_STS.VSET.on dom)
def Dev.setPoint (d : Dev) (dom v f : Nat) : Dev :=
  if dom < 128 then
    let d := (d.pend (PXE_OPP.VSET.on dom) v).pend (PXE_OPP.FREQ.on dom) f
    if d.bit (PXE_JOB.ACTIVE.on dom) then d else d.pxeBoundary dom
  else d.setClkOpp dom v

/-- The change that the firmware asked for is in force. -/
def Dev.pointReached (d : Dev) (dom : Nat) : Bool :=
  if dom < 128 then
    !d.wpend.any (fun x => x.1 == (PXE_OPP.VSET.on dom).base) && !d.bit (PXE_OPP_STS.CHANGING.on dom)
      && d.rd (PXE_OPP_STS.VSET.on dom) == min 32 (d.rd (PXE_OPP.VSET.on dom))
      && d.rd (PXE_OPP_STS.FREQ.on dom) == clampNat 60 130 (d.rd (PXE_OPP.FREQ.on dom))
  else (d.ck dom).target.isNone && (d.ck dom).waits.isNone

/-- The lowest step above `v` at which the delay model predicts the guard, or the highest step. -/
def planStep (dom slack v : Nat) : Nat :=
  ((List.range 33).find? (fun w => decide (v < w) && decide (25 ≤ Config.delayModel dom slack v w))).getD 32

/-- The highest 10 MHz step at which a pixel engine with this slack at `f` keeps the guard. -/
def planFreq (f slack : Nat) : Nat := 100000 * f / (100000 + (25 - slack) * f)

/-- A derated engine leaves the working set for a spare, or the budget falls (R251, R476). -/
def Dev.derated (d : Dev) (e f : Nat) : Dev :=
  let p := d.plan e
  let old := d.share e
  if 10 * f = old then d.setPlan e { p with freq := f }
  else
    let d' := d.setPlan e { p with freq := f }
    if !d.pxeInService e || d.pxeSpare e then d'
    else match d.spareFor with
      | some s => ((d'.writeSpare s 0).writeSpare e 1).moveBudget old (d'.share s)
      | none => d'.moveBudget old (10 * f)

/-- An engine that cannot meet the guard at 0.60 GHz goes: out of the working set, and retired as soon as it is idle. -/
def Dev.retireEngine (d : Dev) (e : Nat) : Dev :=
  let p := d.plan e
  let d := if bitAt p.flags 2 then d
    else
      let d := d.setPlan e { p with flags := p.flags ||| 4 }
      let d := if d.pxeSpare e then d
        else
          let r := d.replaceEngine e
          if r.2 then r.1.writeSpare e 1 else r.1.moveBudget (d.share e) 0
      d.pxeQuar e
  if d.pxeIdle e then (d.pxeRetire e).setPlan e { d.plan e with phase := 0 } else d

/-- An entropy engine whose guard cannot be met: its channels are moved off, and then it is retired (R183, R196). -/
def Dev.retireEntropy (d : Dev) (env : Env) (dom : Nat) : Dev :=
  let e := dom - 128
  let others := (List.range 32).filter (fun f => f != e && d.eneInService f && d.bit (ENE_CTL.BIND_EN.on f))
  if (d.boundOf e).isEmpty && d.eneIdle e then
    (d.eneRetire env e).setPlan dom { d.plan dom with flags := (d.plan dom).flags ||| 4, phase := 0 }
  else d.forEach ((d.boundOf e).filter (fun c => !(List.range 32).any (fun f => (d.en f).moves.contains c))) (fun d c =>
    match d.leastLoaded others with
    | some f => d.eneMove f c
    | none => d)

/-- The firmware re-plans a domain from its measurement (R476). -/
def Dev.replan (d : Dev) (env : Env) (dom : Nat) : Dev :=
  let s := d.rd (ANT_STS.SLACK.on dom)
  let p := { d.plan dom with slack := s }
  let v := d.stepInForce dom
  let f := if dom < 128 then d.rd (PXE_OPP_STS.FREQ.on dom) else 0
  let go (q : Plan) (w g : Nat) : Dev := (d.setPlan dom { q with phase := 2 }).setPoint dom w g
  if d.bit (ANT_STS.NOCLK.on dom) || !d.bit (ANT_STS.VALID.on dom) then d.setPlan dom { d.plan dom with phase := 0 }
  else if dom ≥ 128 ∧ clkNoVset dom then d.setPlan dom { p with phase := 0, flags := if s < 25 then 2 else 0 }
  else if s ≥ 25 then
    if !p.raised && 0 < v && decide (35 ≤ Config.delayModel dom s v (v - 1)) then go { p with tried := some v } (v - 1) f
    else
      let q := { p with phase := 0, tried := none, vset := v, flags := if dom < 128 then p.flags else p.flags &&& 4 }
      if dom < 128 then (d.setPlan dom q).derated dom f else d.setPlan dom q
  else match p.tried with
    | some w => go { p with tried := none, raised := true } w f
    | none =>
      if v < 32 then go { p with raised := true } (if p.raised then v + 1 else planStep dom s v) f
      else if dom < 128 then
        let g := planFreq f s
        if g < 60 then (d.setPlan dom p).retireEngine dom else go { p with flags := p.flags ||| 1, raised := true } 32 g
      else if dom < 160 then (d.setPlan dom { p with vset := v }).retireEntropy env dom
      else d.setPlan dom { p with phase := 0, vset := v, flags := p.flags ||| 2 }

/-- A pixel engine in quarantine that is not to be retired by the plan: what becomes of it, R250 says. -/
def Dev.awaitsTest (d : Dev) (dom : Nat) : Bool := dom < 128 && d.pxeService dom == 2 && !bitAt (d.plan dom).flags 2

/-- One step of the round for a domain: the measurement starts, is evaluated, or follows a change once it is in force. -/
def Dev.planDomain (d : Dev) (env : Env) (dom : Nat) : Dev :=
  let p := d.plan dom
  if d.bit (ANT_STS.BUSY.on dom) || d.awaitsTest dom then d
  else if p.phase = 0 then (d.setPlan dom { p with phase := 1, tried := none, raised := false }).antMeasure dom
  else if p.phase = 1 then
    if dom < 128 ∧ bitAt p.flags 2 ∧ d.pxeService dom ≠ 3 then d.retireEngine dom
    else if bitAt p.flags 2 then d.setPlan dom { p with phase := 0, slack := d.rd (ANT_STS.SLACK.on dom) }
    else d.replan env dom
  else if d.pointReached dom then (d.setPlan dom { p with phase := 1 }).antMeasure dom else d

/-! A quarantined engine (R219, R250, R251). -/

/-- A spare is promoted, or the set is one short; the engine becomes a spare, is self-tested and measured. -/
def Dev.beginSparing (d : Dev) (e : Nat) : Dev :=
  let t := if d.pxeSpare e then (d, true) else d.replaceEngine e
  let d := t.1.setPlan e { t.1.plan e with testing := true, phase := 0, short := !t.2 }
  ((d.writeSpare e 1).pxeSelftest e).antMeasure e

/-- The engine is retired; where none has replaced it a spare does now, or the budget falls by its share. -/
def Dev.sparingFails (d : Dev) (e : Nat) : Dev :=
  let p := d.plan e
  let d := (d.pxeRetire e).setPlan e { p with flags := p.flags ||| 4, testing := false, phase := 0, short := false }
  if !p.short then d
  else
    let r := d.replaceEngine e
    if r.2 then r.1 else d.moveBudget (d.share e) 0

/-- The engine is released at the point it now runs at, as a spare, or to work where none has replaced it. -/
def Dev.sparingPasses (d : Dev) (e : Nat) : Dev :=
  let p := d.plan e
  let old := d.share e
  let f := d.rd (PXE_OPP_STS.FREQ.on e)
  let q := { p with slack := d.rd (ANT_STS.SLACK.on e), vset := d.rd (PXE_OPP_STS.VSET.on e), freq := f, testing := false, phase := 0, short := false }
  let d := (d.pxeRelease e).setPlan e q
  if p.short then (d.writeSpare e 0).moveBudget old (10 * f) else d

/-- The engine passed its self-test: the measurement decides.  The guard is met, or the point changes as in R476 and is measured again. -/
def Dev.sparingMeasured (d : Dev) (e : Nat) : Dev :=
  let p := d.plan e
  let s := d.rd (ANT_STS.SLACK.on e)
  let v := d.stepInForce e
  let f := d.rd (PXE_OPP_STS.FREQ.on e)
  if p.phase = 2 then (if d.pointReached e then (d.setPlan e { p with phase := 1 }).antMeasure e else d)
  else if d.bit (ANT_STS.NOCLK.on e) || !d.bit (ANT_STS.VALID.on e) then d.antMeasure e
  else if s ≥ 25 then d.sparingPasses e
  else if v < 32 then (d.setPlan e { p with phase := 2 }).setPoint e (planStep e s v) f
  else
    let g := planFreq f s
    if g < 60 then d.sparingFails e else (d.setPlan e { p with phase := 2, flags := p.flags ||| 1 }).setPoint e 32 g

/-- The firmware's next step for an engine in quarantine (R250): a spare is promoted, the engine self-tested and measured.  One that failed, or
that a fault has quarantined twice within 24 h, is retired; one whose guard is met is released; one whose guard is met only at a higher
voltage or a lower frequency is taken there first (R219). -/
def execSparePromotion (e : Fin 128) (s : State) : Host.Outcome State Fault Refusal :=
  s.run fun _ d =>
    let p := d.plan e
    let r := d.rd (PXE_STS.ST_RESULT.on e)
    if !d.service 2 || d.pxeService e != 2 || (d.px e).op != .none || d.bit (ANT_STS.BUSY.on e) || bitAt p.flags 2 then d
    else if !p.testing || r == 0 then d.beginSparing e
    else if r = 2 ∨ p.twice then d.sparingFails e
    else if r = 1 then d.sparingMeasured e
    else d.pxeSelftest e

/-- The body of the margin plan's record (R477): four bytes for each domain, voltage step, frequency in 10 MHz, last slack, and 1 where it has a plan
(DESIGN CHOICE, log entry 186). -/
def Dev.planBody (d : Dev) : List Byte :=
  (List.range 221).flatMap (fun k => match d.bgs.plans.find? (fun x => x.1 == k) with
    | some (_, p) => natLE 1 p.vset ++ natLE 1 p.freq ++ natLE 1 p.slack ++ natLE 1 1
    | none => natLE 4 0)

/-- The margin plan is to be written to the settings store after a round, as a record of the running image's generation (R477, R502). -/
def Dev.writePlan (d : Dev) : Dev :=
  if d.bgs.plans.all (fun x => x.2.phase == 0) then
    d.upSec (fun x => { x with todo := x.todo ++ [{ type := Config.planType % 65536, gen := x.gen, body := d.planBody }] })
  else d

/-- A pixel engine's slack at its nominal point, 1.10 GHz at the reset voltage step, in ps: the delay model takes a measurement at another step
there, and the period's change is added (R250, R474; DEDUCED, log entry 197). -/
def Dev.nominalSlack (d : Dev) (e : Nat) : Int :=
  let s := d.rd (ANT_STS.SLACK.on e)
  let v := d.rd (PXE_OPP_STS.VSET.on e)
  let f := max 1 (d.rd (PXE_OPP_STS.FREQ.on e))
  (if v = 20 then (s : Int) else Config.delayModel e s v 20) + ((100000 / 110 : Nat) : Int) - ((100000 / f : Nat) : Int)

/-- After the measurement of boot the 8 engines in service with the smallest slack at the nominal point become spares, of equals the lower
number, and the budget is the sum of what the others' plans run at (R66, R250; log entry 197). -/
def Dev.designateSpares (d : Dev) : Dev :=
  let all := (List.range 128).filter (fun e => d.pxeService e != 3)
  if d.bgs.spared || !all.all (fun e => d.pxeInService e && (d.plan e).phase == 0 && d.bit (ANT_STS.VALID.on e)) then d
  else
    let sorted := all.foldl (fun (l : List Nat) e =>
      l.takeWhile (fun f => d.nominalSlack f ≤ d.nominalSlack e) ++ e :: l.dropWhile (fun f => d.nominalSlack f ≤ d.nominalSlack e)) []
    let spares := sorted.take 8
    let d := (d.upBgs (fun b => { b with spared := true })).forEach all (fun d e => d.writeSpare e (ofBool (spares.contains e)))
    d.setBudget false (sumBy (sorted.drop 8) d.share)

/-- The firmware's margin planning takes its next step in these domains (R476), and its settings store the next operation on the flash, which
may fail (R471).  With no domain named, the store alone goes on. -/
def execMarginPlanRound (r : MarginRound) (s : State) : Host.Outcome State Fault Refusal :=
  s.run fun env d =>
    let d := if d.service 3 then d.flashStep env r.flashFails else d
    if d.service 2 && !r.doms.isEmpty then (d.forEach r.doms (fun d k => d.planDomain env k)).designateSpares.writePlan else d

/-- At boot the firmware runs every domain at its point of the last valid plan that its settings hold (R477, R502). -/
def Dev.applyPlan (d : Dev) (e : Env) : Dev :=
  match (settingsOf (storeRecs (e.flash d)) d.sec.gen d.sec.aux).find? (fun r => r.type == Config.planType % 65536) with
  | none => d
  | some r => d.forEach (List.range 221) (fun d k =>
      let x (i : Nat) : Nat := leNat (slice r.body (4 * k + i) 1)
      if x 3 != 1 then d else (d.setPlan k { Plan.reset with vset := x 0, freq := x 1, slack := x 2 }).setPoint k (x 0) (x 1))

end Sys2Proof.Machine
end

