-- ==== Sys2Proof/Machine/Channels.lean ====
section
/-!
DEFINITION. The commands of a stream channel (R50 to R67, R70 to R72, R116, R543): what CHN_CMD starts, what the firmware
completes, and the end of a drain.
-/

namespace Sys2Proof.Machine

/-- A command completes: RESULT and DETAIL are written, BUSY returns to 0, CMD_DONE (R55). -/
def Dev.cmdResult (d : Dev) (c result detail : Nat) : Dev :=
  let d := ((d.wr (CHN_CMD_STS.RESULT.on c) result).wr (CHN_CMD_STS.DETAIL.on c) detail).wr (CHN_CMD_STS.BUSY.on c) 0
  (d.upCh c (fun x => { x with posted := none })).event (CHN_EVT.CMD_DONE.on c)

/-- The states in which a command is allowed (R50, R58). -/
def opAllowed (op : ChOp) (st : Nat) : Bool :=
  match op with
  | .configure => st == 0 || st == 1 || st == 5
  | .open_ | .close => st == 1 || st == 5
  | .drain => st == 2 || st == 3
  | .abort => st == 2 || st == 3 || st == 4

/-- Some member of the leader is neither CONFIGURED nor CLOSED. -/
def Dev.groupBusy (d : Dev) (c : Nat) : Bool :=
  !d.isDecode c && !d.isMember c && (d.membersOf c).any (fun m => d.chState m != 1)

/-- DRAINING begins (R51): source pictures not taken for coding leave, but for a mini-GOP that a leader with hierarchical B
pictures still codes; a decode channel decodes the units it holds complete and drops the rest, and the group it feeds holds (R48). -/
def Dev.startDrain (d : Dev) (e : Env) (c : Nat) : Dev :=
  let was := d.chState c
  let d := d.setState c 4
  if d.isDecode c then
    let d := if was = 2 then d.linkLost e.now c else d
    (Dev.drainJb e c ((d.dc c).jb.length + 1) d).decodeStep e c
  else if d.isMember c then d
  else
    let d := d.refresh c
    d.upCh c (fun x => { x with
      src := x.src.filter (fun p => x.pics.any (fun q => q.idx == p.idx && q.ptype != 3))
      storing := match x.storing with
        | some i => if x.pics.any (fun q => q.idx == i) then some i else none
        | none => none
      hold := { x.hold with enterNext := none, dues := [] } })

/-- A command that is in progress is carried out, posted to the firmware, or completed at once (R55).  R55 does not order its bullets: the safe
state goes before EN, EN before FRZ, FRZ before the state (DESIGN CHOICE, log entry 10). -/
def Dev.tryCommand (d : Dev) (e : Env) (c : Nat) (op : ChOp) : Dev :=
  if d.safe then d.cmdResult c 1 0
  else if !d.enabled (pageCHN c) then d.cmdResult c 2 0
  else if d.frozen (pageCHN c) then d
  else if !opAllowed op (d.chState c) then d.cmdResult c 1 0
  else match op with
    | .open_ => if d.bit (CHN_STATE.STALE.on c) then d.cmdResult c 1 0 else d
    | .drain => if d.groupBusy c then d.cmdResult c 8 0 else (d.startDrain e c).cmdResult c 0 0
    | .abort => (d.abortChannel e.now c).cmdResult c 0 0
    | _ => d

/-- A write of CHN_CMD (R55, R70). -/
def Dev.command (d : Dev) (e : Env) (c : Nat) (op : ChOp) : Dev :=
  if d.bit (CHN_CMD_STS.BUSY.on c) then d.wr (CHN_CMD_STS.REJECT.on c) 1
  else ((d.wr (CHN_CMD_STS.BUSY.on c) 1).upCh c (fun x => { x with posted := some op })).tryCommand e c op

/-- A command that waited for FRZ goes on (R55). -/
def Dev.resumeCommand (d : Dev) (e : Env) (c : Nat) : Dev :=
  match (d.ch c).posted with
  | some op => d.tryCommand e c op
  | none => d

/-- Entry to the safe state completes the commands in progress with BAD_STATE (R55, R444). -/
def Dev.refuseCommands (d : Dev) : Dev :=
  d.forEach (List.range 256) (fun d c => if (d.ch c).posted.isSome then d.cmdResult c 1 0 else d)

def execConfigure (c : Fin 256) (s : State) : Host.Outcome State Fault Refusal := s.run fun e d => d.command e c .configure
def execOpenChannel (c : Fin 256) (s : State) : Host.Outcome State Fault Refusal := s.run fun e d => d.command e c .open_
def execDrain (c : Fin 256) (s : State) : Host.Outcome State Fault Refusal := s.run fun e d => d.command e c .drain
def execAbort (c : Fin 256) (s : State) : Host.Outcome State Fault Refusal := s.run fun e d => d.command e c .abort
def execClose (c : Fin 256) (s : State) : Host.Outcome State Fault Refusal := s.run fun e d => d.command e c .close

/-! What the firmware does. -/

/-- The source a channel's CHN_SRC names for holding (R45). -/
def Dev.srcNamed (d : Dev) (c : Nat) : SrcHold :=
  if d.isDecode c then .none
  else match d.rd (CHN_SRC.KIND.on c) with
    | 2 => .flow (d.rd (CHN_SRC.IDX.on c))
    | 3 => .decode (d.rd (CHN_SRC.IDX.on c))
    | _ => .none

/-- Another channel holds the source (R45). -/
def Dev.srcBusy (d : Dev) (c : Nat) : Bool :=
  d.srcNamed c != .none && (List.range 256).any (fun k => k != c && (d.ch k).held == d.srcNamed c)

/-- The channel's SYN chunks go back to the pool. -/
def Dev.dropSyn (d : Dev) (c : Nat) : Dev := (d.freeAll 2 (d.ch c).syn).upCh c (fun x => { x with syn := [], synChunks := 0 })

/-- The pool buffers a channel needs: pool, group, number (R187, R365, R375). -/
def Dev.needsOf (d : Dev) (c : Nat) : List (Nat × Nat × Nat) :=
  let syn := (2, d.rd (BPM_MAP.SYN.bk c), d.synChunks c)
  if d.isDecode c then [(0, d.rd (BPM_MAP.PKT.bk c), d.rd (CHN_DEC_JB.PKTS.on c)), syn]
  else if !d.bit (CHN_SINK.EGRESS.on c) then [syn]
  else
    let ts := d.rd (CHN_PKT_CFG.XPORT.on c) != 0
    let pay := if ts then 1288 else max 1 (d.maxPay c)
    let s := if ts then 0 else d.nSlices c
    let w := if d.bit (CHN_RTX_CFG.EN.on c) then d.rd (CHN_RTX_CFG.RTX_MS.on c) else 20
    let peak := d.rd (CHN_RC_PEAK.RATE.on c)
    let bm := peak * d.rd (CHN_RC_BUF.BUF_MS.on c) / 8
    let den := max 1 (d.rateDen c)
    -- the two terms over pay * 1,000 * den
    let pkt := cdiv ((bm * 1000 + peak * 125 * w) * den + d.rateNum c * (s + 1) * w * pay) (pay * 1000 * den) + 16
    [(0, d.rd (BPM_MAP.PKT.bk c), pkt), (1, d.rd (BPM_MAP.SLC.bk c), d.par c + 2 + cdiv bm 65536), syn]

/-- What the channels of a group of a pool need together. -/
def Dev.needSum (d : Dev) (p g : Nat) : Nat :=
  ((List.range 256).map (fun k => sumBy ((d.ch k).needs.filter (fun n => n.1 == p && n.2.1 == g)) (·.2.2))).sum

/-- MIN of the groups of some needs is set to what their channels need together (R365, R366): the first bank that refuses it, and the
state. -/
def Dev.setMins (d : Dev) : List (Nat × Nat × Nat) → Option Nat × Dev
  | [] => (none, d)
  | n :: r =>
    let t := d.setMin n.1 n.2.1 (d.needSum n.1 n.2.1)
    if t.1 then t.2.setMins r else (some (grpBank n.1 n.2.1), t.2)

/-- The channel's needs become `needs` in the minima of the groups concerned, those it leaves first. -/
def Dev.reserve (d : Dev) (c : Nat) (needs : List (Nat × Nat × Nat)) : Option Nat × Dev :=
  let old := (d.ch c).needs
  (d.upCh c (fun x => { x with needs := needs })).setMins (old.filter (fun n => !needs.any (fun m => m.1 == n.1 && m.2.1 == n.2.1)) ++ needs)

/-- The SYN chunks of the channel's reserve are taken from the minimum of its group (R187, R365); none where they cannot be taken. -/
def Dev.takeSyn (d : Dev) (c : Nat) : Option (Bool × Dev) :=
  let n := d.synChunks c
  let g := d.rd (BPM_MAP.SYN.bk c)
  if d.rd (BPM_GRP_STS.USED.bk (grpBank 2 g)) + n > d.rd (BPM_GRP_MIN.MIN.bk (grpBank 2 g)) then none
  else
    let r := d.allocMany 2 g n
    if r.1 then some (true, r.2.2.upCh c (fun x => { x with syn := r.2.1.map (fun a => (g, a)), synChunks := n })) else some (false, r.2.2)

/-- The counters of a reserve that could not be taken, `t` being what the attempt left; nothing else of it stays (R364). -/
def Dev.synFailed (d t : Dev) (c : Nat) : Dev :=
  let keys := [BPM_CNT_ALLOC.COUNT.bk 2, BPM_CNT_FAIL.COUNT.bk 2, BPM_GRP_FAILS.COUNT.bk (grpBank 2 (d.rd (BPM_MAP.SYN.bk c)))]
  (d.forEach keys (fun d f => d.setWord f.base (t.word f.base))).event BPM_EVT.ALLOC_FAIL

/-! Placement (R286, R544). -/

/-- The ranges of HBM that the stores of channel `c` cannot take (R544). -/
def Dev.hbmKept (d : Dev) (c : Nat) : List (Nat × Nat) :=
  (List.range 8).flatMap (fun s => (List.range 4).map (fun p => (s * 2 ^ 32 + d.poolBase p, poolRegion p))
    ++ [(s * 2 ^ 32 + d.rd CLS_TBL_BASE.BASE * 2 ^ 20, 2 ^ 20), (s * 2 ^ 32 + 0xFFFFE000, 0x2000)])
    ++ (List.range 4).map (fun p => (d.ringBase p, 4 * poolCount p))
    ++ d.hbcs.flatMap (fun h => h.2.badRows.map (fun a => (a, 8192)))
    ++ [(Config.firmwareStart % (2 ^ 32 - 2 ^ 26), min Config.firmwareBytes (2 ^ 26))]
    ++ d.chans.filterMap (fun x => if x.1 = c then none else x.2.memory)

/-- `n` bytes at `a` lie in one set, at a 4 KiB boundary, clear of what `kept` lists. -/
def clearAt (kept : List (Nat × Nat)) (a n : Nat) : Bool :=
  a % 4096 == 0 && a < 2 ^ 35 && a % 2 ^ 32 + n ≤ 2 ^ 32 && !kept.any (fun r => overlap a n r.1 r.2)

/-- Set `s` can hold `n` bytes: where they fit at all, they fit at its start or right after a kept range. -/
def setFits (kept : List (Nat × Nat)) (s n : Nat) : Bool :=
  (s * 2 ^ 32 :: kept.map (fun r => (r.1 + r.2 + 4095) / 4096 * 4096)).any (fun a => a / 2 ^ 32 == s && clearAt kept a n)

/-- The sum of CHN_COST_HBM of the other channels whose stores lie in set `s` (R286). -/
def Dev.setCost (d : Dev) (c s : Nat) : Nat :=
  sumBy (d.chans.filter (fun x => x.1 != c && x.2.memory.any (fun m => m.1 / 2 ^ 32 == s))) (fun x => d.rd (CHN_COST_HBM.COST.on x.1))

/-- The sets the firmware may choose: of those that can hold all stores, the ones with the smallest sum (R544). -/
def Dev.bestSets (d : Dev) (c : Nat) : List Nat :=
  let fit := (List.range 8).filter (fun s => setFits (d.hbmKept c) s (d.storeBytes c))
  fit.filter (fun s => fit.all (fun t => decide (d.setCost c s ≤ d.setCost c t)))

/-- A place the firmware may give the stores (R286, R544). The placement is the model's (DESIGN CHOICE, log entry 225). -/
def Dev.placed (d : Dev) (c : Nat) (p : Placement) : Bool :=
  (d.bestSets c).contains (p.base / 2 ^ 32) && clearAt (d.hbmKept c) p.base (d.storeBytes c)

/-- CONFIGURE: the rules, the source, the memory and the pool minima; an accepted one enters CONFIGURED (R50, R57, R62, R106, R365, R375,
R543).  One that fails changes nothing of the channel, nor of the minima. -/
def Dev.doneConfigure (d : Dev) (c : Nat) (place : Option Placement) : Dev :=
  let broken := d.broken c
  if !broken.isEmpty then d.cmdResult c 3 (leastOf broken)
  else if d.srcBusy c then d.cmdResult c 11 0
  else
    let r := (d.dropSyn c).reserve c (d.needsOf c)
    if (d.bestSets c).isEmpty then d.cmdResult c 7 0
    else match place.filter (d.placed c), r.1, r.2.takeSyn c with
    | none, _, _ => d
    | some p, none, some (true, d') =>
      let d := if d'.chState c = 5 then d'.release c else d'
      let d := d.upCh c (fun x => { x with memory := some (p.base, d.storeBytes c), held := d.srcNamed c })
      let d := ((d.wr (CHN_COST_PC.COST.on c) (d.costPc c)).wr (CHN_COST_EC.COST.on c) (d.costEc c)).wr (CHN_COST_HBM.COST.on c)
        (d.costHbm c)
      let d := match (if d.isDecode c then none else d.levelPick c) with
        | some (l, high) => (d.wr (CHN_ENC_LEVEL.LEVEL.on c) l.code).wr (CHN_ENC_LEVEL.TIER.on c) (ofBool high)
        | none => (d.wr (CHN_ENC_LEVEL.LEVEL.on c) 0).wr (CHN_ENC_LEVEL.TIER.on c) 0
      let host := d.isDecode c && d.bit (CHN_SINK.HOST.on c)
      let d := d.wr (CHN_DEC_OUT_BASE.ADDR.on c) (if host then d.storeAt c 5 0 else 0)
      let d := d.wr (CHN_DEC_OUT_PITCH.BYTES.on c)
        (if host then rawSize (d.width c) (d.height c) (d.tenBit c) (d.c422 c) else 0)
      let d := d.wr (CHN_STATE.STALE.on c) 0
      (if d.chState c = 1 then d else d.setState c 1).cmdResult c 0 0
    | some _, some b, _ => ((d.wr (BPM_GRP_STS.REFUSED.bk b) 1).event BPM_EVT.MIN_REFUSED).cmdResult c 7 0
    | some _, none, some (false, t) => (d.synFailed t c).cmdResult c 7 0
    | some _, none, none => d.cmdResult c 7 0

/-- Channels other than `c` that hold a reservation. -/
def Dev.holders (d : Dev) (c : Nat) : List Nat := (List.range 256).filter (fun k => k != c && (d.ch k).reserved)

/-- The engine OPEN binds to: the least loaded that qualifies, `c`'s own load apart (R182). -/
def Dev.openEngine (d : Dev) (c : Nat) : Option Nat :=
  let d := d.unbind c
  d.leastLoaded ((List.range 32).filter (fun e =>
    d.eneInService e && d.bit (ENE_CTL.BIND_EN.on e) && d.eneLoad e + d.rd (CHN_COST_EC.COST.on c) ≤ 1200))

/-- The first admission limit that fails: 4 ADMIT_PC, 5 ADMIT_EC, 6 ADMIT_HBM; 0 where all pass (R63, R182). -/
def Dev.admission (d : Dev) (c : Nat) : Nat :=
  let others := d.holders c
  let live := ((others.filter (fun k => (d.ch k).resLive)).map (fun k => d.rd (CHN_COST_PC.COST.on k))).sum
  let ec := (others.map (fun k => d.rd (CHN_COST_EC.COST.on k))).sum
  let hbm := (others.map (fun k => d.rd (CHN_COST_HBM.COST.on k))).sum
  let own := d.rd (CHN_COST_EC.COST.on c)
  let n := ((List.range 32).filter d.eneInService).length
  if d.isLive c && live + d.rd (CHN_COST_PC.COST.on c) > d.rd WDP_ADMIT_BUDGET.MPCS then 4
  else if own > 1200 ∨ ec + own > (n - 1) * 1200 ∨ (d.openEngine c).isNone then 5
  else if hbm + d.rd (CHN_COST_HBM.COST.on c) > 1146880 then 6
  else 0

/-- A new stream begins (R50): nothing stored, nothing coded; the starting model of R126 (log entry 15); a decode channel
waits for a random-access point with its output ring empty (R154, R173). -/
def Dev.newStream (d : Dev) (c : Nat) : Dev :=
  let d := d.discard c
  let a := d.freeVal 32
  let b := a.2.freeVal 32
  let d := (if d.isDecode c then d else b.2).upCh c (fun x => { x with
    src := [], nextIdx := 0, storing := none, dropping := false, startIdx := 0, ingSeq := none, lastRap := none, coded := false, force := false
    refs := [], refIdx := [], rc := { Rc.reset with mP := a.1, mI := b.1, bw := 64 + 40 * 256 + 28 * 65536 + 20 * 16777216 }
    dec := Dec.reset, hold := Hold.reset })
  if d.isDecode c then
    let d := ((d.wr (CHN_DEC_STS.WAIT_RAP.on c) 1).wr (CHN_DEC_STS.STREAM.on c) 0).wr (CHN_DEC_STS.RESYNC.on c) 0
    let d := (d.wr (CHN_DEC_OUT_WR.IDX.on c) 0).wr (CHN_DEC_OUT_WR.WRAP.on c) 0
    (d.wr (CHN_DEC_OUT_RD.IDX.on c) 0).wr (CHN_DEC_OUT_RD.WRAP.on c) 0
  else
    ((d.wr (RCT_CTX_M_P.M.bk c) a.1).wr (RCT_CTX_M_I.M.bk c) b.1).setWord (RCT_CTX_BW.W0.bk c).base
      (BitVec.ofNat 32 (64 + 40 * 256 + 28 * 65536 + 20 * 16777216))

/-- A live channel's OPEN that a lower channel's comes before (R59). -/
def Dev.openWaits (d : Dev) (c : Nat) : Bool :=
  d.isLive c && (List.range c).any (fun k => d.isLive k && (d.ch k).posted == some .open_ && !d.frozen (pageCHN k))

/-- The first source picture that a channel opened now may code: of a member whose leader holds, the picture being stored, which may end the
hold (R48, R166); else the next one. -/
def Dev.firstSrc (d : Dev) (c : Nat) : Nat :=
  let l := d.leaderOf c
  if !d.isMember c then 0
  else match (if d.chState l = 3 then (d.ch l).storing else none) with
    | some i => i
    | none => (d.ch l).nextIdx

/-- OPEN: group order, the three limits, then RUNNING; a member whose leader holds enters HOLDING with it (R48, R50, R63). -/
def Dev.doneOpen (d : Dev) (now c : Nat) : Dev :=
  let l := d.leaderOf c
  if d.bit (CHN_STATE.STALE.on c) then d.cmdResult c 1 0
  else if d.isMember c && !(d.chState l == 2 || d.chState l == 3) then d.cmdResult c 9 0
  else
    let adm := d.admission c
    if adm ≠ 0 then d.cmdResult c adm 0
    else
      let d := match d.openEngine c with
        | some e => (d.unbind c).bind c e false
        | none => d
      let r := (d.newStream c).freeVal 16
      let d := r.2.upCh c (fun x => { x with reserved := true, resLive := d.isLive c, startIdx := d.firstSrc c, pktSeq := now % 65536, rtxSeq := r.1, psiAt := none, pcrAt := none, audio := [] })
      let d := d.setState c 2
      let d := if d.isMember c && d.chState l == 3 then d.enterHolding now c (d.rd (CHN_HOLD_STS.CAUSE.on l)) else d
      d.cmdResult c 0 0

/-- CLOSE: the allocations are freed, costs, level and damage report return to 0 (R48, R50, R82, R159).  CHN_STATE.ERR, which R159 does not count
to the report, keeps its value (DESIGN CHOICE, log entry 187). -/
def Dev.doneClose (d : Dev) (c : Nat) : Dev :=
  if d.groupBusy c then d.cmdResult c 8 0
  else if !(d.linkedTo c).isEmpty then d.cmdResult c 10 0
  else
    let d := (((d.discard c).dropSyn c).reserve c []).2.release c
    let d := (d.freeAll 0 (((d.ch c).window.filter (·.taken)).map (fun w => (w.group, w.buf)))).emptyLists c
    let d := d.setCh c { Chan.reset with posted := (d.ch c).posted }
    let d := (d.wr (WDP_CHN_GEN.GEN.bk c) (d.rd WDP_STS.GEN_DEFAULT)).wr (WDP_CHN_GEN.PEND.bk c) 0
    let d := ((d.wr (CHN_COST_PC.COST.on c) 0).wr (CHN_COST_EC.COST.on c) 0).wr (CHN_COST_HBM.COST.on c) 0
    let d := (d.wr (CHN_ENC_LEVEL.LEVEL.on c) 0).wr (CHN_ENC_LEVEL.TIER.on c) 0
    let d := (d.setWord (0x400164 + 0x1000 * c) 0).setWord (0x400168 + 0x1000 * c) 0
    let d := (d.setWord (0x40016C + 0x1000 * c) 0).wr (CHN_DEC_DMG_TIME.TIME.on c) 0
    (d.setState c 0).cmdResult c 0 0

/-- The firmware takes up posted commands: it is ready, and the page is not frozen (R55, R56). -/
def Dev.firmwareTakes (d : Dev) (c : Nat) : Bool :=
  d.service 0 && !d.frozen (pageCHN c) && d.bpmOpen

/-- Firmware completes a posted CONFIGURE, OPEN or CLOSE (R55).  `place` is where it would put the channel's stores, none
where no set can hold them (R544). -/
def execCmdDone (c : Fin 256) (place : Option Placement) (s : State) : Host.Outcome State Fault Refusal :=
  s.run fun e d =>
    if !d.firmwareTakes c then d
    else match (d.ch c).posted with
      | some .configure => d.doneConfigure c place
      | some .open_ => if d.openWaits c then d else d.doneOpen e.now c
      | some .close => d.doneClose c
      | _ => d

/-- Nothing of a draining channel is left to code, packetise or output (R51). -/
def Dev.drained (d : Dev) (c : Nat) : Bool :=
  let x := d.ch c
  d.chState c == 4 && x.pics.isEmpty && x.out.isEmpty && x.dec.aus.isEmpty
    && x.dec.dpb.all (fun p => !p.toOut && !p.linkWait) && !d.jobs.any (fun j => j.chn == c)

/-- The last work of a drain is committed: CONFIGURED, the reservation released, DRAINED (R51). -/
def execDrainComplete (c : Fin 256) (s : State) : Host.Outcome State Fault Refusal :=
  s.run fun _ d =>
    if d.drained c then (((d.discard c).setState c 1).release c).event (CHN_EVT.DRAINED.on c) else d

/-- CHN_ENC_FORCE.IRAP: a random-access picture at the first picture no encode job of which is issued (R98, R99, R116). -/
def execEncForceIrap (c : Fin 256) (s : State) : Host.Outcome State Fault Refusal :=
  s.run fun _ d => if d.isDecode c || !(d.chState c == 2 || d.chState c == 3) then d else d.forceRap c

end Sys2Proof.Machine
end

