-- ==== Sys2Proof/Machine/Egress.lean ====
section
/-!
DEFINITION. The egress stage of a port: replication entries and walks, queues, deficit round robin, shapers, and the frames sent with
their headers (R379 to R386, R389, R390, R319, R358).
-/

namespace Sys2Proof.Machine

/-! Replication commands (R379, R381). -/

def Dev.replData (d : Dev) : List Byte := (List.range 12).flatMap (fun k => natLE 4 (d.rd (EGS_REPL_DATA.BYTES k)))

/-- A replication command ends with its result. -/
def Dev.replResult (d : Dev) (r : Nat) : Dev := (d.wr EGS_REPL_STS.RESULT r).event EGS_EVT.REPL_DONE

/-- The queue an entry's bytes name is bound to a port. -/
def Dev.queueOn (d : Dev) (q port : Nat) : Bool := (d.egsQ q).port == some port

/-- A walk in progress has still to queue a copy under the entry. Such an entry is still in flight for ADD (DEDUCED, log entry 235). -/
def Dev.walking (d : Dev) (idx : Nat) : Bool :=
  d.net.outs.any (fun o => o.2.packets.any (fun k => match k.walk with | some l => l.any (fun e => e.1 == idx) | none => false))

/-- ADD writes the entry and links it at the tail of its list. -/
def Dev.replAdd (d : Dev) (idx : Nat) : Dev :=
  let r : Repl := { bytes := d.replData.take 31, valid := true, queued := 0 }
  let old := d.replAt idx
  if old.valid then d.replResult 1
  else if old.queued ≠ 0 || d.walking idx then d.replResult 2
  else if !d.queueOn r.queue r.port then d.replResult 3
  else if d.isDecode r.chn then d.replResult 4
  else (((d.upRepl idx (fun _ => r)).setReplList r.chn r.port (d.replList r.chn r.port ++ [idx])).showLists r.chn).replResult 0

def execReplAdd (idx : Fin 65536) (s : State) : Host.Outcome State Fault Refusal := s.run fun _ d => d.replAdd idx

/-- REMOVE unlinks and invalidates the entry. -/
def Dev.replRemove (d : Dev) (idx : Nat) : Dev :=
  if (d.replAt idx).valid then (d.unlink idx).replResult 0 else d.replResult 5

def execReplRemove (idx : Fin 65536) (s : State) : Host.Outcome State Fault Refusal := s.run fun _ d => d.replRemove idx

/-- The neighbour of an entry in its list; a free value where there is none. -/
def neighbour (l : List Nat) (i : Nat) (free : Nat) : Nat :=
  match l.dropWhile (· != i) with
  | _ :: n :: _ => n
  | _ => free

/-- READ copies the entry into the data registers. -/
def Dev.replRead (d : Dev) (idx : Nat) : Dev :=
  let r := d.replAt idx
  let l := if r.valid then d.replList r.chn r.port else []
  let a := d.freeVal 16
  let b := a.2.freeVal 16
  let bs := r.bytes ++ natLE 1 (ofBool r.valid + 2 * ofBool (r.queued != 0)) ++ natLE 2 (neighbour l idx a.1)
    ++ natLE 2 (neighbour l.reverse idx b.1) ++ List.replicate 12 0
  (b.2.forEach (List.range 12) (fun d k => d.wr (EGS_REPL_DATA.BYTES k) (leNat (slice bs (4 * k) 4)))).replResult 0

def execReplRead (idx : Fin 65536) (s : State) : Host.Outcome State Fault Refusal := s.run fun _ d => d.replRead idx

/-- UPDATE rewrites bytes 0 to 29 except PORT. -/
def Dev.replUpdate (d : Dev) (idx : Nat) : Dev :=
  let r := d.replAt idx
  let data := d.replData
  let new : Repl := { r with bytes := data.take 28 ++ slice r.bytes 28 1 ++ slice data 29 1 ++ slice r.bytes 30 1 }
  if !r.valid then d.replResult 5
  else if !d.queueOn new.queue r.port then d.replResult 3
  else (d.upRepl idx (fun _ => new)).replResult 0

def execReplUpdate (idx : Fin 65536) (s : State) : Host.Outcome State Fault Refusal := s.run fun _ d => d.replUpdate idx

/-! Queues (R382). -/

def Dev.burst (d : Dev) (q : Nat) : Nat := max 1 (d.rd (EGS_Q_SHAPER.BURST.bk q)) * 64

/-- The queues bound to a port. -/
def Dev.boundQueues (d : Dev) (p : Nat) : List Nat := (d.net.queues.filter (fun e => e.2.port == some p)).map (·.1)

/-- EGS_Q_CMD BIND in a port's page. -/
def execQueueBind (p : Fin 8) (s : State) : Host.Outcome State Fault Refusal :=
  s.run fun _ d =>
    let q := d.rd (EGS_Q_SEL.QUEUE.on p)
    let res (d : Dev) (r : Nat) : Dev := d.wr (EGS_Q_STS.RESULT.bk q) r
    match (d.egsQ q).port with
    | some o => res d (if o = p.val then 1 else 5)
    | none =>
      if (d.boundQueues p).length ≥ 1024 then res d 4
      else
        let d := (d.upQ q (fun _ => { EgsQ.reset with port := some p.val, tokens := d.burst q * 2 ^ 24 })).wr (EGS_Q_DEFICIT.BYTES.bk q) 0
        res (d.wr (EGS_STS.BOUND.on p) (d.boundQueues p).length) 1

/-- EGS_Q_CMD UNBIND: the queue is empty and nothing names it. -/
def execQueueUnbind (p : Fin 8) (s : State) : Host.Outcome State Fault Refusal :=
  s.run fun _ d =>
    let q := d.rd (EGS_Q_SEL.QUEUE.on p)
    let res (d : Dev) (r : Nat) : Dev := d.wr (EGS_Q_STS.RESULT.bk q) r
    if !d.queueOn q p then res d 5
    else if !(d.egsQ q).descs.isEmpty then res d 2
    else if d.net.repl.any (fun e => e.2.valid && e.2.queue == q) || d.rd (EGS_PORT_CFG.FWD_Q.on p) == q || d.rd (EGS_PORT_CFG.INJ_Q.on p) == q
    then res d 3
    else
      let d := d.upQ q (fun _ => EgsQ.reset)
      res (d.wr (EGS_STS.BOUND.on p) (d.boundQueues p).length) 1

/-! Walks (R380). -/

/-- A copy or frame is discarded (R381, R382). -/
def Dev.egsDisc (d : Dev) (p : Nat) : Dev := (d.count (EGS_CNT_DISC.COUNT.on p) 1).event (EGS_EVT.DISC.on p)

/-- A descriptor joins a queue; a queue that was empty joins the tail of the active list with deficit 0 (R383). -/
def Dev.enqueue (d : Dev) (p q : Nat) (k : TxDesc) : Dev :=
  let was := (d.egsQ q).descs.isEmpty
  let d := (d.upQ q (fun x => { x with descs := x.descs ++ [k] })).wr (EGS_STS.DESCS.on p) (d.rd (EGS_STS.DESCS.on p) + 1)
  let d := match k.entry with | some i => d.upRepl i (fun r => { r with queued := r.queued + 1 }) | none => d
  if was then (d.upPort p (fun x => { x with todo := x.todo ++ [q] })).wr (EGS_Q_DEFICIT.BYTES.bk q) 0 else d

/-- The entries of a walk still to be queued; it stops where a queue at its limit or the descriptor store makes it wait (R380, R382).
The answer holds the entries left, the copies queued, and the state.  `i` is none for a frame that is no packetiser's. -/
def Dev.walkOn (d : Dev) (p id : Nat) : List (Option Nat × Nat) → Nat → List (Option Nat × Nat) × Nat × Dev
  | [], n => ([], n, d)
  | (i, q) :: l, n =>
    if !d.queueOn q p then (d.egsDisc p).walkOn p id l n
    else if d.rd (EGS_STS.DESCS.on p) ≥ 32768 then ((i, q) :: l, n, d)
    else if (d.egsQ q).descs.length ≥ max 1 (d.rd (EGS_Q_LIMIT.DESCS.bk q)) then
      if d.bit (EGS_Q_CFG.DROP.bk q) then ((d.count (EGS_CNT_Q_DROP.COUNT.bk q) 1).event (EGS_EVT.Q_DROP.on p)).walkOn p id l n
      else ((i, q) :: l, n, d)
    else (d.enqueue p q ⟨id, i⟩).walkOn p id l (n + 1)

/-- A packet leaves its output buffer when its walk is over and its last copy has gone (R380). -/
def Dev.sweepPkts (d : Dev) (p : Nat) : Dev :=
  d.upOut p (fun x => { x with packets := x.packets.filter (fun k => !(k.walk == some [] && k.copies == 0)) })

/-- The walk of packet `k` of a port's output goes on (R380). -/
def Dev.walkPkt (d : Dev) (p : Nat) (k : OutPkt) : Dev :=
  -- the list as it stands when the walk begins: a change made during it applies after it (R381)
  let list : List Nat := match k.pkt.link with | some i => if d.onList k.pkt.arg i then [i] else [] | none => d.replList k.pkt.arg p
  let d := if k.pkt.act = 8 ∧ k.walk = none ∧ k.pkt.link.isSome ∧ list.isEmpty then d.egsDisc p else d
  let todo : List (Option Nat × Nat) :=
    if k.pkt.act = 8 then (k.walk.getD (list.map (fun i => (i, (d.replAt i).queue)))).map (fun e => (some e.1, e.2))
    else [(none, if k.pkt.act = 7 then d.rd (EGS_PORT_CFG.INJ_Q.on p) else d.rd (EGS_PORT_CFG.FWD_Q.on p))]
  let r := d.walkOn p k.id todo 0
  let left : List (Nat × Nat) := r.1.map (fun e => (e.1.getD 0, e.2))
  let d := r.2.2.upOut p (fun x => { x with packets := x.packets.map (fun q =>
    if q.id = k.id then { q with walk := if left.isEmpty then some [] else if q.pkt.act = 8 then some left else none
                                 copies := q.copies + r.2.1 } else q) })
  d.sweepPkts p

/-- The first complete packet whose walk is not over is walked (R380). -/
def execReplWalk (p : Fin 8) (s : State) : Host.Outcome State Fault Refusal :=
  s.run fun _ d =>
    if !d.open_ (pageEGS p) then d
    else match (d.swOut p).packets.find? (fun k => k.walk != some []) with
      | none => d
      | some k =>
        d.walkPkt p k

/-! Frames (R379). -/

def Dev.pktOf (d : Dev) (p : Nat) (k : TxDesc) : Option SwPkt := ((d.swOut p).packets.find? (fun q => q.id == k.pkt)).map (·.pkt)

def replTagged (r : Repl) : Bool := bitAt (leNat (slice r.bytes 6 2)) 15

/-- Frame bytes, destination address to FCS, of a descriptor's frame (R383). -/
def Dev.frameLen (d : Dev) (p : Nat) (k : TxDesc) : Nat :=
  match d.pktOf p k, k.entry with
  | some s, some i =>
    let r := d.replAt i
    14 + (if replTagged r then 4 else 0) + (if replV4 r then 20 else 40) + 8 + s.bytes.length + 4
  | some s, none => s.bytes.length + 4
  | none, _ => 0

/-- The priority of a descriptor's frame (R354). -/
def Dev.descPrio (d : Dev) (p : Nat) (k : TxDesc) : Nat :=
  match k.entry with
  | some i => let r := d.replAt i; if replTagged r then leNat (slice r.bytes 6 2) / 2 ^ 12 % 8 else 0
  | none => match d.pktOf p k with | some s => s.prio.getD (framePrio s.bytes) | none => 0

/-- A source address of a port. -/
def Dev.srcIp (d : Dev) (p i : Nat) : List Byte := (List.range 4).flatMap (fun k => natLE 4 (d.rd (((EGS_SRC_IP.BYTES k).on p).bk i)))

/-- A UDP checksum; 0 is sent as 0xFFFF. -/
def udpSum (bs : List Byte) : Nat := if inetSum bs = 0 then 0xFFFF else inetSum bs

/-- One copy with its subscriber's headers (R379); the identification and the don't-fragment bit of an IPv4 header, and the flow label
of an IPv6 header, are free values. -/
def Dev.copyBytes (d : Dev) (p i : Nat) (s : SwPkt) : List Byte × Dev :=
  let r := d.replAt i
  let c := s.arg
  let mac := slice r.bytes 0 6 ++ natBE 6 (d.rd (EGS_SRC_MAC.MAC.on p))
  let tag : List Byte := if replTagged r then natBE 2 0x8100 ++ natBE 2 (leNat (slice r.bytes 6 2) % 2 ^ 15 / 2 ^ 12 * 2 ^ 13 + leNat (slice r.bytes 6 2) % 2 ^ 12) else []
  let src := d.srcIp p ((r.bytes.getD 29 0).toNat % 16)
  let dst := slice r.bytes 8 16
  let ttl := max 1 (d.rd (CHN_PKT_IP.TTL.on c))
  let dscp := d.rd (CHN_PKT_IP.DSCP.on c)
  let n := s.bytes.length + 8
  let udpHead (sum : Nat) : List Byte := natBE 2 (d.rd (CHN_PKT_IP.UDP_SRC.on c)) ++ natBE 2 (leNat (slice r.bytes 24 2)) ++ natBE 2 n ++ natBE 2 sum
  let v := d.freeVal 20
  if replV4 r then
    let sa := src.drop 12
    let da := dst.drop 12
    let pseudo := sa ++ da ++ [0, 17] ++ natBE 2 n
    let sum := udpSum (pseudo ++ udpHead 0 ++ s.bytes)
    let head (x : Nat) : List Byte := [0x45, BitVec.ofNat 8 (dscp * 4)] ++ natBE 2 (n + 20) ++ natBE 2 (v.1 % 2 ^ 16)
      ++ natBE 2 (v.1 / 2 ^ 16 % 2 * 0x4000) ++ natBE 1 ttl ++ [17] ++ natBE 2 x ++ sa ++ da
    (mac ++ tag ++ natBE 2 0x0800 ++ head (inetSum (head 0)) ++ udpHead sum ++ s.bytes, v.2)
  else
    let pseudo := src ++ dst ++ natBE 4 n ++ [0, 0, 0, 17]
    let sum := udpSum (pseudo ++ udpHead 0 ++ s.bytes)
    (mac ++ tag ++ natBE 2 0x86DD ++ natBE 4 (6 * 2 ^ 28 + dscp * 2 ^ 22 + v.1) ++ natBE 2 n ++ [17] ++ natBE 1 ttl ++ src ++ dst
      ++ udpHead sum ++ s.bytes, v.2)

/-- A frame with bytes replaced from an offset on. -/
def putBytes (bs : List Byte) (a : Nat) (new : List Byte) : List Byte := bs.take a ++ new ++ bs.drop (a + new.length)

/-- One-step time-stamping (R319): originTimestamp at byte 34 of the PTP header; a non-zero UDP checksum in front of it is updated. -/
def oneStepBytes (bs : List Byte) (ptp t : Nat) : List Byte :=
  let new := natBE 6 (t / 1000000000) ++ natBE 4 (t % 1000000000)
  let old := slice bs (ptp + 34) 10
  let out := putBytes bs (ptp + 34) new
  let l2 := etherAt bs + 2 == ptp && beNat (slice bs (ptp - 2) 2) == 0x88F7
  let c := beNat (slice bs (ptp - 2) 2)
  if l2 || c == 0 then out
  else
    let t := (65535 - c) + inetSum old + (65535 - inetSum new)
    let f := t % 65536 + t / 65536
    let x := 65535 - (f % 65536 + f / 65536)
    putBytes out (ptp - 2) (natBE 2 (if x = 0 then 0xFFFF else x))

/-! Scheduling (R383, R384). -/

/-- The shaper lets a frame of `len` bytes go. -/
def Dev.shaperOk (d : Dev) (q len : Nat) : Bool :=
  d.rd (EGS_Q_SHAPER.RATE.bk q) == 0 || (d.egsQ q).tokens ≥ min len (d.burst q) * 2 ^ 24

def Dev.quantum (d : Dev) (q : Nat) : Nat := max 1 (d.rd (EGS_Q_CFG.QUANTUM.bk q)) * 64

/-- A round ends where no queue is left to serve in it: the -W writes pending in the port's page latch (R30, R383). -/
def Dev.roundEnd (d : Dev) (p : Nat) : Dev :=
  if !(d.egsPort p).todo.isEmpty then d
  else
    ((d.upPort p (fun x => { todo := x.served, served := [] })).count (EGS_CNT_ROUNDS.COUNT.on p) 1).latch (pageEGS p)

/-- The turn of the queue in front ends: it goes behind the others with its deficit (R383). -/
def Dev.endTurn (d : Dev) (p q : Nat) : Dev :=
  let d := d.upQ q (fun x => { x with inTurn := false })
  (d.upPort p (fun x => { todo := x.todo.drop 1, served := x.served ++ [q] })).roundEnd p

/-- The head of a queue leaves it; an emptied queue leaves the active list. -/
def Dev.popDesc (d : Dev) (p q : Nat) (k : TxDesc) : Dev :=
  let d := (d.upQ q (fun x => { x with descs := x.descs.drop 1 })).wr (EGS_STS.DESCS.on p) (d.rd (EGS_STS.DESCS.on p) - 1)
  let d := match k.entry with | some i => d.upRepl i (fun r => { r with queued := r.queued - 1 }) | none => d
  let d := (d.upOut p (fun x => { x with packets := x.packets.map (fun t => if t.id = k.pkt then { t with copies := t.copies - 1 } else t) })).sweepPkts p
  if (d.egsQ q).descs.isEmpty then
    let d := (d.upQ q (fun x => { x with inTurn := false })).wr (EGS_Q_DEFICIT.BYTES.bk q) 0
    (d.upPort p (fun x => { todo := x.todo.filter (· != q), served := x.served.filter (· != q) })).roundEnd p
  else d

/-- Copies of removed entries at the head of a queue are discarded (R381). -/
def Dev.dropRemoved (d : Dev) (p q : Nat) : Nat → Dev
  | 0 => d
  | n + 1 =>
    match (d.egsQ q).descs with
    | k :: _ =>
      match k.entry with
      | some i => if (d.replAt i).valid then d else ((d.popDesc p q k).egsDisc p).dropRemoved p q n
      | none => d
    | [] => d

/-- The next frame of a port (R383): its queue and descriptor.  A queue whose head has a paused priority cannot send (R318). -/
def Dev.egsNext (d : Dev) (p : Nat) : Nat → Option (Nat × TxDesc) × Dev
  | 0 => (none, d)
  | n + 1 =>
    match (d.egsPort p).todo with
    | [] => (none, d)
    | q :: _ =>
      let d := d.dropRemoved p q (d.egsQ q).descs.length
      match (d.egsQ q).descs with
      | [] => d.egsNext p n
      | k :: _ =>
        let len := d.frameLen p k
        let ok := d.shaperOk q len && !bitAt (d.rd (ETH_STS.PFC_PAUSED.on p)) (d.descPrio p k)
        if !(d.egsQ q).inTurn && !ok then (d.endTurn p q).egsNext p n
        else
          let d := if (d.egsQ q).inTurn then d
            else (d.wr (EGS_Q_DEFICIT.BYTES.bk q) (d.rd (EGS_Q_DEFICIT.BYTES.bk q) + d.quantum q)).upQ q (fun x => { x with inTurn := true })
          if len ≤ d.rd (EGS_Q_DEFICIT.BYTES.bk q) && ok then
            let d := d.wr (EGS_Q_DEFICIT.BYTES.bk q) (d.rd (EGS_Q_DEFICIT.BYTES.bk q) - len)
            (some (q, k), d.upQ q (fun x => { x with tokens := x.tokens - len * 2 ^ 24 }))
          else (d.endTurn p q).egsNext p n

/-- The MAC may take a frame: enabled, up, not frozen, not paused (R318, R339, R340). -/
def Dev.macReady (d : Dev) (p : Nat) : Bool :=
  d.open_ (pageETH p) && d.bit (ETH_CTL.TX_EN.on p) && d.linkUp p && !d.bit (ETH_STS.PAUSED.on p) && d.open_ (pageEGS p)

/-- A frame leaves the port; in near-end loopback it comes back to it (R340; DESIGN CHOICE, log entry 200). -/
def Dev.putFrame (d : Dev) (now p : Nat) (bytes : List Byte) (bad : Bool) : Dev :=
  if !d.bit (ETH_CTL.LPBK.on p) then d.send (.frame p bytes bad)
  else if d.portTakes p then d.receive now p bytes (!bad)
  else d

/-- A frame goes to the MAC, with its time stamp (R319). -/
def Dev.transmit (d : Dev) (now p : Nat) (bytes : List Byte) (stamp : TxStamp) (bad : Bool) : Dev :=
  let d := (d.count (ETH_CNT_TX_FRAMES.COUNT.on p) 1).count (ETH_CNT_TX_BYTES.COUNT.on p) (bytes.length + 4)
  match stamp with
  | .none => d.putFrame now p bytes bad
  | .twoStep tag =>
    let r := d.stampAt now (d.rd (ETH_TS_LAT.TX.on p))
    (r.2.putFrame now p bytes bad).captureTx p tag r.1
  | .oneStep ptp =>
    if d.bit (ETH_PTP_CFG.ONESTEP_EN.on p) then
      let r := d.stampAt now (d.rd (ETH_TS_LAT.TX.on p))
      r.2.putFrame now p (oneStepBytes bytes ptp r.1) bad
    else d.putFrame now p bytes bad

/-- The descriptor at the head of queue `q` is sent, or lost to an error (R358, R383, R386). A poisoned buffer is not sent (DEDUCED, log
entry 229). -/
def Dev.sendDesc (d : Dev) (now p q : Nat) (k : TxDesc) (err : TxErr) : Dev :=
  match d.pktOf p k with
  | none => d.popDesc p q k
  | some pkt =>
    -- a packet whose buffer holds uncorrectable data is not sent (R292)
    if (match pkt.buf with | some (_, a) => d.poisoned a pkt.bytes.length | none => false) then
      (match pkt.buf with | some (_, a) => d.hbmReads (0x0B4 + p) a pkt.bytes.length | none => d).popDesc p q k
    else
    let d := match err with
      | .obufCe => (d.count SWC_CNT_OBUF_CE.COUNT 1).flag SWC_FLT.OBUF_CE
      | .obufUe => d.flag SWC_FLT.OBUF_UE
      | .replCe => d.flag (EGS_FLT.REPL_CE.on p)
      | .replUe => d.flag (EGS_FLT.REPL_UE.on p)
      | .descPar => d.flag (EGS_FLT.DESC_PAR.on p)
      | .none => d
    let lost := decide (err = TxErr.descPar) || (decide (err = TxErr.replUe) && k.entry.isSome)
    if lost then
      let d := match k.entry with
        | some i => if err = TxErr.replUe then d.unlink i else d
        | none => d
      (d.egsDisc p).popDesc p q k
    else
      let b : List Byte × Dev := match k.entry with
        | some i => d.copyBytes p i pkt
        | none => (pkt.bytes, d)
      let d := b.2.transmit now p b.1 pkt.stamp (decide (err = TxErr.obufUe))
      let d := (d.count (EGS_CNT_Q_FRAMES.COUNT.bk q) 1).count (EGS_CNT_COPIES.COUNT.on p) (ofBool k.entry.isSome)
      d.popDesc p q k

/-- The MAC can take a frame: DRR and the shapers choose it (R383).  `err` is an error met in the output buffer (R358), the
replication store or the descriptor (R386, R389). -/
def execEgressDequeue (p : Fin 8) (err : TxErr) (s : State) : Host.Outcome State Fault Refusal :=
  s.run fun e d =>
    if !d.macReady p then d
    else
      let n := (d.egsPort p).todo.length + (d.egsPort p).served.length + 1
      let r := d.egsNext p n
      match r.1 with
      | none => r.2
      | some (q, k) =>
        r.2.sendDesc e.now p q k err

/-- Every 64 ns the buckets rise by RATE * 0.000008 bytes, held to 2^-24 byte and capped at BURST (R384). -/
def execTokenUpdate (s : State) : Host.Outcome State Fault Refusal :=
  s.run fun _ d =>
    d.forEach (d.net.queues.map (·.1)) (fun d q =>
      if (d.egsQ q).port.isNone then d
      else d.upQ q (fun x => { x with
        tokens := min (d.burst q * 2 ^ 24) (x.tokens + d.rd (EGS_Q_SHAPER.RATE.bk q) * 8 * 2 ^ 24 / 1000000) }))

end Sys2Proof.Machine
end

