-- ==== Sys2Proof/Machine/Herd.lean ====
section
/-!
DEFINITION. The Herd and the interrupt controller: cache maintenance, core states, doorbells, timers, routes, external inputs, the host
mailbox and the notifications, and the console UART (R414 to R433, R545).
-/

namespace Sys2Proof.Machine


/-! Cache maintenance (R417). -/

/-- A Herd address as a place in a memory: cached addresses of HBM and of the shared SRAM (R414). -/
def herdPlace (a : Nat) : Option (MemId × Nat) :=
  if a < 0x800000000 then some (.hbm, a)
  else if 0x800000000 ≤ a ∧ a < 0x800200000 then some (.sram, a - 0x800000000) else none

/-- A line of 64 bytes overlaps the range of HCC_CMO_ADDR and HCC_CMO_LEN. -/
def Dev.cmoCovers (d : Dev) (n a : Nat) : Bool :=
  let lo := d.rd (HCC_CMO_ADDR.ADDR.on n) * 64
  let len := d.rd (HCC_CMO_LEN.BYTES.on n)
  a % 64 == 0 && a < lo + len && lo < a + 64

/-- Dirty lines that an operation writes back. -/
def Dev.cleanLines (d : Dev) (n : Nat) (dirty : List (Nat × List Byte)) : Dev :=
  d.forEach dirty (fun d l =>
    if d.cmoCovers n l.1 ∧ l.2.length = 64 then
      match herdPlace l.1 with
      | some p => d.store p.1 p.2 l.2
      | none => d
    else d)

/-- A write of HCC_CMO_CMD: only core n may write it; while BUSY it is ignored and sets WIGN (R417). -/
def Dev.cmo (d : Dev) (rq : Requester) (n : Fin 4) (f : Dev → Dev) : Dev :=
  if rq ≠ .herd n then d
  else if d.bit (HCC_CMO_STS.BUSY.on n) then d.ignored (pageHCC n) 0x06C
  else (f d).wr (HCC_CMO_STS.BUSY.on n) 1

/-- CLEAN: `dirty` is what the data caches hold dirty in the range, as line addresses and lines. -/
def execCmoClean (rq : Requester) (n : Fin 4) (dirty : List (Nat × List Byte)) (s : State) : Host.Outcome State Fault Refusal :=
  s.run fun _ d => d.cmo rq n (fun d => d.cleanLines n dirty)

/-- INVAL discards lines: memory keeps what it holds. -/
def execCmoInval (rq : Requester) (n : Fin 4) (s : State) : Host.Outcome State Fault Refusal := s.run fun _ d => d.cmo rq n id

def execCmoCleanInval (rq : Requester) (n : Fin 4) (dirty : List (Nat × List Byte)) (s : State) : Host.Outcome State Fault Refusal :=
  s.run fun _ d => d.cmo rq n (fun d => d.cleanLines n dirty)

def execCmoInvalI (rq : Requester) (n : Fin 4) (s : State) : Host.Outcome State Fault Refusal := s.run fun _ d => d.cmo rq n id

/-- The operation's writes are acknowledged: BUSY returns to 0, private source 9 (R417). -/
def execCmoDone (n : Fin 4) (s : State) : Host.Outcome State Fault Refusal :=
  s.run fun _ d => if d.bit (HCC_CMO_STS.BUSY.on n) then (d.wr (HCC_CMO_STS.BUSY.on n) 0).raisePriv n 9 else d

/-! Core states (R418). -/

/-- A source, private or shared, that is active on the core's line. -/
def Dev.lineActive (d : Dev) (n : Nat) : Bool :=
  (d.word (pageHCC n + 0x048) &&& ~~~(d.word (pageHCC n + 0x04C))) != 0
    || (List.range 1024).any (fun s => d.sourceActive s && d.routeKind s == n)

/-- Wait-for-interrupt: the core sleeps, unless a source is active that would wake it. -/
def execCoreSleep (n : Fin 4) (s : State) : Host.Outcome State Fault Refusal :=
  s.run fun _ d => if d.rd (HCC_STS.STATE.on n) = 0 ∧ !d.lineActive n then d.wr (HCC_STS.STATE.on n) 1 else d

/-- A core goes offline: its active sources strand (R428). -/
def Dev.coreOff (d : Dev) (n : Nat) : Dev :=
  let d := d.wr (HCC_CTL.OFFLINE.on n) 1
  if d.rd (HCC_STS.STATE.on n) = 2 then d
  else if d.rd (HCC_STS.STATE.on n) = 3 then d.upHerd (fun h => { h with halted := storeSet (fun _ => 0) h.halted n 2 })
  else (d.wr (HCC_STS.STATE.on n) 2).strand n

def execCoreOffline (n : Fin 4) (s : State) : Host.Outcome State Fault Refusal := s.run fun _ d => d.coreOff n

/-- A core resumes where it stopped; its sources are delivered (R418, R425). -/
def Dev.coreOn (d : Dev) (n : Nat) : Dev :=
  let d := d.wr (HCC_CTL.OFFLINE.on n) 0
  if d.rd (HCC_STS.STATE.on n) = 2 then (d.wr (HCC_STS.STATE.on n) 0).redeliver n
  else if d.rd (HCC_STS.STATE.on n) = 3 then d.upHerd (fun h => { h with halted := storeSet (fun _ => 0) h.halted n 0 })
  else d

def execCoreOnline (n : Fin 4) (s : State) : Host.Outcome State Fault Refusal := s.run fun _ d => d.coreOn n

/-- Debug access at level FULL, or in a device in DEVELOPMENT (R504, R505). -/
def Dev.debugFull (d : Dev) : Bool := d.rd SEC_LC.DBG == 2 || Config.otpLifecycle == 0

def execDebugHalt (n : Fin 4) (s : State) : Host.Outcome State Fault Refusal :=
  s.run fun _ d =>
    let st := d.rd (HCC_STS.STATE.on n)
    if !d.debugFull || st == 3 then d
    else
      let d := (d.wr (HCC_STS.STATE.on n) 3).upHerd (fun h => { h with halted := storeSet (fun _ => 0) h.halted n st })
      d.strand n

/-- Debug resume: back to RUN; a core whose OFFLINE is 1 is offline (R418). -/
def execDebugResume (n : Fin 4) (s : State) : Host.Outcome State Fault Refusal :=
  s.run fun _ d =>
    if !d.debugFull || d.rd (HCC_STS.STATE.on n) != 3 then d
    else
      let off := storeGet (fun _ => 0) d.herd.halted n == 2
      let d := d.upHerd (fun h => { h with halted := storeSet (fun _ => 0) h.halted n 0 })
      if off then d.wr (HCC_STS.STATE.on n) 2 else (d.wr (HCC_STS.STATE.on n) 0).redeliver n

/-! Doorbells and timers (R419). -/

/-- The number of a writer of HCC_DBELL. -/
def bellOf : Requester → Nat
  | .herd k => k
  | .sec => 4
  | .host => 5

def Dev.ringBell (d : Dev) (n k : Nat) : Dev :=
  (d.wr ⟨0xD01054 + 0x1000 * n, k, 1, false⟩ 1).raisePriv n k

def execDbellRing (rq : Requester) (n : Fin 4) (s : State) : Host.Outcome State Fault Refusal := s.run fun _ d => d.ringBell n (bellOf rq)

/-- TIMER fires once for each write of HCC_TIMER, at or beyond the time written. -/
def execHccTimerFire (n : Fin 4) (s : State) : Host.Outcome State Fault Refusal :=
  s.run fun e d =>
    if d.herd.timers.contains n.val && d.rd (HCC_TIMER.COMPARE.on n) ≤ e.now then
      (d.upHerd (fun h => { h with timers := h.timers.filter (· != n.val) })).raisePriv n 8
    else d

/-! Routes (R425, R432). -/

/-- A write of INT_ROUTE; a source that is active is presented to its new target. -/
def execIntRouteWrite (kind : Fin 8) (vector : Fin 2048) (s : State) : Host.Outcome State Fault Refusal :=
  s.run fun _ d =>
    let src := d.rd INT_SRC_SEL.SRC
    if !sourceExists src then d
    else
      let d := (d.wr (INT_ROUTE.KIND.bk src) kind).wr (INT_ROUTE.VECTOR.bk src) vector
      if d.sourceActive src then d.deliver src else d

/-! External inputs (R429). -/

/-- The line of an input after inversion. -/
def Dev.extLine (d : Dev) (i : Nat) : Bool := bitAt (d.rd INT_EXT_LEVEL.SYNC) i != d.bit (INT_EXT_CFG.INV i)

def syncBit (i : Nat) : Field := ⟨0x801080, 16 + i, 1, false⟩
def filteredBit (i : Nat) : Field := ⟨0x801080, i, 1, false⟩

/-- The filter counts while the line differs from the filtered level. -/
def Dev.extCount (d : Dev) (i : Nat) : Dev :=
  d.upHerd (fun h => { h with counting := h.counting.filter (· != i) ++ (if d.extLine i != d.bit (filteredBit i) then [i] else []) })

def execExtInputChange (i : Fin 16) (high : Bool) (s : State) : Host.Outcome State Fault Refusal :=
  s.run fun _ d => (d.wr (syncBit i) (ofBool high)).extCount i

/-- An edge of the filtered level in an edge mode: the source and its latch; a level source follows its level. -/
def Dev.extEdge (d : Dev) (i : Nat) (rise : Bool) : Dev :=
  let mode := d.rd (INT_EXT_CFG.MODE i)
  if mode = 0 then d.sampleSource (576 + i)
  else if mode = 3 ∨ (mode = 1 ∧ rise) ∨ (mode = 2 ∧ !rise) then (d.wr ⟨0x801084, i, 1, false⟩ 1).raise (576 + i)
  else d

/-- The line has held its new level for FILT ac. -/
def execExtFilterSettle (i : Fin 16) (s : State) : Host.Outcome State Fault Refusal :=
  s.run fun _ d =>
    if !d.herd.counting.contains i.val then d
    else
      let line := d.extLine i
      let d := d.upHerd (fun h => { h with counting := h.counting.filter (· != i.val) })
      (d.wr (filteredBit i) (ofBool line)).extEdge i line

/-! The host mailbox (R420, R421). -/

def Dev.mbxCore (d : Dev) : Nat := d.rd HCC_MBX_CFG.CORE

/-- A write of HCC_MBX_CMD by the host. -/
def Dev.hostMailbox (d : Dev) (op seq : Nat) : Dev :=
  if d.bit HCC_MBX_STS.BUSY then d.wr HCC_MBX_STS.REJECT 1
  else ((d.wr HCC_MBX_STS.BUSY 1).upHerd (fun h => { h with mbxOp := some (op, seq) })).raisePriv d.mbxCore 6

def execMbxClsInsert (seq : Fin 65536) (s : State) : Host.Outcome State Fault Refusal := s.run fun _ d => d.hostMailbox 1 seq
def execMbxClsDelete (seq : Fin 65536) (s : State) : Host.Outcome State Fault Refusal := s.run fun _ d => d.hostMailbox 2 seq
def execMbxClsRead (seq : Fin 65536) (s : State) : Host.Outcome State Fault Refusal := s.run fun _ d => d.hostMailbox 3 seq
def execMbxMcastJoin (seq : Fin 65536) (s : State) : Host.Outcome State Fault Refusal := s.run fun _ d => d.hostMailbox 4 seq
def execMbxMcastLeave (seq : Fin 65536) (s : State) : Host.Outcome State Fault Refusal := s.run fun _ d => d.hostMailbox 5 seq
def execMbxPortAddr (seq : Fin 65536) (s : State) : Host.Outcome State Fault Refusal := s.run fun _ d => d.hostMailbox 6 seq
def execMbxRepl (seq : Fin 65536) (s : State) : Host.Outcome State Fault Refusal := s.run fun _ d => d.hostMailbox 7 seq
def execMbxVersion (seq : Fin 65536) (s : State) : Host.Outcome State Fault Refusal := s.run fun _ d => d.hostMailbox 8 seq

/-- Request and response bytes. -/
def Dev.mbxData (d : Dev) : List Byte := (List.range 16).flatMap (fun k => natLE 4 (d.rd (HCC_MBX_DATA.BYTES k)))
def Dev.setMbxData (d : Dev) (bs : List Byte) : Dev :=
  d.forEach (List.range (cdiv bs.length 4)) (fun d k =>
    let old := natLE 4 (d.rd (HCC_MBX_DATA.BYTES k))
    let new := slice bs (4 * k) 4
    d.wr (HCC_MBX_DATA.BYTES k) (leNat (new ++ old.drop new.length)))

/-- The result of a block is byte 0 of the response; a code other than 0 is REFUSED. -/
def Dev.blockResult (d : Dev) (code : Nat) : Nat × Dev := (if code = 0 then 0 else 3, d.setMbxData [BitVec.ofNat 8 code])

/-- A classifier command through CLS_DATA, as the firmware issues it. -/
def Dev.fwCls (d : Dev) (e : Env) (op : Nat) : Nat × Dev :=
  let r := (d.setClsData d.mbxData).clsEffect e op
  (r.1, (r.2.wr CLS_CMD_STS.RESULT r.1).event CLS0_EVT.CMD_DONE)

/-- Sources of a membership after a join: an INCLUDE adds to those of an INCLUDE before it. -/
def joinSources (old : Option (List Nat)) (new : List Nat) : List Nat := (old.getD []) ++ new.filter (fun x => !(old.getD []).contains x)

def Dev.mcastJoin (d : Dev) (bs : List Byte) : Nat × Dev :=
  let port := (bs.getD 0 0).toNat
  let mode := (bs.getD 1 0).toNat
  let vlan := leNat (slice bs 2 2)
  let group := beNat (slice bs 4 16)
  let count := (bs.getD 20 0).toNat
  let new := ((List.range count).map (fun k => beNat (slice bs (24 + 16 * k) 16))).eraseDups
  let same (m : Nat × Nat × Nat × Nat × List Nat) : Bool := m.1 == port && m.2.1 == vlan && m.2.2.2.1 == group
  let old := d.herd.mcast.find? same
  let sources := joinSources (match old with | some m => if mode = 1 ∧ m.2.2.1 = 1 then some m.2.2.2.2 else none | none => none) new
  if port ≥ 8 ∨ mode > 1 ∨ vlan > 4095 ∨ count > 2 ∨ sources.length > 8 then (2, d)
  else (0, (d.upHerd (fun h => { h with mcast := h.mcast.filter (fun m => !same m) ++ [(port, vlan, mode, group, sources)] })).report false
    (port, vlan, group))

def Dev.mcastLeave (d : Dev) (bs : List Byte) : Nat × Dev :=
  let port := (bs.getD 0 0).toNat
  let vlan := leNat (slice bs 2 2)
  if port ≥ 8 ∨ (bs.getD 1 0).toNat > 1 ∨ vlan > 4095 then (2, d)
  else
    let g := (port, vlan, beNat (slice bs 4 16))
    -- with an entry that names the group, it is a membership of EXCLUDE mode again (R321)
    (0, (d.upHerd (fun h => { h with mcast := h.mcast.filter (fun m => !(m.1 == port && m.2.1 == vlan && m.2.2.2.1 == g.2.2)) })).report
      (!d.herd.groups.contains g) g)

/-- PORT_ADDR: the address joins or leaves those the firmware answers for, and stands in EGS_SRC_IP of its SRCIDX while it is there. -/
def Dev.portAddr (d : Dev) (bs : List Byte) : Nat × Dev :=
  let port := (bs.getD 0 0).toNat
  let idx := (bs.getD 1 0).toNat
  let vlan := leNat (slice bs 2 2)
  let addr := slice bs 4 16
  let act := (bs.getD 20 0).toNat
  if port ≥ 8 ∨ idx > 15 ∨ vlan > 4095 ∨ act > 1 then (2, d)
  else
    let keep := d.herd.addrs.filter (fun a => !(a.1 == port && a.2.1 == idx))
    let d := d.upHerd (fun h => { h with addrs := keep ++ (if act = 1 then [(port, idx, vlan, beNat addr)] else []) })
    let shown := if act = 1 then addr else List.replicate 16 0
    (0, d.forEach (List.range 4) (fun d k => d.wr (((EGS_SRC_IP.BYTES k).on port).bk idx) (leNat (slice shown (4 * k) 4))))

/-- A replication command as the firmware issues it. -/
def Dev.fwRepl (d : Dev) (bs : List Byte) : Nat × Dev :=
  let op := (bs.getD 0 0).toNat
  let idx := leNat (slice bs 2 2)
  let d := d.forEach (List.range 12) (fun d k => d.wr (EGS_REPL_DATA.BYTES k) (leNat (slice bs (16 + 4 * k) 4)))
  let done (d : Dev) : Nat × Dev := d.blockResult (d.rd EGS_REPL_STS.RESULT)
  match op with
  | 1 => done (d.replAdd idx)
  | 2 => done (d.replRemove idx)
  | 3 => done (d.replRead idx)
  | 4 => done (d.replUpdate idx)
  | _ => (2, d)

/-- The version in the header of a slot (R485). -/
def slotBase (slot : Nat) : Nat := if slot = 0 then 0x00400000 else 0x01C00000

/-- What the firmware does for a command: RESULT, and the response (R421). -/
def Dev.mbxServe (d : Dev) (e : Env) (op : Nat) : Nat × Dev :=
  match op with
  | 1 => let r := d.fwCls e 1; r.2.blockResult r.1
  | 2 => let r := d.fwCls e 2; r.2.blockResult r.1
  | 3 => let r := d.fwCls e 4; if r.1 = 0 then (0, r.2.setMbxData r.2.clsData) else r.2.blockResult r.1
  | 4 => d.mcastJoin d.mbxData
  | 5 => d.mcastLeave d.mbxData
  | 6 => d.portAddr d.mbxData
  | 7 => d.fwRepl d.mbxData
  | 8 => (0, d.setMbxData ((e.bytes .nor (slotBase d.sec.slot + 32) 8) ++ natLE 2 (d.rd WDP_STS.GEN_DEFAULT)))
  | _ => (1, d)

/-- The commands whose service needs the classifier wait until it can take a command of the firmware's. -/
def Dev.mbxWaits (d : Dev) (op : Nat) : Bool :=
  (op == 1 || op == 2 || op == 3) && (d.bit CLS_CMD_STS.BUSY || !d.open_ (pageCLS 0))

/-- Firmware serves the command and writes HCC_MBX_DONE (R420). -/
def execMbxDone (s : State) : Host.Outcome State Fault Refusal :=
  s.run fun e d =>
    match d.herd.mbxOp with
    | none => d
    | some (op, seq) =>
      if !d.service d.mbxCore || d.mbxWaits op then d
      else
        let r := d.mbxServe e op
        let d := ((r.2.wr HCC_MBX_STS.RESULT r.1).wr HCC_MBX_STS.SEQ seq).wr HCC_MBX_STS.BUSY 0
        (d.upHerd (fun h => { h with mbxOp := none })).event HCCC_EVT.MBX_DONE

/-! Notifications (R422). -/

/-- A write of 1 to HCC_NTF_POST; the host's writes are ignored (R420). -/
def execNtfPost (rq : Requester) (s : State) : Host.Outcome State Fault Refusal :=
  s.run fun _ d => if rq = .host then d else (d.wr HCC_NTF_STS.VALID 1).event HCCC_EVT.NTF_AVAIL

/-- A write of 1 to VALID. -/
def execNtfAck (s : State) : Host.Outcome State Fault Refusal :=
  s.run fun _ d => if d.bit HCC_NTF_STS.VALID then (d.wr HCC_NTF_STS.VALID 0).raisePriv d.mbxCore 7 else d

/-! The console UART (R430). -/

def execUartTxWrite (rq : Requester) (byte : Fin 256) (s : State) : Host.Outcome State Fault Refusal :=
  s.run fun _ d =>
    match rq with
    | .herd _ =>
      if d.herd.txFifo.length ≥ 16 then d.wr HCC_UART_STS.TX_OVF 1
      else d.upHerd (fun h => { h with txFifo := h.txFifo ++ [BitVec.ofNat 8 byte] })
    | _ => d

/-- A read pops the oldest byte, with VALID; an empty FIFO reads 0. -/
def execUartRxRead (s : State) : Host.Outcome State Fault Refusal :=
  s.runRead 4 fun _ d =>
    match d.herd.rxFifo with
    | b :: r => (d.upHerd (fun h => { h with rxFifo := r })).send (.readData (natLE 4 (256 + b.toNat)) false)
    | [] => d.send (.readData (natLE 4 0) false)

def execUartRxByte (byte : Fin 256) (s : State) : Host.Outcome State Fault Refusal :=
  s.run fun _ d =>
    if !d.bit HCC_UART_CFG.EN then d
    else if d.herd.rxFifo.length ≥ 16 then d.wr HCC_UART_STS.RX_OVF 1
    else d.upHerd (fun h => { h with rxFifo := h.rxFifo ++ [BitVec.ofNat 8 byte] })

def execUartByteSent (s : State) : Host.Outcome State Fault Refusal :=
  s.run fun _ d =>
    match d.herd.txFifo with
    | b :: r => if d.bit HCC_UART_CFG.EN then (d.upHerd (fun h => { h with txFifo := r })).send (.uart b) else d
    | [] => d

end Sys2Proof.Machine
end

