-- ==== Sys2Proof/Machine/Faults.lean ====
section
/-!
DEFINITION. The fault collector and the firmware watchdogs (R434 to R454).
-/

namespace Sys2Proof.Machine

/-- Class and reaction of a source (R435): class 0 C, 1 U, 2 F; reaction 1 interrupt, 2 engine quarantine, 3 channel abort, 4 safe
state.  None for a reserved source. -/
def fltSource (s : Nat) : Option (Nat × Nat) :=
  if s = 0 ∨ s = 64 ∨ s = 128 ∨ s = 144 ∨ s = 176 ∨ s = 256 ∨ s = 305 then some (0, 1)
  else if s = 4 ∨ s = 32 ∨ s = 33 ∨ s = 48 then some (1, 3)
  else if (1 ≤ s ∧ s ≤ 7) ∨ (16 ≤ s ∧ s ≤ 18) ∨ s = 80 ∨ s = 272 then some (1, 2)
  else if (65 ≤ s ∧ s ≤ 67) ∨ s = 81 ∨ s = 96 ∨ s = 112 ∨ s = 145 ∨ s = 160 ∨ s = 161 ∨ s = 177 ∨ s = 178 ∨ s = 192 ∨ s = 208 ∨ s = 224
      ∨ s = 240 ∨ s = 257 ∨ s = 258 ∨ s = 320 then some (1, 1)
  else if s = 273 ∨ s = 288 ∨ s = 304 ∨ s = 306 ∨ s = 321 then some (2, 4)
  else none

/-- The page of instance 0 of a source's block, and its number of instances (R435). -/
def fltBlock (s : Nat) : Nat × Nat :=
  match s / 16 with
  | 0 => (pagePXE 0, 128)
  | 1 => (pageENE 0, 32)
  | 2 => (pageWDP, 1)
  | 3 => (pageRCT, 1)
  | 4 => (pageHMC 0, 32)
  | 5 => (pageARB 0, 32)
  | 6 => (pageETH 0, 8)
  | 7 => (pagePSE 0, 16)
  | 8 => (pageCLS 0, 1)
  | 9 => (pageSWC, 1)
  | 10 => (pageBPM, 1)
  | 11 => (pageEGS 0, 8)
  | 12 => (pageDMA 0, 8)
  | 13 => (pagePCI, 1)
  | 14 => (pageINT 0, 1)
  | 15 => (pageHCC 0, 4)
  | 16 => (pageBGS, 1)
  | 17 => (pageCLK 0, 221)
  | 18 => (pageSEC, 1)
  | 19 => (pageFLT 0, 1)
  | _ => (pageWDG, 1)

/-- The FLT_STS bit of a source in an instance's page. -/
def fltBit (s i : Nat) : Field := ⟨(fltBlock s).1 + 0x1000 * i + 0x01C, s % 16, 1, false⟩

/-- FLT_SRC_LIVE: the OR of the source's bits over the instances (R450). -/
def Dev.fltLive (d : Dev) (s : Nat) : Bool :=
  (fltSource s).isSome && (List.range (fltBlock s).2).any (fun i => d.bit (fltBit s i))

/-- The source is collected: a C source with COLLECT 0 is status only (R443). -/
def Dev.collects (d : Dev) (s : Nat) : Bool := match fltSource s with
  | some (0, _) => d.bit (FLT_SRC_CFG.COLLECT.bk s)
  | some _ => true
  | none => false

/-! Safe state (R444). -/

/-- What runs on the engines ends without commit, and descriptors in progress end INTERNAL. -/
def Dev.stopAll (d : Dev) : Dev :=
  let on := d.jobs.filterMap (·.engine)
  let d := (d.setJobs (d.jobs.filter (fun j => j.engine.isNone))).forEach on (fun d e => (d.pxeSpent e none).setWord (0x10007C + 0x1000 * e) 0)
  let d := d.forEach (List.range 32) (fun d e => if (d.en e).running.isSome then (d.eneLose e).upEn e (fun x => { x with running := none, inq := 0 }) else d)
  d.forEach ((List.range 8).flatMap (fun e => [(e, RingId.h2d), (e, RingId.d2h)])) (fun d h =>
    match d.halfActive h.1 h.2 with
    | some c => match (d.ring c h.2).active with
      | some x => d.endBadly c h.2 x 6 x.len
      | none => d
    | none => d)

def Dev.enterSafe (d : Dev) : Dev :=
  if d.safe then d else ((d.refuseCommands.stopAll).wr FLT_PEND.SAFE 1).send (.faultN true)

/-! Collecting (R438 to R441). -/

def pendField (k : Nat) : Field := ⟨0x810040, k, 1, false⟩
def capKey (k : Nat) : Nat := 0x810060 + 0x20 * k

/-- A class's capture is filled. -/
def Dev.capture (d : Dev) (now k src master acc addr : Nat) (esc : Bool) : Dev :=
  let d := (d.wr ⟨capKey k, 0, 48, true⟩ addr).wr ⟨capKey k + 0x10, 0, 64, true⟩ now
  let d := d.setWord (capKey k + 0x08)
    (BitVec.ofNat 32 (2 ^ 31 + ofBool esc * 2 ^ 30 + acc % 8 * 2 ^ 27 + src % 512 * 2 ^ 16 + master % 1024))
  (d.wr (pendField k) 1).event (if k = 0 then FLT0_EVT.C_NEW else if k = 1 then FLT0_EVT.U_NEW else FLT1_EVT.F_NEW)

/-- Consequent sources: the parent and whether the key agrees (R441). -/
def Dev.merged (d : Dev) (src master addr : Nat) : Bool :=
  let parent (p : Nat) : Bool := d.bit ⟨capKey 1 + 0x08, 31, 1, false⟩ && d.rd ⟨capKey 1 + 0x08, 16, 9, false⟩ == p
  (src == 4 && parent 65 && d.rd ⟨capKey 1, 0, 48, true⟩ == addr % 2 ^ 48)
    || (src == 5 && parent 80 && d.rd ⟨capKey 1 + 0x08, 0, 10, false⟩ == master % 1024)

/-- A fault of class `k` is collected. -/
def Dev.collect (d : Dev) (now k src master acc addr : Nat) : Dev :=
  let d := d.count (FLT_CNT.COUNT k) 1
  if d.merged src master addr then d
  else
    let d := if !d.bit (pendField k) then d.capture now k src master acc addr false
      else if k ≥ 2 then d
      else
        let d := ((d.count (FLT_CNT.COUNT 3) 1).event FLT1_EVT.ESC).count (FLT_CNT.COUNT (k + 1)) 1
        let d := if d.bit (pendField (k + 1)) then d else d.capture now (k + 1) src master acc addr true
        if k = 1 then d.enterSafe else d
    if k = 2 then d.enterSafe else d

/-- The reaction of a block to a fault that its commands bring too, where FAULT_COLLECT brings it (R216, R194, R246, R299, R307, R443): its
FLT_STS bit was 0, so the fault is not the report of one that a command found (R437; log entry 122). -/
def Dev.newFault (d : Dev) (e : Env) (src inst master addr : Nat) : Dev :=
  let q : BankEntry := { req := master, use := .other, addr := addr, op := .read 32, poisoned := false, failed := false }
  if 1 ≤ src ∧ src ≤ 6 then d.pxeFault e.now inst src none none
  else if src = 7 then (if (d.jobOn inst).isSome then d else (d.setBank inst (addr % 2) false 0).pxeFault e.now inst 7 none none)
  else if 16 ≤ src ∧ src ≤ 18 then d.machineCheck e inst (src - 15) (addr % 4096) []
  else if src = 33 then (if d.chActive (addr % 256) && !d.safe then d.abortChannel e.now (addr % 256) else d)
  else if src = 64 then d.hbmCe inst q
  else if src = 65 then d.hbmUe inst q
  else if src = 80 then (match (d.hb inst).holder with | some h => if d.bit (ARB_STS.LOCKED.on inst) then d.forceRelease e.now inst h else d | none => d)
  else if src = 272 ∨ src = 273 then d.lockLost e.now inst
  else d

/-- What a block does with a fault of its own that no other command brings about (R436): a corrected error of a pixel engine's SRAM counts
(R206), a lost job entry or context aborts its
channel, a slot entry or requester configuration reads as invalid or at reset until it is rewritten, a frame or a route is lost, a core takes a bus error, a
buffer of the pool `inst` is lost, a parse engine leaves service (R345). -/
def Dev.blockFault (d : Dev) (now src inst addr : Nat) : Dev :=
  if src = 0 then d.count (PXE_CNT_SRAM_CE.COUNT.on inst) 1
  else if src = 32 ∨ src = 48 then (if d.chActive (addr % 256) && !d.safe then d.abortChannel now (addr % 256) else d)
  else if src = 81 then
    if bitAt addr 6 then d.wr ((ARB_SLOT_ENTRY.VALID.on inst).bk (64 * d.rd (ARB_STS.ACTIVE.on inst) + addr % 64)) 0
    else d.setWord (((ARB_REQ_CFG.PRIO.on inst).bk (addr % 1024)).base) (BitVec.ofNat 32 (arbReqReset (addr % 1024)))
  else if src = 112 then (if d.rd (PSE_STS.SERVICE.on inst) = 1 then d.pseInvalid inst else d)
  else if src = 96 then d.upEth inst (fun x => { x with rxq := x.rxq.drop 1 })
  else if src = 161 then d.cacheParity inst
  else if src = 240 then d.send (.busError inst)
  else if src = 224 then d.wr (INT_ROUTE.KIND.bk addr) 0
  else d

/-- The block's side of a fault: what the block does, and its FLT_STS bit. -/
def Dev.faultOf (d : Dev) (e : Env) (src inst master addr : Nat) : Dev :=
  let n := inst % (fltBlock src).2
  let bit := fltBit src (if src = 161 then 0 else n)
  let d := (if d.bit bit then d else d.newFault e src n master addr).flag bit
  d.blockFault e.now src (if src = 161 then inst % 4 else n) addr

/-- A fault reaches the collector (R437, R438): its bit in the block's FLT_STS, what its block does, and its collection. -/
def execFaultCollect (src : Fin 512) (inst : Nat) (master : Fin 1024) (acc : Fin 8) (addr : Nat) (s : State) :
    Host.Outcome State Fault Refusal :=
  s.run fun e d =>
    match fltSource src with
    | none => d
    | some (k, _) =>
      let d := d.faultOf e src inst master addr
      if d.collects src then d.collect e.now k src master acc addr else d

/-- A write of FLT_ACK (R445). -/
def execFltAck (classes : Fin 8) (s : State) : Host.Outcome State Fault Refusal :=
  s.run fun _ d => d.forEach (List.range 3) (fun d k =>
    if bitAt classes k then (d.wr (pendField k) 0).wr ⟨capKey k + 0x08, 31, 1, false⟩ 0 else d)

/-- PAGE_STS.IDLE of GLB and FLT: no channel runs (R39, R450). -/
def Dev.glbIdle (d : Dev) : Bool := (List.range 256).all (fun c => !d.chActive c)

/-- A write of FLT_INJECT with GO 1: idle-only; the interrupt and the safe state of the reaction apply (R451). -/
def execFltInject (src : Fin 512) (s : State) : Host.Outcome State Fault Refusal :=
  s.run fun e d =>
    if !d.glbIdle then d.ignored (pageFLT 0) 0x058
    else match fltSource src with
      | some (k, _) => if d.collects src then d.collect e.now k src 0x163 0 0 else d
      | none => d

/-! Firmware watchdogs (R449, R454). -/

def Dev.wdt (d : Dev) (n : Nat) : Wdt := storeGet (fun _ => Wdt.reset) d.wdgs n
def Dev.setWdt (d : Dev) (n : Nat) (x : Wdt) : Dev := { d with wdgs := storeSet (fun _ => Wdt.reset) d.wdgs n x }

/-- A counter starts from LIMIT. -/
def Dev.wdgRestart (d : Dev) (now n : Nat) : Dev := d.setWdt n { since := now, limit := max 1 (d.rd (WDG_CFG.LIMIT n)), zero := false }

def Dev.wdgStart (d : Dev) (now n : Nat) : Dev :=
  if d.bit (WDG_CFG.EN n) then d else (d.wr (WDG_CFG.EN n) 1).wdgRestart now n

def execWdgStart (n : Fin 5) (s : State) : Host.Outcome State Fault Refusal := s.run fun e d => d.wdgStart e.now n

/-- The core a counter watches. -/
def watched (n : Fin 5) : Requester := if h : n.val < 4 then .herd ⟨n.val, h⟩ else .sec

def execWdgKick (rq : Requester) (n : Fin 5) (key : Fin 65536) (s : State) : Host.Outcome State Fault Refusal :=
  s.run fun e d => if rq = watched n ∧ key.val = 0x00A5 ∧ d.bit (WDG_CFG.EN n) then d.wdgRestart e.now n else d

/-- A running counter reaches 0, once. -/
def execWdgExpire (n : Fin 5) (s : State) : Host.Outcome State Fault Refusal :=
  s.run fun _ d =>
    if !d.bit (WDG_CFG.EN n) || (d.wdt n).zero then d
    else
      let d := ((d.setWdt n { d.wdt n with zero := true }).wr (WDG_STS.EXPIRED n) 1).event ⟨0x820010, n, 1, false⟩
      if n.val < 4 then (d.flag WDG_FLT.HERD_EXP).coreOff n else d.flag WDG_FLT.SEC_EXP

/-- µs left (WDG_STS.REMAIN): at least 1 until the counter has expired. -/
def Dev.wdgRemain (d : Dev) (now n : Nat) : Nat :=
  let x := d.wdt n
  if !d.bit (WDG_CFG.EN n) || x.zero then 0 else max 1 (x.limit - ((now : Int) - x.since).toNat / 1000)

end Sys2Proof.Machine
end

