-- ==== Sys2Proof/Machine/Secure.lean ====
section
/-!
DEFINITION. The security core: update files and their checks, the marks of the slots, boot, download, handover, confirmation, and the
two mailboxes (R482 to R510).
-/

namespace Sys2Proof.Machine

/-! The update file (R484 to R487).  A file is read through `f`, which answers `n` bytes from an offset. -/

def hdrNat (h : List Byte) (o n : Nat) : Nat := leNat (slice h o n)
def hdrFlag (h : List Byte) (k : Nat) : Bool := bitAt (hdrNat h 6 2) k
def hdrSecVer (h : List Byte) : Nat := hdrNat h 12 4
def hdrVersion (h : List Byte) : Nat := hdrNat h 32 8
def hdrBody (h : List Byte) : Nat := hdrNat h 40 4
def hdrChunks (h : List Byte) : Nat := hdrNat h 44 4

/-- Bytes of a GCM tag, where the chunks are encrypted. -/
def hdrTag (h : List Byte) : Nat := if hdrFlag h 1 then 16 else 0

/-- Where the chunks start, and the length of the file. -/
def hdrStart (h : List Byte) : Nat := (512 + 48 * hdrChunks h + 4095) / 4096 * 4096
def hdrFile (h : List Byte) : Nat := hdrStart h + hdrBody h + hdrTag h * hdrChunks h

/-- The longest file: a slot less its state sector. -/
def fileMax : Nat := 25100288

/-- The unit ID as it stands in a header and under the debug digests. -/
def unitId : List Byte := natLE 16 Config.otpUnitId

/-- The signing key is one of the three in OTP that is not revoked. -/
def keyListed (key : List Byte) : Bool := (List.range 3).any (fun i => Config.sha384 key == Config.otpKeyDigest i && !Config.otpKeyRevoked i)

/-- The checks of R489 in order: the reason of the first that fails, 0 where all pass.  `arb` is none for the boot ROM, which does not
check SEC_VER (R488); `limit` is the longest file its place takes, `size` the file's own size where it has one. -/
def headerReason (h : List Byte) (table : Nat → List Byte) (hw : Nat) (arb : Option Nat) (limit : Nat) (size : Option Nat) : Nat :=
  let key := slice h 160 49
  if hdrNat h 0 4 ≠ 0x50554454 then 1
  else if hdrNat h 4 2 ≠ 1 ∨ (slice h 156 4 ++ slice h 209 207).any (· != 0) then 2
  else if !keyListed key then 3
  else if !Config.ecdsaOk key (slice h 416 96) (h.take 416) then 4
  else if hdrNat h 8 4 ≠ hw then 5
  else if hdrFlag h 0 ∧ slice h 16 16 ≠ unitId then 6
  else if arb.any (fun a => decide (hdrSecVer h < a)) then 7
  else if hdrBody h < 1024 ∨ hdrChunks h ≠ cdiv (hdrBody h) 65536 ∨ hdrFile h > limit ∨ size.any (fun n => n != hdrFile h) = true
    then 8
  else if Config.sha384 (table (48 * hdrChunks h)) ≠ slice h 48 48 then 9
  else 0

/-- A chunk as it is stored. -/
def chunkAt (h : List Byte) (f : Nat → Nat → List Byte) (i : Nat) : List Byte :=
  f (hdrStart h + i * (65536 + hdrTag h)) (min 65536 (hdrBody h - 65536 * i) + hdrTag h)

/-- Every chunk passes its digest. -/
def chunksOk (h : List Byte) (f : Nat → Nat → List Byte) : Bool :=
  (List.range (hdrChunks h)).all (fun i => Config.sha384 (chunkAt h f i) == f (512 + 48 * i) 48)

/-- The GCM vector of a chunk (R486). -/
def chunkIv (h : List Byte) (i : Nat) : List Byte := slice h 144 8 ++ natBE 4 (beNat (slice h 152 4) ^^^ i)

/-- The plain text of a chunk, none where its tag is wrong. -/
def plainChunk (h : List Byte) (f : Nat → Nat → List Byte) (i : Nat) : Option (List Byte) :=
  if hdrFlag h 1 then Config.gcmOpen Config.otpImageKey (chunkIv h i) [] (chunkAt h f i) else some (chunkAt h f i)

/-- The body. -/
def bodyOf (h : List Byte) (f : Nat → Nat → List Byte) : Option (List Byte) :=
  (List.range (hdrChunks h)).foldr (fun i (t : Option (List Byte)) =>
    match plainChunk h f i, t with
    | some a, some b => some (a ++ b)
    | _, _ => none) (some [])

/-- An entry of the component directory (R487). -/
structure Component where
  type : Nat
  gen : Nat
  aux : Nat
  offset : Nat
  length : Nat
  digest : List Byte
  deriving DecidableEq, Repr

def componentAt (body : List Byte) (k : Nat) : Component :=
  let o := 64 * k
  { type := hdrNat body o 2
    gen := hdrNat body (o + 2) 2
    aux := hdrNat body (o + 4) 4
    offset := hdrNat body (o + 8) 4
    length := hdrNat body (o + 12) 4
    digest := slice body (o + 16) 48 }

def componentsOf (body : List Byte) : List Component := ((List.range 16).map (componentAt body)).filter (·.type != 0)
def componentBytes (body : List Byte) (c : Component) : List Byte := slice body c.offset c.length

/-- The rule of R487. -/
def directoryOk (body : List Byte) : Bool :=
  let l := componentsOf body
  (l.filter (·.type == 1)).length == 1 && l.all (fun c => c.type != 1 || decide (c.length ≤ 1536 * 1024))
    && l.all (fun c => (l.map (·.type)).count c.type == 1) && l.all (fun c => decide (c.offset + c.length ≤ body.length))

/-- The component of a type in a body, where its digest holds. -/
def componentOf (body : List Byte) (type : Nat) : Option (List Byte) :=
  match (componentsOf body).find? (·.type == type) with
  | none => none
  | some c => if Config.sha384 (componentBytes body c) = c.digest then some (componentBytes body c) else none

/-! SPI NOR (R482, R483). -/

/-- Reads of NOR at a base, posted writes included. -/
def Env.file (e : Env) (d : Dev) (base : Nat) : Nat → Nat → List Byte := fun o n => (e.seen d).bytes .nor (base + o) n

/-- The marks of a slot: those programmed, torn ones as code 0. -/
def Env.marksFrom (e : Env) (d : Dev) (a : Nat) : Nat → List (Nat × Nat)
  | 0 => []
  | n + 1 =>
    let m := (e.seen d).bytes .nor a 16
    if m.all (· == 0xFF) then []
    else
      let code := hdrNat m 0 4
      let seq := hdrNat m 8 4
      let good := hdrNat m 4 4 == 2 ^ 32 - 1 - code && hdrNat m 12 4 == 2 ^ 32 - 1 - seq
      (if good then (code, seq) else (0, 0)) :: e.marksFrom d (a + 16) n

def stateSector (slot : Nat) : Nat := slotBase slot + 24 * 2 ^ 20 - 65536
def Env.marks (e : Env) (d : Dev) (slot : Nat) : List (Nat × Nat) := e.marksFrom d (stateSector slot) 4096

/-- A mark is programmed after the last. -/
def Dev.mark (d : Dev) (e : Env) (slot code seq : Nat) : Dev :=
  let n := (e.marks d slot).length
  if n ≥ 4096 then d
  else d.store .nor (stateSector slot + 16 * n) (natLE 4 code ++ natLE 4 (2 ^ 32 - 1 - code) ++ natLE 4 seq ++ natLE 4 (2 ^ 32 - 1 - seq))

/-- A slot's state: 0 EMPTY, 1 READY, 2 TRIAL, 3 GOOD, 4 REVOKED. -/
def slotState (m : List (Nat × Nat)) : Nat :=
  let has (c : Nat) : Bool := m.any (fun x => x.1 == c)
  if has 5 then 4 else if !has 1 then 0 else if has 4 then 3 else if has 2 then 2 else 1

def Env.slotIs (e : Env) (d : Dev) (slot : Nat) : Nat := slotState (e.marks d slot)
def attemptsOf (m : List (Nat × Nat)) : Nat := (m.filter (fun x => x.1 == 3)).length
def confirmedSeq (m : List (Nat × Nat)) : Nat := (m.map (fun x => if x.1 = 4 then x.2 else 0)).foldl max 0

/-- SEC_UPD_STS.STATE takes a value; a change of it is an event (R506). -/
def Dev.setUpd (d : Dev) (st : Nat) : Dev :=
  if d.rd SEC_UPD_STS.STATE = st then d else (d.wr SEC_UPD_STS.STATE st).event SEC_EVT.UPD_STATE

/-- A failure or refusal is recorded. -/
def Dev.updReason (d : Dev) (r : Nat) : Dev := d.wr SEC_UPD_STS.REASON r

/-- The state at rest: TRIAL of the running image, READY of the other slot, or IDLE. -/
def Dev.restUpd (d : Dev) (e : Env) : Dev :=
  d.setUpd (if d.bit SEC_BOOT_STS.TRIAL then 5 else if e.slotIs d (1 - d.sec.slot) = 1 then 3 else 0)

/-- The header of a slot, and whether it passes R489 and every chunk its digest (R490). -/
def Env.slotHeader (e : Env) (d : Dev) (slot : Nat) : List Byte := e.file d (slotBase slot) 0 512
def Env.slotReason (e : Env) (d : Dev) (slot : Nat) : Nat :=
  let f := e.file d (slotBase slot)
  headerReason (e.slotHeader d slot) (f 512) d.sec.hwType (some d.sec.arb) fileMax none
def Env.slotGood (e : Env) (d : Dev) (slot : Nat) : Bool :=
  e.slotReason d slot == 0 && chunksOk (e.slotHeader d slot) (e.file d (slotBase slot))

/-- The body of a slot's image, and its HERD_CORE. -/
def Env.slotBody (e : Env) (d : Dev) (slot : Nat) : List Byte := (bodyOf (e.slotHeader d slot) (e.file d (slotBase slot))).getD []
def Env.herdCore (e : Env) (d : Dev) (slot : Nat) : Option (List Byte) := componentOf (e.slotBody d slot) 1

/-- The count is raised to a GOOD image's SEC_VER (R500). -/
def Dev.raiseArb (d : Dev) (v : Nat) : Dev := d.upSec (fun x => { x with arb := max x.arb (min 64 v) })

/-! Starting an image (R491, R496, R498). -/

/-- What SEC_BOOT_STS shows of the slot that is started. -/
def Dev.showSlot (d : Dev) (e : Env) (slot : Nat) : Dev :=
  let m := e.marks d slot
  ((d.wr SEC_BOOT_STS.SLOT slot).wr SEC_BOOT_STS.TRIAL (ofBool (slotState m == 2))).wr SEC_BOOT_STS.ATTEMPTS (min 3 (attemptsOf m))

/-- The Herd is stopped and held in reset. -/
def Dev.herdReset (d : Dev) : Dev :=
  let d := d.forEach [0, 1, 2, 3] Dev.coreOff
  (d.wr SEC_HERD_CTL.RESET 0xF).wr SEC_BOOT_STS.READY 0

/-- HERD_CORE is in shared SRAM, and core 0 is released at the reset vector; without the core's bytes it stays in reset. -/
def Dev.startCore (d : Dev) (e : Env) (slot : Nat) (core : Option (List Byte)) (boot : Bool) : Dev :=
  let d := d.herdReset.upSec (fun x => { x with phase := .starting, slot := slot, startAt := e.now, boot := boot })
  let d := if e.slotIs d slot = 3 then d.raiseArb (hdrSecVer (e.slotHeader d slot)) else d
  let d := d.showSlot e slot
  match core with
  | none => d
  | some bs => (((d.store .sram 0 bs).wr SEC_HERD_VEC.VEC Config.herdVector).wr SEC_HERD_CTL.RESET 0xE).coreOn 0

/-- No slot can be booted: Fawn waits for an image from an SD card (R490). -/
def Dev.recover (d : Dev) : Dev := (d.herdReset.wr SEC_BOOT_STS.RECOVERY 1).upSec (fun x => { x with phase := .recovery })

/-- The GOOD slots, the one with the higher CONFIRMED SEQ first. -/
def Env.goodSlots (e : Env) (d : Dev) : List Nat :=
  let l := [0, 1].filter (fun s => e.slotIs d s == 3)
  if l.length = 2 ∧ confirmedSeq (e.marks d 0) < confirmedSeq (e.marks d 1) then [1, 0] else l

/-- The first slot of the list that passes its checks is booted; those that fail are shown in SKIPPED. -/
def Dev.bootOf (d : Dev) (e : Env) : List Nat → Dev
  | [] => d.recover
  | s :: r =>
    if e.slotGood d s then
      let d := if e.slotIs d s = 2 then d.mark e s 3 0 else d
      (d.startCore e s (e.herdCore d s) true).restUpd e
    else (d.wr SEC_BOOT_STS.SKIPPED (d.rd SEC_BOOT_STS.SKIPPED ||| 2 ^ s)).bootOf e r

/-- Fawn chooses a slot (R490): TRIAL slots with attempts left, then GOOD ones; a TRIAL slot with 3 attempts is revoked. -/
def Dev.bootSlots (d : Dev) (e : Env) : Dev :=
  let trial := [0, 1].filter (fun s => e.slotIs d s == 2)
  let left := trial.filter (fun s => attemptsOf (e.marks d s) < 3)
  let d := d.forEach (trial.filter (fun s => 3 ≤ attemptsOf (e.marks d s))) (fun d s => d.mark e s 5 0)
  d.bootOf e (left ++ e.goodSlots d)

/-- Fawn starts: its watchdog, the strap, and a boot from a slot or first from the SD card (R490, R449). -/
def Dev.fawnStart (d : Dev) (e : Env) (copy : Nat) : Dev :=
  let d := ((d.wr SEC_BOOT_STS.FAWN_COPY copy).wr (WDG_CFG.LIMIT 4) 2000000).wdgStart e.now 4
  if d.bit GLB_STRAP.SD_RECOVERY then (d.wr SEC_BOOT_STS.RECOVERY 1).upSec (fun x => { x with phase := .recoveryScan }) else d.bootSlots e

/-- A Fawn copy passes the boot ROM's checks (R488). -/
def Env.fawnGood (e : Env) (d : Dev) (copy : Nat) : Bool :=
  let f := e.file d (copy * 0x200000)
  let h := f 0 512
  headerReason h (f 512) d.sec.hwType none 0x200000 none == 0 && chunksOk h f

/-- The boot ROM (R488). -/
def Dev.bootRom (d : Dev) (e : Env) : Dev :=
  let v (c : Nat) : Nat := hdrVersion (e.file d (c * 0x200000) 0 512)
  let stop := d.wr SEC_BOOT_STS.ROM_ERR 1
  if d.sec.hwType ≠ 0x4B480256 then stop
  else match e.fawnGood d 0, e.fawnGood d 1 with
    | false, false => stop
    | true, false => d.fawnStart e 0
    | false, true => d.fawnStart e 1
    | true, true => d.fawnStart e (if v 0 < v 1 then 1 else 0)

/-! The mailboxes (R506, R508). -/

def mbxSts : Mbx → Nat
  | .host => 0xC00084
  | .herd => 0xC00184
def mbxNum : Mbx → Nat
  | .host => 0
  | .herd => 1
def mbxBusy (m : Mbx) : Field := ⟨mbxSts m, 0, 1, false⟩
def mbxReject (m : Mbx) : Field := ⟨mbxSts m, 3, 1, false⟩

/-- The word number `k` of a mailbox's data. -/
def mbxWord : Mbx → Nat → Nat
  | .host, k => if k < 32 then 0xC00100 + 4 * k else 0xC00280 + 4 * (k - 32)
  | .herd, k => 0xC00200 + 4 * k
def Dev.secData (d : Dev) (m : Mbx) (o n : Nat) : List Byte :=
  slice ((List.range (match m with | .host => 48 | .herd => 32)).flatMap (fun k => natLE 4 (d.word (mbxWord m k)).toNat)) o n

/-- Response bytes from byte 0, a multiple of four of them. -/
def Dev.setSecData (d : Dev) (m : Mbx) (bs : List Byte) : Dev :=
  d.forEach (List.range (bs.length / 4)) (fun d k => d.setWord (mbxWord m k) (BitVec.ofNat 32 (hdrNat bs (4 * k) 4)))

/-- A command completes: 0 OK, 1 BAD_OP, 2 BAD_STATE, 3 REFUSED with its detail. -/
def Dev.secDone (d : Dev) (m : Mbx) (seq result detail : Nat) : Dev :=
  (d.setWord (mbxSts m) (BitVec.ofNat 32 (seq % 65536 * 2 ^ 16 + detail % 256 * 2 ^ 8 + result % 16 * 16 + ofBool (d.bit (mbxReject m)) * 8))).event
    (match m with | .host => SEC_EVT.HMBX_DONE | .herd => SEC_EVT.FMBX_DONE)

/-- The command in hand of every mailbox whose operation is in the list completes. -/
def Dev.secEnd (d : Dev) (ops : List Nat) (result detail : Nat) : Dev :=
  d.forEach [Mbx.host, Mbx.herd] (fun d m => match storeFind d.sec.cmds (mbxNum m) with
    | some (op, seq) =>
      if ops.contains op then (d.secDone m seq result detail).upSec (fun x => { x with cmds := storeDel (mbxNum m) x.cmds }) else d
    | none => d)

/-- A command is written.  Only one that Fawn can take is acted on; one not allowed from its mailbox is a bad operation. -/
def Dev.secMbx (d : Dev) (m : Mbx) (op seq : Nat) (allowed : Bool) (f : Dev → Dev) : Dev :=
  if d.bit (mbxBusy m) then d.wr (mbxReject m) 1
  else if d.sec.phase = .stopped then
    (d.wr (mbxBusy m) 1).upSec (fun x => { x with cmds := storeSet (fun _ => (0, 0)) x.cmds (mbxNum m) (op, seq) })
  else if !allowed then d.secDone m seq 1 0
  else f d

/-- A command stays in hand. -/
def Dev.secHold (d : Dev) (m : Mbx) (op seq : Nat) : Dev :=
  let v := (op, seq)
  (d.wr (mbxBusy m) 1).upSec (fun x => { x with cmds := storeSet (fun _ => (0, 0)) x.cmds (mbxNum m) v })

/-- Operations that complete when READY is 1 again: ACTIVATE, REVERT, RESTART. -/
def startOps : List Nat := [3, 5, 6]

/-! Handover (R496, R498). -/

/-- Steps 1 and 4 of a hitless start: the core goes to the staging area where the firmware named one, and the firmware is asked to hand
over. -/
def Dev.askHandover (d : Dev) (e : Env) (slot : Nat) : Dev :=
  let d := match e.herdCore d slot with
    | some bs => if d.sec.staging = 0 then d else d.store .hbm d.sec.staging bs
    | none => d
  (d.upSec (fun x => { x with phase := .handover, next := slot })).ringBell 0 4

/-- Step 5: the Herd is stopped, the core copied from the staging area, checked again, and started. -/
def Dev.takeOver (d : Dev) (e : Env) : Dev :=
  let slot := d.sec.next
  let core := e.herdCore d slot
  let core := if d.sec.staging = 0 then core
    else match core with
      | some bs =>
        let copy := (e.seen d).bytes .hbm d.sec.staging bs.length
        if Config.sha384 copy = Config.sha384 bs then some copy else none
      | none => none
  d.startCore e slot core false

/-- The GOOD image is started; none leaves the device in recovery. -/
def Dev.startGood (d : Dev) (e : Env) : Dev :=
  match (e.goodSlots d).find? (fun s => e.slotGood d s) with
  | some s => d.askHandover e s
  | none => (d.recover).secEnd startOps 3 0

/-- A start has failed (R498). -/
def Dev.startFailed (d : Dev) (e : Env) : Dev :=
  let s := d.sec.slot
  let m := e.marks d s
  if slotState m = 2 then
    if attemptsOf m < 3 then (d.mark e s 3 0).askHandover e s else (d.mark e s 5 0).startGood e
  else d.askHandover e s

/-- The manifest entry of a component: for microcode the digest covers 5 bytes of each of its words (R212), for a parse program the component
as it is stored (R326). -/
def manEntry (body : List Byte) (c : Component) : ManEntry :=
  { gen := c.gen, len := c.aux
    digest := if c.type = 3 then wordsDigest ((imageWords (componentBytes body c)).take c.aux) else c.digest }

/-- A manifest of at most `n` entries (R212, R326): the oldest leave where it would have more. -/
def newest (n : Nat) (l : List ManEntry) : List ManEntry := l.drop (l.length - n)

/-- The manifests keep the entries of the images in both slots, and gain those of a new one (R496, R212, R326). -/
def Dev.manifestFor (d : Dev) (e : Env) (slot : Nat) : Dev :=
  let of_ (s type : Nat) : List ManEntry :=
    let body := e.slotBody d s
    ((componentsOf body).filter (·.type == type)).map (manEntry body)
  let next (l : List ManEntry) (type : Nat) : List ManEntry :=
    let kept := l.filter (fun m => (of_ 0 type ++ of_ 1 type).contains m)
    kept ++ (of_ slot type).filter (fun m => !kept.contains m)
  { d with pxeMan := newest 4 (next d.pxeMan 3), pseMan := newest 2 (next d.pseMan 5) }

/-- ACTIVATE, or AUTO_ACTIVATE, of the slot that does not run: the result and its detail, 0 where the handover has begun. -/
def Dev.activation (d : Dev) (e : Env) : Nat × Nat × Dev :=
  let s := 1 - d.sec.slot
  if d.sec.phase ≠ .running ∨ e.slotIs d s ≠ 1 ∨ d.sec.dl.isSome ∨ d.sec.staging = 0 then (2, 0, d)
  else if !e.slotGood d s then (3, (if e.slotReason d s = 0 then 10 else e.slotReason d s), d)
  else match e.herdCore d s with
    | none => (3, 12, d)
    | some _ =>
      let d := ((d.manifestFor e s).mark e s 2 0).mark e s 3 0
      (0, 0, (d.askHandover e s).setUpd 4)

def execActivate (m : Mbx) (seq : Fin 65536) (s : State) : Host.Outcome State Fault Refusal :=
  s.run fun e d => d.secMbx m 3 seq true fun d =>
    let r := d.activation e
    if r.1 = 0 then r.2.2.secHold m 3 seq else r.2.2.secDone m seq r.1 r.2.1

/-- 50 ms pass without HANDOVER_READY. -/
def execHandoverTimeout (s : State) : Host.Outcome State Fault Refusal :=
  s.run fun e d => if d.sec.phase = .handover then d.takeOver e else d

/-- OP 7 with byte 0 at 1. -/
def execHandoverReady (m : Mbx) (seq : Fin 65536) (s : State) : Host.Outcome State Fault Refusal :=
  s.run fun e d => d.secMbx m 7 seq (m == .herd) fun d =>
    if d.sec.phase = .handover then (d.secDone m seq 0 0).takeOver e else d.secDone m seq 2 0

/-- After a boot the firmware gives channel n the packetiser feed n mod 3; a setting names another by writing the field (R371, log entry 221). -/
def Dev.assignFeeds (d : Dev) : Dev := d.forEach (List.range 256) (fun d c => d.wr (CHN_PKT_CFG.FEED.on c) (c % 3))

/-- READY of a started or running firmware, with its staging area (R496, R509). -/
def Dev.takeReady (d : Dev) (e : Env) (m : Mbx) (seq area : Nat) : Dev :=
  let first := decide (d.sec.phase = .starting)
  let boot := first && d.sec.boot
  let d := (d.upSec (fun x => { x with phase := .running, boot := false, staging := area })).wr SEC_BOOT_STS.READY 1
  let d := (d.secDone m seq 0 0).secEnd startOps 0 0
  let d := if first then d.restUpd e else d
  let d := if first then
      let c := (componentsOf (e.slotBody d d.sec.slot)).find? (·.type == 1)
      (d.upSec (fun x => { x with gen := (c.map (·.gen)).getD 0, aux := (c.map (·.aux)).getD 0 })).startSettings e
    else d
  if boot then (d.applyPlan e).assignFeeds else d

/-- OP 7 with byte 0 at 0: the firmware is ready, and commands that waited for it complete; after a boot it applies the margin plan. -/
def execReady (m : Mbx) (seq : Fin 65536) (s : State) : Host.Outcome State Fault Refusal :=
  s.run fun e d => d.secMbx m 7 seq (m == .herd) fun d =>
    let area := leNat (d.secData m 8 8)
    if d.sec.phase = .starting ∨ d.sec.phase = .running then
      d.takeReady e m seq area
    else d.secDone m seq 2 0

/-- No READY within 1 s of the release. -/
def execFwStartTimeout (s : State) : Host.Outcome State Fault Refusal :=
  s.run fun e d => if d.sec.phase = .starting then d.startFailed e else d

def execRestart (m : Mbx) (seq : Fin 65536) (s : State) : Host.Outcome State Fault Refusal :=
  s.run fun e d => d.secMbx m 6 seq (m == .host) fun d =>
    if d.sec.phase = .running then (d.secHold m 6 seq).startFailed e else d.secDone m seq 2 0

/-- REVERT (R501). -/
def execRevert (m : Mbx) (seq : Fin 65536) (s : State) : Host.Outcome State Fault Refusal :=
  s.run fun e d => d.secMbx m 5 seq true fun d =>
    if d.sec.phase ≠ .running then d.secDone m seq 2 0
    else if e.slotIs d d.sec.slot ≠ 2 then (d.updReason 17).secDone m seq 3 17
    else ((d.secHold m 5 seq).mark e d.sec.slot 5 0).startGood e

/-- The trial slot becomes GOOD, the anti-rollback count rises, Fawn is updated (R500). -/
def Dev.confirm (d : Dev) (e : Env) (m : Mbx) (seq slot : Nat) : Dev :=
  let n := max (confirmedSeq (e.marks d 0)) (confirmedSeq (e.marks d 1)) + 1
  let h := e.slotHeader d slot
  let d := ((d.mark e slot 4 n).raiseArb (hdrSecVer h)).wr SEC_BOOT_STS.TRIAL 0
  let d := match componentOf (e.slotBody d slot) 6 with
    | some bs => d.forEach [1 - d.rd SEC_BOOT_STS.FAWN_COPY, d.rd SEC_BOOT_STS.FAWN_COPY] (fun d c =>
      (d.clear .nor (c * 0x200000) 0x200000).store .nor (c * 0x200000) (bs.take 0x200000))
    | none => d
  (d.restUpd e).secDone m seq 0 0

/-- CONFIRM, with the health period in minutes that the settings store holds (R500). -/
def execConfirm (m : Mbx) (seq : Fin 65536) (period : Nat) (s : State) : Host.Outcome State Fault Refusal :=
  s.run fun e d => d.secMbx m 4 seq (m == .herd) fun d =>
    let slot := d.sec.slot
    if d.sec.phase ≠ .running then d.secDone m seq 2 0
    else if e.slotIs d slot ≠ 2 then d.secDone m seq 3 17
    else if d.safe || decide ((e.now : Int) < d.sec.startAt + clampNat 1 1440 period * 60000000000) then d.secDone m seq 3 0
    else
      d.confirm e m seq slot

/-! Taking in an update (R492 to R495, R510). -/

/-- STATUS: bytes 0 to 63 of the response, whose layout the spec does not give. -/
def execStatus (m : Mbx) (seq : Fin 65536) (s : State) : Host.Outcome State Fault Refusal :=
  s.run fun _ d => d.secMbx m 1 seq true fun d =>
    let r := d.freeVal 512
    (r.2.setSecData m (natLE 64 r.1)).secDone m seq 0 0

/-- SCAN: the card is to be read. -/
def execScan (m : Mbx) (seq : Fin 65536) (s : State) : Host.Outcome State Fault Refusal :=
  s.run fun _ d => d.secMbx m 2 seq true fun d =>
    if d.sec.dl.isSome || d.rd SEC_UPD_STS.STATE == 1 then d.wr (mbxReject m) 1
    else if d.bit SEC_BOOT_STS.TRIAL then (d.updReason 16).secDone m seq 3 16
    else (d.secHold m 2 seq).setUpd 1

/-- The better of two files that pass: the higher SEC_VER, then VERSION, then the first in directory order (R494). -/
def betterFile (a b : SdFile) : SdFile :=
  let k (x : SdFile) : Nat := (hdrSecVer x.header * 2 ^ 64 + hdrVersion x.header) * 32 + (31 - x.pos.val)
  if k a < k b then b else a

def fileReason (d : Dev) (x : SdFile) : Nat :=
  headerReason x.header (fun n => x.table.take n) d.sec.hwType (some d.sec.arb) fileMax (some x.size)

/-- The slot a download goes to: the one that does not run; in a recovery boot one that is not GOOD, or B (R490, R495). -/
def Env.downloadSlot (e : Env) (d : Dev) : Nat :=
  if d.sec.phase = .recovery ∨ d.sec.phase = .recoveryScan then (if e.slotIs d 0 ≠ 3 ∧ e.slotIs d 1 = 3 then 0 else if e.slotIs d 1 ≠ 3 ∧ e.slotIs d 0 = 3 then 1
    else if e.slotIs d 0 ≠ 3 then 0 else 1)
  else 1 - d.sec.slot

/-- A scan ends without a download; a recovery boot goes on with the slots. -/
def Dev.scanEnds (d : Dev) (e : Env) (reason : Nat) : Dev :=
  let d := (d.updReason reason).secEnd [2] 3 reason
  if d.sec.phase = .recoveryScan then d.bootSlots e else d

/-- The download of the chosen file begins in an erased slot (R494, R495). -/
def Dev.startDownload (d : Dev) (e : Env) (x : SdFile) : Dev :=
  let slot := e.downloadSlot d
  let d := (d.clear .nor (slotBase slot) (24 * 2 ^ 20)).setUpd 2
  let d := ((d.wr SEC_UPD_STS.FILE x.pos).wr SEC_UPD_PROG.NCHUNK (hdrChunks x.header)).wr SEC_UPD_PROG.WRITTEN 0
  d.upSec (fun y => { y with dl := some { slot := slot, header := x.header } })

/-- Why a scan that accepts no file takes none: its first file's reason. -/
def firstReason (d : Dev) : List SdFile → Nat
  | x :: _ => fileReason d x
  | [] => 0

/-- The card's files read in order of name: the best of those that pass the checks is downloaded, unless it is the image that runs
(R494, R495). -/
def Dev.scanFiles (d : Dev) (e : Env) (files : List SdFile) : Dev :=
  match files.filter (fun x => fileReason d x == 0) with
  | [] => (d.setUpd 6).scanEnds e (firstReason d files)
  | x :: r =>
    let x := r.foldl betterFile x
    if (d.sec.phase = .running ∨ d.sec.phase = .handover ∨ d.sec.phase = .starting)
        ∧ slice x.header 96 48 = slice (e.slotHeader d d.sec.slot) 96 48 then (d.restUpd e).scanEnds e 15
    else d.startDownload e x

/-- Fawn reads the card: on insertion, for SCAN, or at a recovery boot (R494). -/
def execSdScan (files : List SdFile) (s : State) : Host.Outcome State Fault Refusal :=
  s.run fun e d =>
    if d.sec.phase = .stopped ∨ d.sec.dl.isSome then d
    else if d.bit SEC_BOOT_STS.TRIAL then (d.updReason 16).secEnd [2] 3 16
    else d.scanFiles e (files.take 32)

/-- A download fails: the slot stays EMPTY (R495). -/
def Dev.downloadFails (d : Dev) (e : Env) (reason : Nat) (written : List Byte) : Dev :=
  match d.sec.dl with
  | none => d
  | some l =>
    let d := (d.store .nor (slotBase l.slot) (written.take fileMax)).upSec (fun x => { x with dl := none })
    let n := (written.length - hdrStart l.header) / (65536 + hdrTag l.header)
    let d := d.wr SEC_UPD_PROG.WRITTEN (min (hdrChunks l.header) n)
    (d.setUpd 6).scanEnds e reason

/-- `reason` is 10 to 14, and `written` what stands in the slot by then. -/
def execDownloadFailed (reason : Fin 16) (written : List Byte) (s : State) : Host.Outcome State Fault Refusal :=
  s.run fun e d => if 10 ≤ reason.val ∧ reason.val ≤ 14 then d.downloadFails e reason written else d

def execSdCardRemove (written : List Byte) (s : State) : Host.Outcome State Fault Refusal := s.run fun e d => d.downloadFails e 14 written

/-- The file is the one chosen, and passes every check of R495. -/
def fileGood (l : Download) (file : List Byte) : Bool :=
  let f (o n : Nat) : List Byte := slice file o n
  file.take 512 == l.header && file.length == hdrFile l.header && Config.sha384 (f 512 (48 * hdrChunks l.header)) == slice l.header 48 48
    && chunksOk l.header f && (match bodyOf l.header f with
      | some b => Config.sha384 b == slice l.header 96 48 && directoryOk b
      | none => false)

/-- The download is complete: VALID is programmed, the slot is READY, and a recovery boots it or AUTO_ACTIVATE activates it (R495, R496). -/
def Dev.downloaded (d : Dev) (e : Env) (l : Download) (file : List Byte) : Dev :=
  let d := (d.store .nor (slotBase l.slot) file).mark e l.slot 1 0
  let d := (d.wr SEC_UPD_PROG.WRITTEN (hdrChunks l.header)).upSec (fun x => { x with dl := none })
  let d := (d.setUpd 3).secEnd [2] 0 0
  if d.sec.phase = .recovery ∨ d.sec.phase = .recoveryScan then (d.mark e l.slot 2 0).bootSlots e
  else if hdrFlag l.header 2 then (d.activation e).2.2 else d

/-- All chunks are written and verified: VALID.  The slot is READY, is activated where AUTO_ACTIVATE is set, and becomes TRIAL and boots
in a device in recovery (R490, R495, R496). -/
def execDownloadDone (file : List Byte) (s : State) : Host.Outcome State Fault Refusal :=
  s.run fun e d =>
    match d.sec.dl with
    | none => d
    | some l =>
      if !fileGood l file then d
      else
        d.downloaded e l file

/-! Components and flash (R491, R509). -/

/-- A manifest gains the entry of a component that was loaded. -/
def addManifest (n : Nat) (l : List ManEntry) (m : ManEntry) : List ManEntry := newest n (l.filter (fun k => k.gen != m.gen) ++ [m])

/-- LOAD_COMPONENTS: entries in order, up to the first that fails. -/
def Dev.loadFrom (d : Dev) (m : Mbx) (body : List Byte) : List Nat → Nat × Nat × Dev
  | [] => (0, 0, d)
  | k :: r =>
    let a := leNat (d.secData m (8 * k) 8)
    let c := componentAt body k
    let bs := componentBytes body c
    if a = 0 then d.loadFrom m body r
    else if c.type = 0 ∨ Config.sha384 bs ≠ c.digest then (3, k, d)
    else
      let d := d.store .hbm a bs
      let d := if c.type = 3 then { d with pxeMan := addManifest 4 d.pxeMan (manEntry body c) }
        else if c.type = 5 then { d with pseMan := addManifest 2 d.pseMan (manEntry body c) } else d
      d.loadFrom m body r

def execLoadComponents (m : Mbx) (seq : Fin 65536) (s : State) : Host.Outcome State Fault Refusal :=
  s.run fun e d => d.secMbx m 8 seq (m == .herd) fun d =>
    let r := d.loadFrom m (e.slotBody d d.sec.slot) (List.range 16)
    r.2.2.secDone m seq r.1 r.2.1

/-- A range lies in the settings store, or in a slot. -/
def inSettings (a n : Nat) : Bool := 0x03400000 ≤ a && a + n ≤ 0x03C00000
def inSlot (slot a n : Nat) : Bool := slotBase slot ≤ a && a + n ≤ slotBase slot + 24 * 2 ^ 20

def execNorCopy (m : Mbx) (seq : Fin 65536) (s : State) : Host.Outcome State Fault Refusal :=
  s.run fun e d => d.secMbx m 9 seq (m == .herd) fun d =>
    let a := leNat (d.secData m 0 4)
    let n := leNat (d.secData m 4 4)
    if inSettings a n || inSlot d.sec.slot a n then (d.store .hbm (leNat (d.secData m 8 8)) ((e.seen d).bytes .nor a n)).secDone m seq 0 0
    else d.secDone m seq 3 0

/-- What a program or erase that failed leaves in the range is open; STORE_ERR is raised (R471). -/
def Dev.flashFails (d : Dev) (m : Mbx) (seq a n : Nat) : Dev :=
  let r := d.freeVal (8 * n)
  ((r.2.store .nor a (natLE n r.1)).flag BGS_FLT.STORE_ERR).secDone m seq 3 13

/-- NOR_PROG: programming clears bits. -/
def execNorProg (m : Mbx) (seq : Fin 65536) (fails : Bool) (s : State) : Host.Outcome State Fault Refusal :=
  s.run fun e d => d.secMbx m 10 seq (m == .herd) fun d =>
    let a := leNat (d.secData m 0 4)
    let n := leNat (d.secData m 4 4)
    if !inSettings a n || n > 65536 then d.secDone m seq 3 0
    else if fails then d.flashFails m seq a n
    else
      let new := (e.seen d).bytes .hbm (leNat (d.secData m 8 8)) n
      (d.program e a new).secDone m seq 0 0

/-- NOR_ERASE of the sector of an address. -/
def execNorErase (m : Mbx) (seq : Fin 65536) (fails : Bool) (s : State) : Host.Outcome State Fault Refusal :=
  s.run fun _ d => d.secMbx m 11 seq (m == .herd) fun d =>
    let a := leNat (d.secData m 0 4) / 65536 * 65536
    if !inSettings a 65536 then d.secDone m seq 3 0
    else if fails then d.flashFails m seq a 65536
    else (d.clear .nor a 65536).secDone m seq 0 0

/-! Debug access (R505). -/

def execDbgPassword (m : Mbx) (seq : Fin 65536) (s : State) : Host.Outcome State Fault Refusal :=
  s.run fun _ d => d.secMbx m 12 seq (m == .host) fun d =>
    let n := leNat (d.secData m 0 1)
    if d.rd SEC_LC.PW_FAILS ≥ 5 then d.secDone m seq 3 0
    else if 8 ≤ n ∧ n ≤ 64 ∧ Config.sha384 (unitId ++ d.secData m 1 n) = Config.otpPassword then
      (d.wr SEC_LC.DBG (max 1 (d.rd SEC_LC.DBG))).secDone m seq 0 0
    else (d.wr SEC_LC.PW_FAILS (min 5 (d.rd SEC_LC.PW_FAILS + 1))).secDone m seq 3 0

/-- A nonce drawn from the random source. -/
def execDbgChallenge (m : Mbx) (seq : Fin 65536) (s : State) : Host.Outcome State Fault Refusal :=
  s.run fun _ d => d.secMbx m 13 seq (m == .host) fun d =>
    let r := d.freeVal 256
    ((r.2.upSec (fun x => { x with nonce := some (natLE 32 r.1) })).setSecData m (natLE 32 r.1)).secDone m seq 0 0

def execDbgResponse (m : Mbx) (seq : Fin 65536) (s : State) : Host.Outcome State Fault Refusal :=
  s.run fun _ d => d.secMbx m 14 seq (m == .host) fun d =>
    match d.sec.nonce with
    | none => d.secDone m seq 3 0
    | some v =>
      let d := d.upSec (fun x => { x with nonce := none })
      let key := d.secData m 96 49
      if Config.sha384 key = Config.otpDebugKey ∧ Config.ecdsaOk key (d.secData m 0 96) (v ++ unitId ++ [0x02]) then
        (d.wr SEC_LC.DBG 2).secDone m seq 0 0
      else d.secDone m seq 3 0

def execDbgLock (m : Mbx) (seq : Fin 65536) (s : State) : Host.Outcome State Fault Refusal :=
  s.run fun _ d => d.secMbx m 15 seq true fun d => (d.wr SEC_LC.DBG 0).secDone m seq 0 0

def execNonceExpire (s : State) : Host.Outcome State Fault Refusal := s.run fun _ d => d.upSec (fun x => { x with nonce := none })

end Sys2Proof.Machine
end

