-- ==== Sys2Proof/Machine/Resets.lean ====
section
/-!
DEFINITION. Power-on and device resets, and what runs at their release (R520 to R523).
-/

namespace Sys2Proof.Machine

/-- Bits of CLK_RST_CAUSE: the one that a reset sets (R527). -/
def rstCause : Field := ⟨0xAD8084, 0, 3, false⟩

/-- Pins that a reset releases: FAULT_N, PPS_OUT (R520). -/
def Dev.releasePins (old d : Dev) : Dev :=
  let d := if old.safe then d.send (.faultN false) else d
  if old.net.ppsEnd.isSome then d.send (.ppsOut false) else d

/-- What the model carries through a reset of a device: the free values used and what has left it, the level of PERST_N, and OTP. -/
def Dev.afterReset (old : Dev) (rst : Nat) : Dev :=
  let d := Dev.reset old.sec.hwType old.sec.arb
  let d := { d with free := old.free, out := old.out, sec := { d.sec with rst := rst } }
  let d := { d with dma := { d.dma with link := { d.dma.link with perst := old.dma.link.perst } } }
  old.releasePins d

/-- PORST_N falls: everything is reset, and stays so until it rises. -/
def execPorstAssert (s : State) : Host.Outcome State Fault Refusal :=
  .next { s with time := 0, mem := { s.mem with hbm := [], sram := [] }, dev := (s.dev.afterReset 1).wr rstCause 1 }

/-- The synthesisers lock and the domains run at their reset points (R523). -/
def Dev.startClocks (d : Dev) : Dev :=
  d.forEach (List.range 221) (fun d k =>
    let d := if hasSynth k && !((k == 212 || k == 213) && d.dma.link.perst) then d.wr (CLK_STS.LOCK.on k) 1 else d
    if clkNoVset k then d else d.wr (CLK_STS.VSET.on k) 32)

/-- PORST_N rises: the straps are sampled from GPIO_0 to GPIO_3 and the boot ROM runs (R41, R523).  The state right after reset is one
in which PORST_N has still to rise. -/
def execPorstRelease (gpio : Fin 16) (s : State) : Host.Outcome State Fault Refusal :=
  if s.dev.sec.rst = 1 ∨ (s.dev.sec.rst = 0 ∧ s.dev.sec.phase = .stopped ∧ s.dev.bit SEC_BOOT_STS.ROM_ERR = false) then
    .next (s.act fun e d => ((d.upSec (fun x => { x with rst := 0 })).wr ⟨0x58, 0, 4, false⟩ gpio).startClocks.bootRom e)
  else .next s

/-- The device in a device reset: all but the reset controller, the PCIe link and configuration space, the straps and the memories is
reset (R520, R527); `cause` is the bit of CLK_RST_CAUSE. -/
def Dev.deviceReset (old : Dev) (cause : Nat) : Dev :=
  let d := (old.afterReset 2).wr rstCause cause
  let d := { d with
    dma := { d.dma with link := old.dma.link }
    pci := { d.pci with funcMask := old.pci.funcMask }
    poison := old.poison }
  (d.setWord 0x58 (old.word 0x58)).setWord 0x710040 (old.word 0x710040)

/-- CLK_RST_CMD.DEVICE with its key, from the host or the security core (R520, R527). -/
def execDeviceReset (rq : Requester) (key : Fin 65536) (s : State) : Host.Outcome State Fault Refusal :=
  let cause := match rq with | .host => 2 | .sec => 4 | .herd _ => 0
  if s.dev.sec.rst ≠ 0 ∨ key.val ≠ 0xD0E5 ∨ cause = 0 then .next s
  else .next { s with time := 0, dev := s.dev.deviceReset cause }

/-- The 2 ms of a device reset end: the security core is released and the boot ROM runs. -/
def execDeviceResetRelease (s : State) : Host.Outcome State Fault Refusal :=
  if s.dev.sec.rst = 2 then .next (s.act fun e d => (d.upSec (fun x => { x with rst := 0 })).startClocks.bootRom e) else .next s

/-- A JTAG EXTEST, open in every lifecycle state: the balls carry the boundary scan, and with their lanes driven so the Ethernet
ports and the PCIe link are down (R504). -/
def execExtest (balls : List Bool) (s : State) : Host.Outcome State Fault Refusal :=
  .next (s.act fun _ d => ((d.send (.balls balls)).forEach (List.range 8) Dev.portDown).pcieDown)

end Sys2Proof.Machine
end

