-- ==== Sys2Proof/Machine/Operands.lean ====
section
/-!
DEFINITION. Register accesses through WIN0: which key a register lives under, what software reads, what a page's PAGE_STS shows,
and what a write does to the fields of a register (R20 to R34).
-/

namespace Sys2Proof.Machine

/-! Busy and idle (R25). -/

/-- PAGE_STS.BUSY beside a soft reset in progress: what each block calls work in flight. -/
def Dev.pageWorks (d : Dev) (pg : Pg) (i : Nat) : Bool :=
  match pg with
  | .CHN => d.chActive i
  | .ENE => d.eneBusy i
  | .PXE => d.pxeBusy i
  | .HMC => !(d.hb i).queue.isEmpty
  | .ARB => (d.hb i).granted.any (fun g => !g.1.units.isEmpty)
  | .PSE => (d.pse i).op != 0
  | .CLS0 => d.net.cls.op != 0 && d.open_ (pageCLS 0)
  | .BPM => d.bpmBusy
  | .DMA => (List.range 32).any (fun k => [RingId.h2d, RingId.d2h].any (fun r =>
      (d.ring (32 * i + k) r).active.isSome || (d.ring (32 * i + k) r).fetching.isSome))
  | .HCCC => d.bit HCC_MBX_STS.BUSY
  | .HCC => d.rd (HCC_STS.STATE.on i) < 2
  | .BGS => (d.bit BGS_CAL_STS.BUSY && d.open_ pageBGS) || d.bit BGS_PMB_STS.BUSY
  | .ANT => d.measuring i
  | .CLK => d.changing i
  | _ => false

/-- PAGE_STS.BUSY. -/
def Dev.pageBusy (d : Dev) (pg : Pg) (i page : Nat) : Bool := d.pageWorks pg i || d.bit (PAGE_CTL.SRST.page page)

/-- PAGE_STS.IDLE (R25, R39, R217, R418, R433, R450). -/
def Dev.pageIdle (d : Dev) (pg : Pg) (i page : Nat) : Bool :=
  match pg with
  | .CHN => !d.chActive i
  | .PXE => d.pxeIdle i
  | .ENE => d.eneIdle i
  | .GLB | .FLT0 | .FLT1 => d.glbIdle
  | .HCCC => !d.bit HCC_MBX_STS.BUSY
  | .HCC => d.rd (HCC_STS.STATE.on i) ≥ 2
  | .INT0 | .INT1 | .INT2 | .INT3 | .PCI | .WDG | .SEC => false
  | _ => d.idleUnless page (d.pageWorks pg i) false

/-- PAGE_STS.QUAR: only pixel and entropy engines can be quarantined. -/
def Dev.pageQuar (d : Dev) (pg : Pg) (i : Nat) : Bool :=
  match pg with
  | .PXE => d.pxeService i == 2
  | .ENE => d.eneService i == 2
  | _ => false

/-- PAGE_STS as read. -/
def Dev.pageSts (d : Dev) (pg : Pg) (i page : Nat) : Nat :=
  d.rd (PAGE_STS.WIGN_OFF.page page) * 2 ^ 16 + ofBool (d.wPending page) * 16 + ofBool (d.bit (PAGE_STS.WIGN.page page)) * 8
    + ofBool (d.pageQuar pg i) * 4 + ofBool (d.pageIdle pg i page) * 2 + ofBool (d.pageBusy pg i page)

/-! Where a register lives. -/

/-- The key of the register at a WIN0 address, where a select register chooses among copies; none where the number selected has no
register behind it (R310). -/
def Dev.keyOf (d : Dev) (a i : Nat) (b : Bank) : Option Nat :=
  let at_ (k : Nat) : Option Nat := some (a + win0Size * (k + 1))
  match b with
  | .none => some a
  | .arbreqsel => let r := d.rd (ARB_REQ_SEL.REQ.on i); if isRequester r then at_ r else none
  | .arbslotsel => at_ (64 * d.rd (ARB_SLOT_SEL.BANK.on i) + d.rd (ARB_SLOT_SEL.SLOT.on i))
  | .bgscalsel => at_ (d.rd BGS_CAL_SEL.TRIM)
  | .bpmmapsel => at_ (d.rd BPM_MAP_SEL.CHN)
  | .bpmpoolsel => at_ (d.rd BPM_POOL_SEL.POOL)
  | .egsingsel => at_ (d.rd EGS_ING_SEL.FLOW)
  | .egsqsel => some (homeKey a + win0Size * (d.rd (EGS_Q_SEL.QUEUE.on i) + 1))
  | .egssrcsel => at_ (d.rd (EGS_SRC_SEL.SRC.on i))
  | .fltsrcsel => at_ (d.rd FLT_SRC_SEL.SRC)
  | .grp => at_ (grpBank (d.rd BPM_POOL_SEL.POOL) (d.rd BPM_GRP_SEL.GROUP))
  | .intsrcsel => at_ (d.rd INT_SRC_SEL.SRC)
  | .rctctxsel => at_ (d.rd RCT_CTX_SEL.CTX)
  | .swcoutsel => at_ (d.rd SWC_OUT_SEL.OUT)
  | .swcportsel => at_ (d.rd SWC_PORT_SEL.PORT)
  | .wdpchnsel => at_ (d.rd WDP_CHN_SEL.CHN)

/-- The low words of the 64-bit registers (R34): offset, number of registers, stride. -/
def wideTable : Pg → List (Nat × Nat × Nat)
  | .GLB => [(0x060, 1, 0), (0x070, 1, 0)]
  | .CHN => [(0x158, 1, 0), (0x170, 1, 0), (0x188, 1, 0), (0x200, 1, 0), (0x208, 1, 0)]
  | .ENE => [(0x070, 1, 0), (0x078, 1, 0)]
  | .PXE => [(0x058, 1, 0), (0x090, 1, 0)]
  | .WDP => [(0x070, 1, 0), (0x078, 1, 0)]
  | .HMC => [(0x088, 1, 0), (0x090, 1, 0), (0x0A8, 1, 0), (0x0B0, 1, 0)]
  | .ARB => [(0x068, 1, 0)]
  | .ETH => [(0x060, 1, 0), (0x070, 1, 0), (0x080, 1, 0), (0x088, 1, 0), (0x090, 1, 0), (0x098, 1, 0)]
  | .PSE => [(0x048, 1, 0), (0x060, 1, 0)]
  | .CLS2 => [(0x040, 1, 0), (0x048, 1, 0)]
  | .SWC => [(0x068, 1, 0), (0x080, 1, 0)]
  | .BPM => [(0x048, 1, 0), (0x088, 1, 0), (0x090, 1, 0), (0x098, 1, 0)]
  | .EGS => [(0x044, 1, 0), (0x070, 1, 0), (0x090, 1, 0)]
  | .DMA => [(0x048, 1, 0), (0x050, 1, 0), (0x110, 32, 64), (0x120, 32, 64)]
  | .HCC => [(0x058, 1, 0), (0x060, 1, 0)]
  | .FLT0 => [(0x060, 3, 32), (0x070, 3, 32)]
  | .BGS => [(0x060, 1, 0), (0x074, 1, 0)]
  | .ANT => [(0x05C, 1, 0)]
  | .SEC => [(0x064, 1, 0)]
  | _ => []

/-- Is the offset that of the low word of a 64-bit register? -/
def isLowWord (pg : Pg) (off : Nat) : Bool :=
  (wideTable pg).any (fun e => e.1 ≤ off && (if e.2.1 = 1 then off == e.1 else (off - e.1) % e.2.2 == 0 && (off - e.1) / e.2.2 < e.2.1))

/-! What software reads. -/

/-- A field replaced in a word. -/
def putField (w : Word) (f : Field) (v : Nat) : Word := bitsPut w f.lsb f.width v

/-- The registers whose value the device computes, over the word that is kept for them; `b` is the number selected. -/
def Dev.view (d : Dev) (now : Nat) (pg : Pg) (i off b : Nat) (w : Word) : Word :=
  let word (v : Nat) : Word := BitVec.ofNat 32 v
  match pg with
  | .GLB =>
    if 0x048 ≤ off ∧ off < 0x058 then word (Config.otpUnitId / 2 ^ (32 * ((off - 0x048) / 4)))
    else if off = 0x060 then word now
    else if off = 0x064 then word (now / 2 ^ 32)
    else w
  | .ENE =>
    let uc := storeGet (fun _ => 0) (d.en i).ucode (d.rd (ENE_UC_ADDR.ADDR.on i))
    if off = 0x044 then putField w ENE_STS.SUSP (d.en i).suspended.length
    else if off = 0x048 then putField (putField w ENE_LOAD.NBOUND (d.boundOf i).length) ENE_LOAD.LOAD (min 65535 (d.eneLoad i))
    else if off = 0x054 then word uc
    else if off = 0x058 then word (uc / 2 ^ 32 % 65536)
    else w
  | .PXE =>
    let a := d.rd (PXE_UC_RADDR.ADDR.on i)
    let v := if d.pxeIdle i then ((d.px i).bank (a / 8192)).word (a % 8192) else 0
    if off = 0x06C then word v else if off = 0x070 then word (v / 2 ^ 32 % 256) else w
  | .WDP =>
    if off = 0x064 then
      putField (putField w WDP_CHN_JOBS.INFLIGHT (d.inFlight b)) WDP_CHN_JOBS.READY
        (min 65535 (d.jobs.filter (fun j => j.chn == b && d.jobAllowed j 0 && d.genHeld j.gen)).length)
    else if off = 0x068 then
      putField (putField (putField w WDP_ENG_STS.BUSY_SCHED d.busySched) WDP_ENG_STS.BUSY_LIVE d.busyLive) WDP_ENG_STS.WORKING
        d.working.length
    else w
  | .HMC => if off = 0x044 then putField w HMC_STS.QEMPTY (ofBool (d.hb i).queue.isEmpty) else w
  | .ARB =>
    if off = 0x04C then
      putField (putField (putField w ARB_REQ_STS.WAITING (ofBool ((d.hb i).waiting.any (fun r => r.req == b)))) ARB_REQ_STS.MASKED
        (ofBool (d.quotaMasked i b))) ARB_REQ_STS.GRANTED (ofBool (d.holds i b))
    else w
  | .SWC =>
    if off = 0x064 then
      let used := (d.swOut b).cells
      word (ofBool (d.enabled pageSWC && b < 8 && !d.linkUp b) * 2 ^ 31 + ofBool (4096 < used + cellsOf 9216) * 2 ^ 30 + used)
    else w
  | .PSEC =>
    if off = 0x044 then putField w PSE_SVC.MASK (bitsMask ((List.range 16).filter (fun e => d.rd (PSE_STS.SERVICE.on e) == 1))) else w
  | .BPM => if off = 0x058 then word (d.sharedFree b) else w
  | .EGS =>
    if off = 0x078 then
      let q := d.egsQ b
      let w := putField (putField w EGS_Q_STS.BOUND (ofBool q.port.isSome)) EGS_Q_STS.PORT (q.port.getD 0)
      putField (putField w EGS_Q_STS.ACTIVE (ofBool (!q.descs.isEmpty))) EGS_Q_STS.DEPTH q.descs.length
    else if off = 0x07C then word ((d.egsQ b).tokens / 2 ^ 24)
    else if off = 0x174 then
      match d.flowUser b with
      | some c => word (2 ^ 31 + c)
      | none => 0
    else w
  | .INT0 =>
    if off = 0x044 then
      if !sourceExists b then 0
      else putField w INT_ROUTE.EDGE (ofBool (576 ≤ b && b < 592 && d.rd (INT_EXT_CFG.MODE (b - 576)) != 0))
    else w
  | .FLT1 =>
    if off = 0x044 then
      let c := d.bit (FLT_SRC_CFG.COLLECT.bk b)
      match fltSource b with
      | some (k, r) => word (k * 2 ^ 30 + (if k = 0 ∧ !c then 0 else r) * 2 ^ 16 + (if k = 0 then ofBool c else 1))
      | none => word (3 * 2 ^ 30 + 1)
    else if 0x080 ≤ off ∧ off < 0x0C0 then
      word (((List.range 32).map (fun k => ofBool (d.fltLive (8 * (off - 0x080) + k)) * 2 ^ k)).sum)
    else w
  | .WDG => if 0x048 ≤ off ∧ off < 0x090 ∧ off % 16 = 8 then putField w (WDG_STS.REMAIN 0) (d.wdgRemain now ((off - 0x048) / 16)) else w
  | .HCCC =>
    if off = 0x064 then
      match d.herd.rxFifo with
      | x :: _ => word (256 + x.toNat)
      | [] => 0
    else if off = 0x068 then
      putField (putField w HCC_UART_STS.RX_COUNT d.herd.rxFifo.length) HCC_UART_STS.TX_COUNT d.herd.txFifo.length
    else w
  | .CLK =>
    if off = 0x044 then
      putField (putField w CLK_STS.LOCK (ofBool (d.clockRuns i))) CLK_STS.FREQ (d.nominalMHz i)
    else if off = 0x048 then word (Config.freqMeasured i now % 2 ^ 24)
    else w
  | .SEC =>
    if off = 0x044 then putField w SEC_LC.LC Config.otpLifecycle
    else if off = 0x048 then word (min 64 d.sec.arb)
    else w
  | _ => w

/-- What a 32-bit read of WIN0 returns, but for the holding registers of R34: 0 in a hole and where no register is (R20), for WO
fields and for EVT_SET; the last value written to -W fields, and to -L fields that wait for a stopped clock (R27 to R29). -/
def Dev.read32 (d : Dev) (now a : Nat) : Word :=
  let a := a / 4 * 4
  match pageOf a with
  | none => 0
  | some (pg, i) =>
    let off := a % 0x1000
    if off = 0x00C then BitVec.ofNat 32 (d.pageSts pg i (pageBase a))
    else if off = 0x018 ∨ (0x020 ≤ off ∧ off < 0x040) then 0
    else
      let a := if pg = .PCI ∧ off = 0x050 then a - 0x040 else a
      let b := match regDesc pg i off with | some r => r.bank | none => .none
      match d.keyOf a i b with
      | none => 0
      | some k =>
        let p := d.pendingAt k
        d.view now pg i off (k / win0Size - 1) ((d.shown k &&& ~~~p.1) ||| (p.2 &&& p.1))

/-- A 32-bit read with the holding register of the page: a read of a low word holds the high word, and the next read of the high word
returns what is held (R34). -/
def Dev.readHold (d : Dev) (now a : Nat) : Word × Dev :=
  let a := a / 4 * 4
  match pageOf a with
  | none => (0, d)
  | some (pg, _) =>
    if isLowWord pg (a % 0x1000) then
      let held := d.readHeld.filter (fun e => pageBase e.1 != pageBase a)
      (d.read32 now a, { d with readHeld := storeIns (a + 4) (d.read32 now (a + 4)) held })
    else match storeFind d.readHeld a with
      | some v => (v, { d with readHeld := storeDel a d.readHeld })
      | none => (d.read32 now a, d)

/-- A read of 1 or 2 bytes of a word: of a high word it takes what is held, as the next read of it; only a 32-bit read holds a high word
(R34). -/
def Dev.readPart (d : Dev) (now a : Nat) : Word × Dev :=
  match storeFind d.readHeld a with
  | some v => (v, { d with readHeld := storeDel a d.readHeld })
  | none => (d.read32 now a, d)

/-! Writes. -/

/-- The bits of a register's fields of one kind. -/
def accMask (p : FieldAcc → Option (Nat × Nat)) (fs : List FieldAcc) : Word :=
  (fs.filterMap p).foldl (fun m e => m ||| maskOf e.1 e.2) 0

def maskL : List FieldAcc → Word := accMask fun | .rwL h l => some (h, l) | _ => none
def maskW : List FieldAcc → Word := accMask fun | .rwW h l => some (h, l) | _ => none
def maskI : List FieldAcc → Word := accMask fun | .rwI h l => some (h, l) | _ => none
def maskC : List FieldAcc → Word := accMask fun | .w1c h l => some (h, l) | _ => none

/-- A word with the bits of a mask taken from another. -/
def mergeWord (m old new : Word) : Word := (old &&& ~~~m) ||| (new &&& m)

/-- -L fields take what is written, W1C fields clear where 1 is written; while the block's clock is stopped both wait (R27, R28). -/
def Dev.putLive (d : Dev) (clocked : Bool) (k : Nat) (fs : List FieldAcc) (v : Word) : Dev :=
  if clocked then d.setWord k (mergeWord (maskL fs) (d.word k) v &&& ~~~(v &&& maskC fs))
  else d.holdLive k (maskL fs) v (v &&& maskC fs)

/-- -W fields wait for their boundary, with the page they were written through (R29). -/
def Dev.putWrap (d : Dev) (page k : Nat) (fs : List FieldAcc) (v : Word) : Dev :=
  let m := maskW fs
  if m = 0 then d
  else
    let p := d.pendingAt k
    let rest := d.wpend.filter (fun e => homeKey e.1 != k)
    { d with wpend := storeSet (fun _ => (0, 0)) rest (pendKey page k) (p.1 ||| m, mergeWord m p.2 v) }

/-- May the -I fields of the register be written now?  The control-store registers of ENE also ask for an engine without bound
channels (R203). -/
def Dev.takesIdle (d : Dev) (pg : Pg) (i page off : Nat) : Bool :=
  if pg = .ENE ∧ 0x050 ≤ off ∧ off < 0x060 then d.eneFree i else d.pageIdle pg i page

/-- -I fields take the value while IDLE is 1; a write that would change what one reads is otherwise ignored and recorded (R31).  A change in
a configured channel makes it STALE (R57).  While the block's clock is stopped the change waits (R28).  A retired entropy engine ignores its control-store registers (R203). -/
def Dev.putIdle (d : Dev) (clocked : Bool) (pg : Pg) (i page off k : Nat) (fs : List FieldAcc) (v : Word) : Dev :=
  let m := maskI fs
  let cur := if clocked then d.word k else d.shown k
  let uc := pg == .ENE && 0x050 ≤ off && off < 0x060
  if m = 0 then d
  else if d.takesIdle pg i page off then
    if uc && d.eneService i == 3 then d
    else
      let new := mergeWord m (d.word k) v
      let stale := pg == .CHN && (d.chState i == 1 || d.chState i == 5) && mergeWord m cur v != cur
      let d := if clocked then d.setWord k new else d.holdLive k m v 0
      if stale then d.wr (CHN_STATE.STALE.on i) 1 else d
  else if uc || cur &&& m != v &&& m then d.ignored page off else d

/-- Whose writes a register takes (R36, R417, R430, R506). -/
def mayWrite (rq : Requester) (pg : Pg) (i off : Nat) : Bool :=
  match pg with
  | .SEC => match rq with
    | .sec => true
    | .host => off == 0x080 || off == 0x084 || (0x100 ≤ off && off < 0x180) || (0x280 ≤ off && off < 0x2C0)
    | .herd _ => off == 0x180 || off == 0x184 || (0x200 ≤ off && off < 0x280)
  | .HCCC => if 0x060 ≤ off ∧ off < 0x06C then (match rq with | .herd _ => true | _ => false)
    else if off = 0x044 then rq == .host else true
  | .HCC => if 0x060 ≤ off ∧ off < 0x070 then (match rq with | .herd k => k.val == i | _ => false) else true
  | _ => true

/-- The interrupts of a word of pending or mask bits after software wrote it: sources that became active are delivered, level
sources still asserted set their bits again (R424, R426). -/
def Dev.afterPend (old d : Dev) (w : Nat) : Dev :=
  let l := (List.range 32).map (fun k => 32 * w + k)
  let d := d.forEach (l.filter (fun s => !sourceExists s)) (fun d s => d.wr (pendBit s) 0)
  let d := d.forEach (l.filter (fun s => d.sourceActive s && !old.sourceActive s)) Dev.deliver
  d.forEach l Dev.sampleSource

/-- The same for a core's private word: only ten sources exist, MBX_REQ is a level, and a sleeping core wakes (R418, R419). -/
def Dev.afterIpend (d : Dev) (n : Nat) : Dev :=
  let d := d.setWord (pageHCC n + 0x048) (d.word (pageHCC n + 0x048) &&& 0x3FF)
  let d := if d.herd.mbxOp.isSome && d.mbxCore == n then d.raisePriv n 6 else d
  if d.rd (HCC_STS.STATE.on n) = 1 ∧ (d.word (pageHCC n + 0x048) &&& ~~~(d.word (pageHCC n + 0x04C))) != 0 then
    d.wr (HCC_STS.STATE.on n) 0 else d

/-- An external input after its configuration was written: no edge is made; the filtered level follows an inversion, and a level
source follows its level (R429). -/
def Dev.afterExtCfg (old d : Dev) (i : Nat) : Dev :=
  let d := if d.bit (INT_EXT_CFG.INV i) != old.bit (INT_EXT_CFG.INV i) then
      d.wr (filteredBit i) (1 - d.rd (filteredBit i)) else d
  (d.extCount i).sampleSource (576 + i)

/-- A changed flow-control mode ends the pause state the port had asked for (R354). -/
def Dev.afterFcMode (old d : Dev) (p : Nat) : Dev :=
  if old.rd (ETH_FC.MODE.on p) = d.rd (ETH_FC.MODE.on p) then d.flowControl p
  else
    let d := (d.wr (SWC_RXQ_STS.PAUSE_SENT.bk p) 0).wr (SWC_RXQ_STS.PFC_SENT.bk p) 0
    (d.upEth p (fun x => { x with xoffAll := false })).flowControl p

/-- The boundary of a block that has nothing in progress is at once, in cycles of the block's clock (R30). -/
def Dev.idleBoundary (d : Dev) (pg : Pg) (i page : Nat) : Dev :=
  if !d.pageClocked pg i then d
  else match pg with
  | .CHN => if d.chActive i then d else d.latch page
  | .PXE => if d.bit (PXE_JOB.ACTIVE.on i) then d else d.pxeBoundary i
  | .ENE => if (d.en i).running.isSome then d else d.latch page
  | _ => d

/-- A SWAP written 1 and then 0 before the wrap is not pending any more (R301). -/
def Dev.dropSwap (d : Dev) (n : Nat) : Dev :=
  let k := (ARB_SLOT_CTL.SWAP.on n).base
  if (d.pendingAt k).2 &&& 1 = 0 then { d with wpend := storeDel k d.wpend } else d

/-- The key under which a command register that reads 0 holds a command for a stopped clock (R28): WDP_GEN_CMD holds one for all channels and
one for each, GLB_TIME_CMD one. -/
def cmdKey (a n : Nat) : Nat := a + win0Size * (65536 + n)

/-- A command that waited for its block's clock is carried out: WDP_GEN_CMD (R252, R259). -/
def Dev.heldCommand (d : Dev) (k : Nat) : Dev :=
  let w := (d.word k).toNat
  let d := d.setWord k 0
  if k % win0Size = pageWDP + 0x058 then
    if 2 ^ 31 ≤ w then d.assignAll (w % 65536) else d.assignGen (w / 65536 % 256) (w % 65536)
  else d

/-- What follows from a write at an offset of a page. -/
def Dev.afterWrite (old d : Dev) (now : Nat) (pg : Pg) (i page off : Nat) : Dev :=
  match pg with
  | .CHN => if d.wPending page then d.idleBoundary pg i page else d
  | .PXE => if d.wPending page then d.idleBoundary pg i page else d
  | .INT0 =>
    if 0x100 ≤ off ∧ off < 0x180 then Dev.afterPend old d ((off - 0x100) / 4)
    else if 0x180 ≤ off ∧ off < 0x200 then Dev.afterPend old d ((off - 0x180) / 4)
    else d
  | .INT1 => if 0x040 ≤ off ∧ off < 0x080 then Dev.afterExtCfg old d ((off - 0x040) / 4) else d
  | .HCCC => if off = 0x040 ∧ d.herd.mbxOp.isSome then d.raisePriv d.mbxCore 6 else d
  | .HCC =>
    if off = 0x048 ∨ off = 0x04C then d.afterIpend i
    else if off = 0x05C then d.upHerd (fun h => { h with timers := h.timers.filter (· != i) ++ [i] })
    else d
  | .SWC => if 0x044 ≤ off ∧ off < 0x050 ∧ d.rd SWC_PORT_SEL.PORT < 8 then d.flowControl (d.rd SWC_PORT_SEL.PORT) else d
  | .ETH =>
    if off = 0x04C then Dev.afterFcMode old d i
    else if off = 0x040 then d.flowControl i
    else if off = 0x078 ∧ i = 0 then Dev.afterPpsOfs old d now
    else d
  | .CLS3 => if off = 0x040 then (if d.bit CLS_AGE_CFG.EN then d else d.upCls (fun c => { c with ageAt := none })) else d
  | .DMA => if 0x100 ≤ off ∧ off % 64 = 0 then d.applyRole (32 * i + (off - 0x100) / 64) else d
  | .ARB => if off = 0x05C then d.dropSwap i else d
  | .WDP => if (off = 0x048 ∨ off = 0x04C) ∧ old.word (page + off) ≠ d.word (page + off) then d.compareBudget else d
  | .PCI => if off = 0x048 ∧ d.pageClocked pg i then d.sendLtr else d
  | .HMC => if off = 0x040 ∧ old.bit (HMC_CTL.SVC.on i) ∧ !d.bit (HMC_CTL.SVC.on i) then d.calLost i else d
  | _ => d

/-- A command register written with an operation that is none: the mailboxes answer it (R420, R508). -/
def Dev.unknownOp (d : Dev) (pg : Pg) (off : Nat) (v : Word) : Dev :=
  let op := v.toNat % 256
  let seq := v.toNat / 65536
  match pg with
  | .HCCC => if off = 0x044 ∧ (op = 0 ∨ 8 < op) then d.hostMailbox op seq else d
  | .SEC =>
    if (op = 0 ∨ 15 < op) ∧ off = 0x080 then d.secMbx .host op seq false id
    else if (op = 0 ∨ 15 < op) ∧ off = 0x180 then d.secMbx .herd op seq false id
    else d
  | _ => d

/-- The event bits a page has (R26); the last two of EGS exist in EGS_0 only (R389). -/
def evtCount (pg : Pg) (i : Nat) : Nat :=
  match pg with
  | .GLB | .PSEC | .CLS2 | .INT1 | .INT2 | .INT3 | .HCC => 0
  | .PSE | .CLS0 | .CLS1 | .INT0 | .ANT => 1
  | .RCT | .CLS3 | .HCCC | .FLT0 | .FLT1 => 2
  | .HMC | .ARB | .BPM | .CLK | .SEC => 3
  | .SWC => 4
  | .EGS => if i = 0 then 4 else 2
  | .PXE | .WDP | .ETH | .PCI | .WDG => 5
  | .ENE | .BGS => 6
  | .CHN => 11
  | .DMA => 32

def evtMask (pg : Pg) (i : Nat) : Word := BitVec.ofNat 32 (2 ^ evtCount pg i - 1)

/-- A write to the page header (R21 to R26): WIGN and the W1C words, and EVT_EN.  PAGE_CTL and EVT_SET have operations of their own. -/
def Dev.writeHeader (d : Dev) (pg : Pg) (i page off : Nat) (v : Word) : Dev :=
  if off = 0x00C then
    if v.toNat / 8 % 2 = 0 then d
    else if d.pageClocked pg i then d.wr (PAGE_STS.WIGN.page page) 0
    else d.holdLive (page + off) 0 0 (maskOf 3 3)
  else if off = 0x010 then (d.setWord (page + off) (d.word (page + off) &&& ~~~v)).sample page
  else if off = 0x014 then (d.setWord (page + off) (v &&& evtMask pg i)).sample page
  else if off = 0x01C then
    let d := d.setWord (page + off) (d.word (page + off) &&& ~~~v)
    -- BPM_BAD_PTR is held until FLT_STS.BAD_FREE is cleared (R370)
    if pg = .BPM && !d.bit BPM_FLT.BAD_FREE then (d.setWord (page + 0x098) 0).setWord (page + 0x09C) 0 else d
  else d

/-- The fields of a register for the number selected: IDLE_ONLY of BGS training is RO 1 (R310). -/
def fieldsAt (pg : Pg) (off bank : Nat) (fs : List FieldAcc) : List FieldAcc :=
  if pg = .ARB ∧ off = 0x048 ∧ bank = 0x0E1 then fs.drop 1 else fs

/-- One word written, the fields under their own qualifiers (R27 to R31); `off` is the offset recorded where the write is ignored. -/
def Dev.writeWord (d : Dev) (now : Nat) (rq : Requester) (a off : Nat) (v : Word) : Dev :=
  match pageOf a with
  | none => d
  | some (pg, i) =>
    let o := a % 0x1000
    let page := pageBase a
    if !mayWrite rq pg i o then d
    else if pg = .PCI ∧ o = 0x050 then d.writeHeader pg i page 0x010 v
    else if o < 0x040 then d.writeHeader pg i page o v
    else match regDesc pg i o with
      | none => d
      | some r =>
        match d.keyOf a i r.bank with
        | none => d
        | some k =>
          if pg = .FLT1 ∧ o = 0x044 ∧ !(fltSource (d.rd FLT_SRC_SEL.SRC)).any (fun e => e.1 == 0) then d
          else
            let old := d
            let fs := fieldsAt pg o (k / win0Size - 1) r.fields
            let run := d.pageClocked pg i
            let d := (((d.putLive run k fs v).putWrap page k fs v).putIdle run pg i page off k fs v).unknownOp pg o v
            Dev.afterWrite old d now pg i page o

/-- The half of a register at an address; a register without writable fields is taken as a single word. -/
def halfAt (a : Nat) : Half :=
  match pageOf a with
  | none => .single
  | some (pg, i) => match regDesc pg i (a % 0x1000) with
    | some r => r.half
    | none => .single

/-- May the requester write there? -/
def mayWriteAt (rq : Requester) (a : Nat) : Bool :=
  match pageOf a with
  | some (pg, i) => mayWrite rq pg i (a % 0x1000)
  | none => false

/-- A 32-bit write: the low word of a 64-bit register is held, and both are taken when the high word is written (R34).  A high word
written with no low word held is taken alone, and the low word keeps its value (DESIGN CHOICE, log entry 161). -/
def Dev.write32 (d : Dev) (now : Nat) (rq : Requester) (a : Nat) (v : Word) : Dev :=
  match halfAt a with
  | .single => d.writeWord now rq a (a % 0x1000) v
  | .low => if mayWriteAt rq a then { d with lowHeld := storeIns a v d.lowHeld } else d
  | .high =>
    if !mayWriteAt rq a then d
    else
      let d' := match storeFind d.lowHeld (a - 4) with
        | some w => { d with lowHeld := storeDel (a - 4) d.lowHeld }.writeWord now rq (a - 4) (a % 0x1000) w
        | none => d
      d'.writeWord now rq a (a % 0x1000) v

/-- The access record: HOLE and PARTIAL set, the offset recorded only where both were 0 (R42). -/
def Dev.recordAccess (d : Dev) (hole part : Bool) (off : Nat) : Dev :=
  let d := if d.bit GLB_ACC_STS.HOLE || d.bit GLB_ACC_STS.PARTIAL then d else d.wr GLB_ACC_ADDR.OFFSET off
  let d := if hole then d.wr GLB_ACC_STS.HOLE 1 else d
  if part then d.wr GLB_ACC_STS.PARTIAL 1 else d

/-- A 32-bit write anywhere in WIN0 (R20). -/
def Dev.busWrite (d : Dev) (now : Nat) (rq : Requester) (a : Nat) (v : Word) : Dev :=
  if (pageOf a).isNone then d.recordAccess true false a else d.write32 now rq a v

end Sys2Proof.Machine
end

