-- ==== Sys2Proof/Machine/Pages.lean ====
section
/-!
DEFINITION. The commands every page answers: register writes, accesses outside the registers, enable, soft reset, freeze and wrap
hold, events set for test, and the load and step of device time (R20, R24 to R42).
-/

namespace Sys2Proof.Machine

/-- A command on the page of a WIN0 address: an access to a hole is one of R20. -/
def Dev.onPage (d : Dev) (a : Nat) (f : Pg → Nat → Nat → Dev) : Dev :=
  match pageOf a with
  | none => d.recordAccess true false a
  | some (pg, i) => f pg i (pageBase a)

/-! Writes and reads. -/

/-- A register write of 32 bits, or of 8 aligned bytes, which takes both words of a 64-bit register at once (R33, R34). -/
def execRegisterWrite (rq : Requester) (off : Nat) (wide : Bool) (data : Nat) (s : State) : Host.Outcome State Fault Refusal :=
  s.run fun e d =>
    let a := off / 4 * 4
    let lo := BitVec.ofNat 32 data
    if wide then (d.busWrite e.now rq a lo).busWrite e.now rq (a + 4) (BitVec.ofNat 32 (data / 2 ^ 32)) else d.busWrite e.now rq a lo

/-- An access to a hole (R20). -/
def execHoleAccess (write : Bool) (off : Nat) (s : State) : Host.Outcome State Fault Refusal :=
  if write then s.run fun _ d => if (pageOf off).isSome then d else d.recordAccess true false off
  else s.runRead 4 fun _ d => if (pageOf off).isSome then d else (d.recordAccess true false off).send (.readData (natLE 4 0) false)

/-- A write that does not cover its word (R33); in a hole it is both. -/
def execPartialWrite (off : Nat) (s : State) : Host.Outcome State Fault Refusal :=
  s.run fun _ d => d.recordAccess (pageOf off).isNone true off

/-- A host access of more than 8 bytes (R33): a read returns zeros. -/
def execOversizeHostAccess (write : Bool) (off : Nat) (s : State) : Host.Outcome State Fault Refusal :=
  if write then s.run fun _ d => d.recordAccess (pageOf off).isNone true off
  else s.runRead 4 fun _ d => (d.recordAccess (pageOf off).isNone true off).send (.readData (natLE 4 0) false)

/-- The bytes that a read of 1 or 2 bytes asks of a word (R33). -/
def partOfWord (off width : Nat) (w : Word) : List Byte := ((natLE 4 w.toNat).drop (off % 4)).take width

/-- A read of a register: 32 bits, of a low word holding the high word, which the next read of the high word returns; 8 aligned bytes, both
words from the same instant; or 1 or 2 bytes of a word (R33, R34). -/
def execReg64LowRead (r : RegRead) (s : State) : Host.Outcome State Fault Refusal :=
  s.runRead r.width fun e d =>
    let a := r.off / 4 * 4
    let note (d : Dev) : Dev := if (pageOf r.off).isNone then d.recordAccess true false r.off else d
    if r.width = 8 then (note d).send (.readData (natLE 4 (d.read32 e.now a).toNat ++ natLE 4 (d.read32 e.now (a + 4)).toNat) false)
    else if r.width = 4 then
      let v := d.readHold e.now r.off
      (note v.2).send (.readData (natLE 4 v.1.toNat) false)
    else
      let v := d.readPart e.now a
      (note v.2).send (.readData (partOfWord r.off r.width v.1) false)

/-- A 32-bit write of a low word: held until the high word is written (R34). -/
def execReg64LowWrite (rq : Requester) (off : Nat) (data : Nat) (s : State) : Host.Outcome State Fault Refusal :=
  s.run fun e d => d.busWrite e.now rq (off / 4 * 4) (BitVec.ofNat 32 data)

/-- A 32-bit write of a high word: the register takes both words (R34). -/
def execReg64HighWrite (rq : Requester) (off : Nat) (data : Nat) (s : State) : Host.Outcome State Fault Refusal :=
  s.run fun e d => d.busWrite e.now rq (off / 4 * 4) (BitVec.ofNat 32 data)

/-- EVT_SET: the bits are set as their events would set them (R26), where the requester may write the page (R36). -/
def execEvtSet (p : PageAccess) (bits : Nat) (s : State) : Host.Outcome State Fault Refusal :=
  s.run fun _ d => d.onPage p.page fun pg i page =>
    if !mayWrite p.rq pg i 0x018 then d
    else (d.setWord (page + 0x010) (d.word (page + 0x010) ||| (BitVec.ofNat 32 bits &&& evtMask pg i))).sample page

/-! Enable and freeze (R24). -/

/-- Work that waited for the page goes on where nothing holds it any more. -/
def Dev.resumePage (d : Dev) (ev : Env) (pg : Pg) (i : Nat) : Dev :=
  match pg with
  | .CHN => d.resumeCommand ev i
  | .BPM => d.resumeBpm
  | .ETH => d.flowControl i
  | .ANT => d.antResume i
  | .CLK => d.tryOpp i
  | _ => d

/-- A sweep loses its HMC (R464). -/
def Dev.losePage (d : Dev) (pg : Pg) (i : Nat) : Dev :=
  match pg with
  | .HMC | .ARB => d.calLost i
  | _ => d

/-- What follows from a change of PAGE_CTL.EN. -/
def Dev.enableChanged (d : Dev) (ev : Env) (pg : Pg) (i : Nat) (en : Bool) : Dev :=
  if en then d.resumePage ev pg i else (d.losePage pg i).resumePage ev pg i

/-- PAGE_CTL.EN as it reads: with the block's clock stopped, the value that waits (R28). -/
def Dev.enReads (d : Dev) (pg : Pg) (i page : Nat) : Bool :=
  if d.pageClocked pg i then d.enabled page else bitAt (d.shown (page + 0x008)).toNat 0

/-- A write of PAGE_CTL.EN: idle-only (R31), RO in the fixed pages; while the block's clock is stopped it waits (R28). -/
def execPageEnable (page : Nat) (en : Bool) (s : State) : Host.Outcome State Fault Refusal :=
  s.run fun e d => d.onPage page fun pg i page =>
    if pageFixed pg ∨ d.enReads pg i page = en then d
    else if !d.pageIdle pg i page then d.ignored page 0x008
    else if !d.pageClocked pg i then d.holdLive (page + 0x008) (maskOf 0 0) (BitVec.ofNat 32 (ofBool en)) 0
    else (d.wr (PAGE_CTL.EN.page page) (ofBool en)).enableChanged e pg i en

/-- A write of PAGE_CTL.FRZ: live; while the block's clock is stopped it waits (R28). -/
def execFreeze (page : Nat) (frz : Bool) (s : State) : Host.Outcome State Fault Refusal :=
  s.run fun e d => d.onPage page fun pg i page =>
    if pageFixed pg then d
    else if !d.pageClocked pg i then d.holdLive (page + 0x008) (maskOf 2 2) (BitVec.ofNat 32 (4 * ofBool frz)) 0
    else
      let d := d.wr (PAGE_CTL.FRZ.page page) (ofBool frz)
      if frz then d else d.resumePage e pg i

/-- WHOLD is 0 again: the pending writes of an instance with nothing in progress latch at once (R29, R30). -/
def Dev.unhold (d : Dev) (pg : Pg) (i page : Nat) : Dev := if d.wPending page then d.idleBoundary pg i page else d

/-- A write of PAGE_CTL.WHOLD: live; while the block's clock is stopped it waits (R28). -/
def execWrapHold (p : PageAccess) (hold : Bool) (s : State) : Host.Outcome State Fault Refusal :=
  s.run fun _ d => d.onPage p.page fun pg i page =>
    if !mayWrite p.rq pg i 0x008 then d
    else if !d.pageClocked pg i then d.holdLive (page + 0x008) (maskOf 3 3) (BitVec.ofNat 32 (8 * ofBool hold)) 0
    else
      let d := d.wr (PAGE_CTL.WHOLD.page page) (ofBool hold)
      if hold then d else d.unhold pg i page

/-- The key under which GLB_TIME_CMD waits. -/
def timeKey : Nat := cmdKey 0x078 0

/-! The clock of a block runs again (R28). -/

/-- A live write that waited takes effect, with what follows from it. -/
def Dev.releaseLive (d : Dev) (ev : Env) (e : Nat × (Word × Word × Word)) : Dev :=
  let old := d
  let d := d.setWord e.1 (mergeWord e.2.1 (d.word e.1) e.2.2.1 &&& ~~~e.2.2.2)
  let a := e.1 % win0Size
  match pageOf a with
  | none => d
  | some (pg, i) =>
    let page := pageBase a
    if cmdKey a 0 ≤ e.1 then d.heldCommand e.1
    else if a % 0x1000 = 0x008 then
      let d := if old.bit (PAGE_CTL.WHOLD.page page) && !d.bit (PAGE_CTL.WHOLD.page page) then d.unhold pg i page else d
      let d := if old.frozen page && !d.frozen page then d.resumePage ev pg i else d
      if old.enabled page == d.enabled page then d else d.enableChanged ev pg i (d.enabled page)
    else Dev.afterWrite old d ev.now pg i page (a % 0x1000)

/-- The writes that waited for a clock take effect where it runs, those of a block with nothing in progress latch (R30); GLB_TIME_CMD, which
moves device time, is left to the caller. -/
def Dev.clocksBack (d : Dev) (ev : Env) : Dev :=
  let runs (e : Nat × (Word × Word × Word)) : Bool :=
    e.1 != timeKey && (match pageOf (e.1 % win0Size) with
    | some (pg, i) => d.pageClocked pg i
    | none => true)
  let pages := (d.wpend.map (fun e => keyPage e.1)).eraseDups
  let d := { d with liveHeld := d.liveHeld.filter (fun e => !runs e) }.forEach (d.liveHeld.filter runs) (fun d e => d.releaseLive ev e)
  d.forEach pages (fun d p => match pageOf p with | some (pg, i) => if d.wPending p then d.idleBoundary pg i p else d | none => d)

/-- PERST_N is released: the blocks leave reset, the PCIe domains have locked, and link training starts (R522, R523). -/
def execPerstRelease (s : State) : Host.Outcome State Fault Refusal :=
  .next <| s.act fun e d =>
    let d := d.upLink (fun l => { l with perst := false })
    if d.sec.rst = 1 then d else ((d.wr (CLK_STS.LOCK.on 212) 1).wr (CLK_STS.LOCK.on 213) 1).clocksBack e

/-! Generations assigned (R252, R259). -/

/-- WDP_GEN_CMD with ALL 1; while WDP's clock is stopped it waits, in place of what waited (R28). -/
def execGenAssignAll (gen : Fin 65536) (s : State) : Host.Outcome State Fault Refusal :=
  s.run fun _ d =>
    let k := cmdKey (pageWDP + 0x058) 0
    if gen.val = 0 then d
    else if d.pageClocked .WDP 0 then d.assignAll gen
    else { d with liveHeld := storeDrop (fun j => k ≤ j && j % win0Size == pageWDP + 0x058) d.liveHeld }.holdLive k (maskOf 31 0)
      (BitVec.ofNat 32 (2 ^ 31 + gen)) 0

/-- WDP_GEN_CMD with ALL 0; while WDP's clock is stopped it waits (R28). -/
def execGenAssignChn (c : Fin 256) (gen : Fin 65536) (s : State) : Host.Outcome State Fault Refusal :=
  s.run fun _ d =>
    if gen.val = 0 then d
    else if d.pageClocked .WDP 0 then d.assignGen c gen
    else d.holdLive (cmdKey (pageWDP + 0x058) (1 + c)) (maskOf 31 0) (BitVec.ofNat 32 (65536 * c + gen)) 0

/-! Soft reset (R24). -/

/-- A write of 1 to PAGE_CTL.SRST: idle-only; a CHN page takes it only in CLOSED (R57). -/
def execSoftReset (page : Nat) (s : State) : Host.Outcome State Fault Refusal :=
  s.run fun _ d => d.onPage page fun pg i page =>
    if pageFixed pg ∨ d.bit (PAGE_CTL.SRST.page page) then d
    else if !d.pageIdle pg i page || (pg == .CHN && d.chState i != 0) then d.ignored page 0x008
    else (d.wr (PAGE_CTL.SRST.page page) 1).losePage pg i

/-- The registers of some egress queues at their reset values. -/
def Dev.dropQueueRegs (d : Dev) (qs : List Nat) : Dev :=
  { d with regs := storeDrop (fun k => isQueueKey k && k ≥ win0Size && qs.contains (k / win0Size - 1)) d.regs }

/-- The queues of a port are unbound, their registers at reset, and its output holds nothing: its consumer was reset (R518).  The queue
registers of the page are those of the queues bound to the port (DESIGN CHOICE, log entry 158). -/
def Dev.resetEgress (d : Dev) (p : Nat) : Dev :=
  let qs := d.boundQueues p
  let d := ((d.dropDescs p).forEach qs (fun d q => d.upQ q (fun _ => EgsQ.reset))).dropQueueRegs qs
  d.upOut p (fun x => { x with packets := [] })

/-- The state of a block beside its registers after a soft reset of a page: what it holds and the queues it consumes are empty (R24,
R518).  `old` is the device before the page's registers went to their reset values. -/
def Dev.resetBlock (old d : Dev) (pg : Pg) (i : Nat) : Dev :=
  match pg with
  | .PXE =>
    -- SERVICE changes as R217 states only, a retired engine stays so until device reset (DEDUCED, log entry 181)
    let d := (d.setPx i Pxe.reset).wr (PXE_STS.SERVICE.on i) (old.pxeService i)
    if old.pxeService i = 3 then d.wr (PXE_CTL.RETIRE.on i) 1 else d
  | .ENE =>
    let d := d.upEn i (fun x => { x with moves := [] })
    if old.eneService i = 3 then (d.wr (ENE_STS.SERVICE.on i) 3).wr (ENE_CTL.RETIRE.on i) 1 else d
  | .WDP =>
    let on := d.jobs.filterMap (·.engine)
    let seq := d.wdp.seq
    { d with wdp := { Wdp.reset with seq := seq } }.forEach on Dev.pxeLose
  | .HMC => d.upHb i (fun x => { x with queue := [], inflight := [], rot0 := 3, rot1 := 3, unrefreshed := [], forced := [] })
  | .ARB => d.upHb i (fun x => { x with waiting := [], holder := none, parked := [], holderBase := 0, lockUnits := 0, last := 1023 })
  | .ETH =>
    let d := if old.linkUp i then ((d.wr (SWC_RXQ_STS.PAUSE_SENT.bk i) 0).wr (SWC_RXQ_STS.PFC_SENT.bk i) 0).flushPort i else d
    d.upEth i (fun x => { x with txts := [], xoffAll := false })
  | .PSEC => d.forEach (List.range 8) (fun d p => (d.upEth p (fun x => { x with rxq := [] })).flowControl p)
  | .PSE => d.upPse i (fun _ => Pse.reset)
  | .CLS0 => (d.upCls (fun _ => Cls.reset)).forEach (List.range 8) (fun d p => d.upEth p (fun x => { x with parsed := [] }))
  | .SWC =>
    let d := d.forEach (d.net.ins.flatMap (fun e => e.2.packets)) Dev.taken
    let d := d.upNet (fun n => { n with ins := [], outs := [] })
    d.forEach (List.range 8) Dev.dropDescs
  | .EGS => d.resetEgress i
  | .BPM => -- a lost buffer stays lost until device reset (R363)
    { d with pools := [], bpmWaits := [] }.forEach (List.range 4) (fun d p => d.setPool p { Pool.reset with lost := (old.pool p).lost })
  | .DMA =>
    let mine (c : Nat) : Bool := c / 32 == i
    let d := { d with dma := { d.dma with
      rings := storeDrop (fun k => mine (k / 2)) d.dma.rings
      roles := storeDrop mine d.dma.roles
      last := storeDrop (fun k => k / 2 == i) d.dma.last } }
    d.forEach (List.range 8) Dev.dropHost
  | .CHN => d.setCh i Chan.reset
  | .RCT => d.forEach (d.chans.map (·.1)) (fun d c => d.upCh c (fun x => { x with rc := { x.rc with staged := none } }))
  | .BGS => d.upBgs (fun b => { b with pmb := 0, fresh := false })
  | .ANT => d.upAnts (fun l => l.filter (· != i))
  | .CLK =>
    let k := 0xA00044 + 0x1000 * i
    let d := d.setWord k (old.word k)
    let d := if i = 216 then d.setWord 0xAD8084 (old.word 0xAD8084) else d
    d.setClkOpp i (d.rd (CLK_OPP.VSET.on i))
  | _ => d

/-- The reset completes: the registers from 0x040 upwards and the event words are at their reset values, pending -W writes are
discarded, SRST reads 0.  It takes cycles of the block's clock, and so waits while that is stopped. -/
def execSoftResetComplete (page : Nat) (s : State) : Host.Outcome State Fault Refusal :=
  s.run fun e d =>
    match pageOf page with
    | none => d
    | some (pg, i) =>
      let page := pageBase page
      if !d.bit (PAGE_CTL.SRST.page page) || !d.pageClocked pg i then d
      else (Dev.resetBlock d (d.resetPage page) pg i).wr (PAGE_CTL.SRST.page page) 0 |>.resumePage e pg i

/-! Device time (R42). -/

/-- Device time jumps: what runs on clocks of its own keeps the time it has run. -/
def State.jump (s : State) (time : Nat) : State :=
  let by_ : Int := ((time / 2 ^ 24 : Nat) : Int) - ((s.now : Nat) : Int)
  { s with
    time := time
    dev := { s.dev with
      wdgs := s.dev.wdgs.map (fun e => (e.1, { e.2 with since := e.2.since + by_ }))
      net := { s.dev.net with cls := { s.dev.net.cls with
        punt := s.dev.net.cls.punt.map (fun e => (e.1, (e.2.1 + by_, e.2.2)))
        ageAt := s.dev.net.cls.ageAt.map (· + 32768 * by_) } }
      sec := { s.dev.sec with startAt := s.dev.sec.startAt + by_ } } }

/-- LOAD: the counter takes GLB_TIME_SET, and its fraction is 0 (DESIGN CHOICE, log entry 159).  STEP: GLB_TIME_SET, signed, is added modulo
2^64, and the fraction stays. -/
def State.setTime (s : State) (load : Bool) : State :=
  let v := s.dev.rd GLB_TIME_SET.SET
  s.jump (if load then v * 2 ^ 24 else (s.now + v) % 2 ^ 64 * 2 ^ 24 + s.time % 2 ^ 24)

/-- A write of GLB_TIME_CMD: idle-only whatever the bits written; while the clock of domain 211 is stopped it waits (R28). -/
def State.timeCmd (s : State) (load : Bool) : Host.Outcome State Fault Refusal :=
  if s.dev.sec.rst ≠ 0 then .next s
  else if !s.dev.glbIdle then s.run fun _ d => d.ignored pageGLB 0x078
  else if s.dev.clockRuns 211 then .next (s.setTime load)
  else s.run fun _ d => d.holdLive timeKey (maskOf 1 0) (if load then 1 else 2) 0

/-- GLB_TIME_CMD waited for the clock of domain 211, which runs. -/
def State.timeBack (s : State) : State :=
  match storeFind s.dev.liveHeld timeKey with
  | none => s
  | some h =>
    if s.dev.clockRuns 211 then { s with dev := { s.dev with liveHeld := storeDel timeKey s.dev.liveHeld } }.setTime (bitAt h.2.1.toNat 0) else s

/-- The synthesiser locks again (R436). -/
def execSynthesiserRelock (dom : Fin 221) (s : State) : Host.Outcome State Fault Refusal :=
  if s.dev.sec.rst ≠ 0 ∨ hasSynth dom = false then .next s
  else .next (s.act fun e d => ((d.wr (CLK_STS.LOCK.on dom) 1).tryOpp dom).clocksBack e).timeBack

def execTimeLoad (s : State) : Host.Outcome State Fault Refusal := s.timeCmd true

def execTimeStep (s : State) : Host.Outcome State Fault Refusal := s.timeCmd false

/-- A tick of the 4 ns time clock, which passes while no command waits: device time advances by GLB_TIME_INC, and PPS_OUT falls at its
time (R42, R320).  In a reset, and while the clock of domain 211 is stopped (R512), time stands. -/
def State.tick (s : State) : State :=
  if s.dev.sec.rst ≠ 0 ∨ s.dev.clockRuns 211 = false then s
  else
    let t := (s.time + s.dev.rd GLB_TIME_INC.INC) % 2 ^ 88
    let falls := s.dev.net.ppsEnd.any (fun e => e ≤ t / 2 ^ 24)
    { s with
      time := t
      dev := if falls then (s.dev.upNet (fun n => { n with ppsEnd := none })).send (.ppsOut false) else s.dev }

end Sys2Proof.Machine
end

