-- ==== Sys2Proof/Machine/Dispatch.lean ====
section
/-!
DEFINITION. The one place that gives every command its meaning: one arm for each constructor of Instr.
-/

namespace Sys2Proof.Machine

/-- The effect of a command on the state. -/
def exec (i : Instr) (s : State) : Host.Outcome State Fault Refusal :=
  match i with
  | .registerWrite rq off wide data => Sys2Proof.Machine.execRegisterWrite rq off wide data s
  | .holeAccess write off => Sys2Proof.Machine.execHoleAccess write off s
  | .partialWrite off => Sys2Proof.Machine.execPartialWrite off s
  | .oversizeHostAccess write off => Sys2Proof.Machine.execOversizeHostAccess write off s
  | .reg64LowRead r => Sys2Proof.Machine.execReg64LowRead r s
  | .reg64LowWrite rq off data => Sys2Proof.Machine.execReg64LowWrite rq off data s
  | .reg64HighWrite rq off data => Sys2Proof.Machine.execReg64HighWrite rq off data s
  | .evtSet p bits => Sys2Proof.Machine.execEvtSet p bits s
  | .pageEnable page en => Sys2Proof.Machine.execPageEnable page en s
  | .softReset page => Sys2Proof.Machine.execSoftReset page s
  | .softResetComplete page => Sys2Proof.Machine.execSoftResetComplete page s
  | .freeze page frz => Sys2Proof.Machine.execFreeze page frz s
  | .wrapHold p hold => Sys2Proof.Machine.execWrapHold p hold s
  | .timeLoad => Sys2Proof.Machine.execTimeLoad s
  | .timeStep => Sys2Proof.Machine.execTimeStep s
  | .configure c => Sys2Proof.Machine.execConfigure c s
  | .openChannel c => Sys2Proof.Machine.execOpenChannel c s
  | .drain c => Sys2Proof.Machine.execDrain c s
  | .abort c => Sys2Proof.Machine.execAbort c s
  | .close c => Sys2Proof.Machine.execClose c s
  | .cmdDone c place => Sys2Proof.Machine.execCmdDone c place s
  | .drainComplete c => Sys2Proof.Machine.execDrainComplete c s
  | .encForceIrap c => Sys2Proof.Machine.execEncForceIrap c s
  | .ingestUnpack flow p => Sys2Proof.Machine.execIngestUnpack flow p s
  | .sourceDeadline c => Sys2Proof.Machine.execSourceDeadline c s
  | .stillTimer c => Sys2Proof.Machine.execStillTimer c s
  | .holdCmdEnter c => Sys2Proof.Machine.execHoldCmdEnter c s
  | .holdCmdRelease c => Sys2Proof.Machine.execHoldCmdRelease c s
  | .holdCmdStillNow c => Sys2Proof.Machine.execHoldCmdStillNow c s
  | .jobIssue overhead => Sys2Proof.Machine.execJobIssue overhead s
  | .rowQuantiser e row p => Sys2Proof.Machine.execRowQuantiser e row p s
  | .jobCommit e r => Sys2Proof.Machine.execJobCommit e r s
  | .jobFault e kind a damage => Sys2Proof.Machine.execJobFault e kind a damage s
  | .jobWatchdog e o => Sys2Proof.Machine.execJobWatchdog e o s
  | .genAssignAll gen => Sys2Proof.Machine.execGenAssignAll gen s
  | .genAssignChn c gen => Sys2Proof.Machine.execGenAssignChn c gen s
  | .admitBudgetWrite reservation mpcs => Sys2Proof.Machine.execAdmitBudgetWrite reservation mpcs s
  | .rctCtxCommit seq => Sys2Proof.Machine.execRctCtxCommit seq s
  | .decodePacket c p => Sys2Proof.Machine.execDecodePacket c p s
  | .jbTimeout c => Sys2Proof.Machine.execJbTimeout c s
  | .decOutRdWrite c idx wrap => Sys2Proof.Machine.execDecOutRdWrite c idx wrap s
  | .entropyJobStart m => Sys2Proof.Machine.execEntropyJobStart m s
  | .followResume m c pic slice => Sys2Proof.Machine.execFollowResume m c pic slice s
  | .livePreempt m => Sys2Proof.Machine.execLivePreempt m s
  | .entropyJobEnd e r => Sys2Proof.Machine.execEntropyJobEnd e r s
  | .machineCheck e kind fetch sent => Sys2Proof.Machine.execMachineCheck e kind fetch sent s
  | .eneMove e c => Sys2Proof.Machine.execEneMove e c s
  | .eneUcStore e hi => Sys2Proof.Machine.execEneUcStore e hi s
  | .eneSelftest e => Sys2Proof.Machine.execEneSelftest e s
  | .eneSelftestDone e pass => Sys2Proof.Machine.execEneSelftestDone e pass s
  | .eneRelease e => Sys2Proof.Machine.execEneRelease e s
  | .eneRetire e => Sys2Proof.Machine.execEneRetire e s
  | .pxeUcLoad e bank => Sys2Proof.Machine.execPxeUcLoad e bank s
  | .pxeUcCheck e bank => Sys2Proof.Machine.execPxeUcCheck e bank s
  | .pxeUcInvalidate e bank => Sys2Proof.Machine.execPxeUcInvalidate e bank s
  | .pxeUcDone e poison => Sys2Proof.Machine.execPxeUcDone e poison s
  | .pxeQuar e => Sys2Proof.Machine.execPxeQuar e s
  | .pxeSelftest e => Sys2Proof.Machine.execPxeSelftest e s
  | .pxeSelftestDone e pass => Sys2Proof.Machine.execPxeSelftestDone e pass s
  | .pxeRelease e => Sys2Proof.Machine.execPxeRelease e s
  | .pxeRetire e => Sys2Proof.Machine.execPxeRetire e s
  | .oppDone e => Sys2Proof.Machine.execOppDone e s
  | .hbmRequest n r => Sys2Proof.Machine.execHbmRequest n r s
  | .arbGrant n slot => Sys2Proof.Machine.execArbGrant n slot s
  | .lockRelease n => Sys2Proof.Machine.execLockRelease n s
  | .arbWdogExpire n => Sys2Proof.Machine.execArbWdogExpire n s
  | .arbDrained n => Sys2Proof.Machine.execArbDrained n s
  | .quotaWindowEnd n => Sys2Proof.Machine.execQuotaWindowEnd n s
  | .slotTableWrap n => Sys2Proof.Machine.execSlotTableWrap n s
  | .hbmReadReturn n pc r => Sys2Proof.Machine.execHbmReadReturn n pc r s
  | .refreshDue n pc bank => Sys2Proof.Machine.execRefreshDue n pc bank s
  | .stackTempRead n temp => Sys2Proof.Machine.execStackTempRead n temp s
  | .trimApply n => Sys2Proof.Machine.execTrimApply n s
  | .trimInForce n => Sys2Proof.Machine.execTrimInForce n s
  | .frameReceive p bytes line => Sys2Proof.Machine.execFrameReceive p bytes line s
  | .pauseFrame p quanta => Sys2Proof.Machine.execPauseFrame p quanta s
  | .pfcFrame p mask quanta => Sys2Proof.Machine.execPfcFrame p mask quanta s
  | .pauseExpire p prio => Sys2Proof.Machine.execPauseExpire p prio s
  | .pauseRefresh p => Sys2Proof.Machine.execPauseRefresh p s
  | .linkUp p => Sys2Proof.Machine.execLinkUp p s
  | .linkDown p why => Sys2Proof.Machine.execLinkDown p why s
  | .parseFrame engine p stPar => Sys2Proof.Machine.execParseFrame engine p stPar s
  | .clsLookup p par => Sys2Proof.Machine.execClsLookup p par s
  | .txtsPop p => Sys2Proof.Machine.execTxtsPop p s
  | .ppsInEdge => Sys2Proof.Machine.execPpsInEdge s
  | .ppsOutEdge => Sys2Proof.Machine.execPpsOutEdge s
  | .pseLoad e => Sys2Proof.Machine.execPseLoad e s
  | .pseCheck e => Sys2Proof.Machine.execPseCheck e s
  | .pseLoadDone e poison => Sys2Proof.Machine.execPseLoadDone e poison s
  | .clsInsert => Sys2Proof.Machine.execClsInsert s
  | .clsDelete => Sys2Proof.Machine.execClsDelete s
  | .clsUpdate => Sys2Proof.Machine.execClsUpdate s
  | .clsRead => Sys2Proof.Machine.execClsRead s
  | .clsReadAt => Sys2Proof.Machine.execClsReadAt s
  | .clsFlush => Sys2Proof.Machine.execClsFlush s
  | .clsCmdDone => Sys2Proof.Machine.execClsCmdDone s
  | .ageVisit bucket => Sys2Proof.Machine.execAgeVisit bucket s
  | .bpmAlloc pool group => Sys2Proof.Machine.execBpmAlloc pool group s
  | .bpmAllocReq pool group => Sys2Proof.Machine.execBpmAllocReq pool group s
  | .bpmFree req pool group addr => Sys2Proof.Machine.execBpmFree req pool group addr s
  | .bpmPoolInit => Sys2Proof.Machine.execBpmPoolInit s
  | .bpmInitDone pool => Sys2Proof.Machine.execBpmInitDone pool s
  | .grpMinWrite min => Sys2Proof.Machine.execGrpMinWrite min s
  | .packetise c => Sys2Proof.Machine.execPacketise c s
  | .replWalk p => Sys2Proof.Machine.execReplWalk p s
  | .egressDequeue p err => Sys2Proof.Machine.execEgressDequeue p err s
  | .rtxRequest => Sys2Proof.Machine.execRtxRequest s
  | .rtxWindowExpire c => Sys2Proof.Machine.execRtxWindowExpire c s
  | .replAdd idx => Sys2Proof.Machine.execReplAdd idx s
  | .replRemove idx => Sys2Proof.Machine.execReplRemove idx s
  | .replRead idx => Sys2Proof.Machine.execReplRead idx s
  | .replUpdate idx => Sys2Proof.Machine.execReplUpdate idx s
  | .queueBind p => Sys2Proof.Machine.execQueueBind p s
  | .queueUnbind p => Sys2Proof.Machine.execQueueUnbind p s
  | .win2Access off op => Sys2Proof.Machine.execWin2Access off op s
  | .doorbellWrite c r count => Sys2Proof.Machine.execDoorbellWrite c r count s
  | .ringEnable c r => Sys2Proof.Machine.execRingEnable c r s
  | .ringDisable c r => Sys2Proof.Machine.execRingDisable c r s
  | .ringAbort c r => Sys2Proof.Machine.execRingAbort c r s
  | .abortDone c r moved => Sys2Proof.Machine.execAbortDone c r moved s
  | .descFetch c r data => Sys2Proof.Machine.execDescFetch c r data s
  | .descStart e r => Sys2Proof.Machine.execDescStart e r s
  | .descWriteback e r x => Sys2Proof.Machine.execDescWriteback e r x s
  | .cplTimeout e r moved => Sys2Proof.Machine.execCplTimeout e r moved s
  | .perstAssert => Sys2Proof.Machine.execPerstAssert s
  | .flr => Sys2Proof.Machine.execFlr s
  | .pcieLinkUp width speed => Sys2Proof.Machine.execPcieLinkUp width speed s
  | .msixUnmask v => Sys2Proof.Machine.execMsixUnmask v s
  | .ltrWrite data => Sys2Proof.Machine.execLtrWrite data s
  | .l1IdleExpire => Sys2Proof.Machine.execL1IdleExpire s
  | .cmoClean rq n dirty => Sys2Proof.Machine.execCmoClean rq n dirty s
  | .cmoInval rq n => Sys2Proof.Machine.execCmoInval rq n s
  | .cmoCleanInval rq n dirty => Sys2Proof.Machine.execCmoCleanInval rq n dirty s
  | .cmoInvalI rq n => Sys2Proof.Machine.execCmoInvalI rq n s
  | .cmoDone n => Sys2Proof.Machine.execCmoDone n s
  | .coreSleep n => Sys2Proof.Machine.execCoreSleep n s
  | .coreOffline n => Sys2Proof.Machine.execCoreOffline n s
  | .coreOnline n => Sys2Proof.Machine.execCoreOnline n s
  | .dbellRing rq n => Sys2Proof.Machine.execDbellRing rq n s
  | .hccTimerFire n => Sys2Proof.Machine.execHccTimerFire n s
  | .intRouteWrite kind vector => Sys2Proof.Machine.execIntRouteWrite kind vector s
  | .extInputChange n high => Sys2Proof.Machine.execExtInputChange n high s
  | .extFilterSettle n => Sys2Proof.Machine.execExtFilterSettle n s
  | .mbxClsInsert seq => Sys2Proof.Machine.execMbxClsInsert seq s
  | .mbxClsDelete seq => Sys2Proof.Machine.execMbxClsDelete seq s
  | .mbxClsRead seq => Sys2Proof.Machine.execMbxClsRead seq s
  | .mbxMcastJoin seq => Sys2Proof.Machine.execMbxMcastJoin seq s
  | .mbxMcastLeave seq => Sys2Proof.Machine.execMbxMcastLeave seq s
  | .mbxPortAddr seq => Sys2Proof.Machine.execMbxPortAddr seq s
  | .mbxRepl seq => Sys2Proof.Machine.execMbxRepl seq s
  | .mbxVersion seq => Sys2Proof.Machine.execMbxVersion seq s
  | .mbxDone => Sys2Proof.Machine.execMbxDone s
  | .ntfPost rq => Sys2Proof.Machine.execNtfPost rq s
  | .ntfAck => Sys2Proof.Machine.execNtfAck s
  | .uartTxWrite rq byte => Sys2Proof.Machine.execUartTxWrite rq byte s
  | .uartRxRead => Sys2Proof.Machine.execUartRxRead s
  | .uartRxByte byte => Sys2Proof.Machine.execUartRxByte byte s
  | .faultCollect src inst master acc addr => Sys2Proof.Machine.execFaultCollect src inst master acc addr s
  | .fltAck classes => Sys2Proof.Machine.execFltAck classes s
  | .fltInject src => Sys2Proof.Machine.execFltInject src s
  | .wdgStart n => Sys2Proof.Machine.execWdgStart n s
  | .wdgKick rq n key => Sys2Proof.Machine.execWdgKick rq n key s
  | .wdgExpire n => Sys2Proof.Machine.execWdgExpire n s
  | .patrolScrub found => Sys2Proof.Machine.execPatrolScrub found s
  | .sramScrub array off found => Sys2Proof.Machine.execSramScrub array off found s
  | .calStart hmc => Sys2Proof.Machine.execCalStart hmc s
  | .calCmdAbort => Sys2Proof.Machine.execCalCmdAbort s
  | .calGatherDone masks => Sys2Proof.Machine.execCalGatherDone masks s
  | .calTimeout => Sys2Proof.Machine.execCalTimeout s
  | .calOppHoldExpire => Sys2Proof.Machine.execCalOppHoldExpire s
  | .sensorRead temps rails => Sys2Proof.Machine.execSensorRead temps rails s
  | .pmbSendByte addr code pec => Sys2Proof.Machine.execPmbSendByte addr code pec s
  | .pmbWriteByte addr code pec => Sys2Proof.Machine.execPmbWriteByte addr code pec s
  | .pmbWriteWord addr code pec => Sys2Proof.Machine.execPmbWriteWord addr code pec s
  | .pmbReadByte addr code pec => Sys2Proof.Machine.execPmbReadByte addr code pec s
  | .pmbReadWord addr code pec => Sys2Proof.Machine.execPmbReadWord addr code pec s
  | .pmbDone r => Sys2Proof.Machine.execPmbDone r s
  | .pmbStretchTimeout => Sys2Proof.Machine.execPmbStretchTimeout s
  | .tlmSnapshot core => Sys2Proof.Machine.execTlmSnapshot core s
  | .antMeasure dom => Sys2Proof.Machine.execAntMeasure dom s
  | .measDone dom m => Sys2Proof.Machine.execMeasDone dom m s
  | .sparePromotion e => Sys2Proof.Machine.execSparePromotion e s
  | .eyeSweepSchedule => Sys2Proof.Machine.execEyeSweepSchedule s
  | .marginPlanRound r => Sys2Proof.Machine.execMarginPlanRound r s
  | .porstAssert => Sys2Proof.Machine.execPorstAssert s
  | .porstRelease gpio => Sys2Proof.Machine.execPorstRelease gpio s
  | .deviceReset rq key => Sys2Proof.Machine.execDeviceReset rq key s
  | .deviceResetRelease => Sys2Proof.Machine.execDeviceResetRelease s
  | .lockLoss dom => Sys2Proof.Machine.execLockLoss dom s
  | .refclkLoss ref => Sys2Proof.Machine.execRefclkLoss ref s
  | .clkOppWrite dom vset => Sys2Proof.Machine.execClkOppWrite dom vset s
  | .clkOppDone dom => Sys2Proof.Machine.execClkOppDone dom s
  | .sdScan files => Sys2Proof.Machine.execSdScan files s
  | .sdCardRemove written => Sys2Proof.Machine.execSdCardRemove written s
  | .downloadDone file => Sys2Proof.Machine.execDownloadDone file s
  | .status m seq => Sys2Proof.Machine.execStatus m seq s
  | .scan m seq => Sys2Proof.Machine.execScan m seq s
  | .activate m seq => Sys2Proof.Machine.execActivate m seq s
  | .handoverReady m seq => Sys2Proof.Machine.execHandoverReady m seq s
  | .handoverTimeout => Sys2Proof.Machine.execHandoverTimeout s
  | .ready m seq => Sys2Proof.Machine.execReady m seq s
  | .fwStartTimeout => Sys2Proof.Machine.execFwStartTimeout s
  | .confirm m seq period => Sys2Proof.Machine.execConfirm m seq period s
  | .revert m seq => Sys2Proof.Machine.execRevert m seq s
  | .restart m seq => Sys2Proof.Machine.execRestart m seq s
  | .loadComponents m seq => Sys2Proof.Machine.execLoadComponents m seq s
  | .norCopy m seq => Sys2Proof.Machine.execNorCopy m seq s
  | .norProg m seq fails => Sys2Proof.Machine.execNorProg m seq fails s
  | .norErase m seq fails => Sys2Proof.Machine.execNorErase m seq fails s
  | .dbgPassword m seq => Sys2Proof.Machine.execDbgPassword m seq s
  | .dbgChallenge m seq => Sys2Proof.Machine.execDbgChallenge m seq s
  | .dbgResponse m seq => Sys2Proof.Machine.execDbgResponse m seq s
  | .dbgLock m seq => Sys2Proof.Machine.execDbgLock m seq s
  | .nonceExpire => Sys2Proof.Machine.execNonceExpire s
  | .puntedPacket q a => Sys2Proof.Machine.execPuntedPacket q a s
  | .cellTime err => Sys2Proof.Machine.execCellTime err s
  | .commandSlot n pc qpar => Sys2Proof.Machine.execCommandSlot n pc qpar s
  | .tokenUpdate => Sys2Proof.Machine.execTokenUpdate s
  | .synthesiserRelock dom => Sys2Proof.Machine.execSynthesiserRelock dom s
  | .perstRelease => Sys2Proof.Machine.execPerstRelease s
  | .downloadFailed reason written => Sys2Proof.Machine.execDownloadFailed reason written s
  | .uartByteSent => Sys2Proof.Machine.execUartByteSent s
  | .debugHalt n => Sys2Proof.Machine.execDebugHalt n s
  | .debugResume n => Sys2Proof.Machine.execDebugResume n s
  | .extest balls => Sys2Proof.Machine.execExtest balls s
  | .linkErrorReplay => Sys2Proof.Machine.execLinkErrorReplay s
  | .malformedTlp => Sys2Proof.Machine.execMalformedTlp s
  | .unexpectedCompletion => Sys2Proof.Machine.execUnexpectedCompletion s
  | .win4Access off op => Sys2Proof.Machine.execWin4Access off op s
  | .pcieConfigWrite w => Sys2Proof.Machine.execPcieConfigWrite w s

end Sys2Proof.Machine
end

