-- ==== Sys2Proof/Safety.lean ====
section
/-!
DEFINITION. What counts as a sound state and a safe run: the invariant the claims use, and runs that stop nowhere.
-/

namespace Sys2Proof.Machine

/-- A sound state: the three memories in canonical form, no memory write left posted between commands, and a device time that its
counter can hold. -/
structure State.Sound (s : State) : Prop where
  mem : s.mem.wf
  posted : s.dev.posted = []
  time : s.time < 2 ^ 88

/-- Out of reset and between commands, with device `d`: where the block takes commands. -/
structure State.Ready (s : State) (d : Dev) : Prop where
  dev : s.dev = d
  rst : d.sec.rst = 0
  posted : d.posted = []

/-- The state with another device, and nothing else changed: memories, device time and queue are as they were. -/
def State.withDev (s : State) (d : Dev) : State := { s with dev := d }

/-- What a command sees of the machine beside the device. -/
def State.env (s : State) : Env := ⟨s.now, s.mem⟩

/-- The state after a command that leaves device `d`: the memory writes it posted are carried out, device time and queue are as they
were. -/
def State.after (s : State) (d : Dev) : State := s.act fun _ _ => d

/-- The pages of the blocks whose register writes have no effect beyond their registers. -/
def plainPage : Pg → Bool
  | .GLB | .WDP | .RCT | .PSEC | .PSE | .CLS0 | .CLS1 | .CLS2 | .CLS3 | .BPM | .EGS | .ARB | .BGS | .ANT | .CLK => true
  | _ => false

/-- `n` steps from a state stop at no fault and no refusal. -/
def State.runsFor : Nat → State → Prop
  | 0, _ => True
  | n + 1, s => ∃ t, step s = .next t ∧ t.runsFor n

end Sys2Proof.Machine
end

