-- ==== Sys2Proof/WellFormed.lean ====
section
/-!
DEFINITION. Which commands are well formed: offsets that lie in WIN0 and are aligned, pages that exist, data that fits its register,
and lists of the length the device reads.  The machine gives every command a meaning; a claim may ask for a well-formed one.
-/

namespace Sys2Proof

open Sys2Proof.Machine

/-- A word-aligned offset of WIN0. -/
def wordAt (off : Nat) : Bool := off % 4 == 0 && off < win0Size

/-- A word-aligned offset in a page. -/
def inPage (off : Nat) : Bool := wordAt off && (pageOf off).isSome

/-- The address of a page. -/
def isPage (page : Nat) : Bool := page % 0x1000 == 0 && (pageOf page).isSome

/-- A host access to WIN2 or WIN4 has 1 byte at least and a PCIe payload at most. -/
def winOpGood : WinOp → Bool
  | .read n => 1 ≤ n && n ≤ 4096
  | .write bs _ => 1 ≤ bs.length && bs.length ≤ 4096

/-- The command is well formed. -/
def Instr.wf : Instr → Bool
  | .registerWrite _ off wide data => wordAt off && data < (if wide then 2 ^ 64 else 2 ^ 32) && (!wide || off % 8 == 0)
  | .holeAccess _ off => off < win0Size && (pageOf off).isNone
  | .partialWrite off => off < win0Size
  | .oversizeHostAccess _ off => off < win0Size
  | .reg64LowRead r => (r.width == 1 || r.width == 2 || r.width == 4 || r.width == 8) && r.off % r.width == 0 && inPage (r.off / 4 * 4)
  | .reg64LowWrite _ off data => inPage off && data < 2 ^ 32
  | .reg64HighWrite _ off data => inPage off && data < 2 ^ 32
  | .evtSet p bits => isPage p.page && bits < 2 ^ 32
  | .pageEnable page _ => isPage page
  | .softReset page => isPage page
  | .softResetComplete page => isPage page
  | .freeze page _ => isPage page
  | .wrapHold p _ => isPage p.page
  | .timeLoad => true
  | .timeStep => true
  | .configure _ => true
  | .openChannel _ => true
  | .drain _ => true
  | .abort _ => true
  | .close _ => true
  | .cmdDone _ _ => true
  | .drainComplete _ => true
  | .encForceIrap _ => true
  | .ingestUnpack _ _ => true
  | .sourceDeadline _ => true
  | .stillTimer _ => true
  | .holdCmdEnter _ => true
  | .holdCmdRelease _ => true
  | .holdCmdStillNow _ => true
  | .jobIssue _ => true
  | .rowQuantiser _ _ _ => true
  | .jobCommit _ _ => true
  | .jobFault _ _ _ _ => true
  | .jobWatchdog _ _ => true
  | .genAssignAll _ => true
  | .genAssignChn _ _ => true
  | .admitBudgetWrite _ mpcs => mpcs < 2 ^ 20
  | .rctCtxCommit _ => true
  | .decodePacket _ _ => true
  | .jbTimeout _ => true
  | .decOutRdWrite _ _ _ => true
  | .entropyJobStart _ => true
  | .followResume _ _ _ _ => true
  | .livePreempt _ => true
  | .entropyJobEnd _ _ => true
  | .machineCheck _ kind _ _ => kind.val != 0
  | .eneMove _ _ => true
  | .eneUcStore _ hi => hi < 2 ^ 16
  | .eneSelftest _ => true
  | .eneSelftestDone _ _ => true
  | .eneRelease _ => true
  | .eneRetire _ => true
  | .pxeUcLoad _ _ => true
  | .pxeUcCheck _ _ => true
  | .pxeUcInvalidate _ _ => true
  | .pxeUcDone _ _ => true
  | .pxeQuar _ => true
  | .pxeSelftest _ => true
  | .pxeSelftestDone _ _ => true
  | .pxeRelease _ => true
  | .pxeRetire _ => true
  | .oppDone _ => true
  | .hbmRequest n r => hbmReqGood n r
  | .arbGrant _ _ => true
  | .lockRelease _ => true
  | .arbWdogExpire _ => true
  | .arbDrained _ => true
  | .quotaWindowEnd _ => true
  | .slotTableWrap _ => true
  | .hbmReadReturn _ _ _ => true
  | .refreshDue _ _ _ => true
  | .stackTempRead _ _ => true
  | .trimApply _ => true
  | .trimInForce _ => true
  | .frameReceive _ bytes _ => !bytes.isEmpty && bytes.length < 2 ^ 16
  | .pauseFrame _ _ => true
  | .pfcFrame _ _ quanta => quanta.length == 8
  | .pauseExpire _ _ => true
  | .pauseRefresh _ => true
  | .linkUp _ => true
  | .linkDown _ _ => true
  | .parseFrame _ _ _ => true
  | .clsLookup _ _ => true
  | .txtsPop _ => true
  | .ppsInEdge => true
  | .ppsOutEdge => true
  | .pseLoad _ => true
  | .pseCheck _ => true
  | .pseLoadDone _ _ => true
  | .clsInsert => true
  | .clsDelete => true
  | .clsUpdate => true
  | .clsRead => true
  | .clsReadAt => true
  | .clsFlush => true
  | .clsCmdDone => true
  | .ageVisit _ => true
  | .bpmAlloc _ _ => true
  | .bpmAllocReq _ _ => true
  | .bpmFree _ _ _ _ => true
  | .bpmPoolInit => true
  | .bpmInitDone _ => true
  | .grpMinWrite min => min < 2 ^ 21
  | .packetise _ => true
  | .replWalk _ => true
  | .egressDequeue _ _ => true
  | .rtxRequest => true
  | .rtxWindowExpire _ => true
  | .replAdd _ => true
  | .replRemove _ => true
  | .replRead _ => true
  | .replUpdate _ => true
  | .queueBind _ => true
  | .queueUnbind _ => true
  | .win2Access _ op => winOpGood op
  | .doorbellWrite _ _ _ => true
  | .ringEnable _ _ => true
  | .ringDisable _ _ => true
  | .ringAbort _ _ => true
  | .abortDone _ _ _ => true
  | .descFetch _ _ data => data.length == 32
  | .descStart _ _ => true
  | .descWriteback _ _ _ => true
  | .cplTimeout _ _ _ => true
  | .perstAssert => true
  | .flr => true
  | .pcieLinkUp _ _ => true
  | .msixUnmask _ => true
  | .ltrWrite _ => true
  | .l1IdleExpire => true
  | .cmoClean _ _ _ => true
  | .cmoInval _ _ => true
  | .cmoCleanInval _ _ _ => true
  | .cmoInvalI _ _ => true
  | .cmoDone _ => true
  | .coreSleep _ => true
  | .coreOffline _ => true
  | .coreOnline _ => true
  | .dbellRing _ _ => true
  | .hccTimerFire _ => true
  | .intRouteWrite _ _ => true
  | .extInputChange _ _ => true
  | .extFilterSettle _ => true
  | .mbxClsInsert _ => true
  | .mbxClsDelete _ => true
  | .mbxClsRead _ => true
  | .mbxMcastJoin _ => true
  | .mbxMcastLeave _ => true
  | .mbxPortAddr _ => true
  | .mbxRepl _ => true
  | .mbxVersion _ => true
  | .mbxDone => true
  | .ntfPost _ => true
  | .ntfAck => true
  | .uartTxWrite _ _ => true
  | .uartRxRead => true
  | .uartRxByte _ => true
  | .faultCollect src _ _ _ addr => (fltSource src).isSome && addr < 2 ^ 48
  | .fltAck _ => true
  | .fltInject _ => true
  | .wdgStart _ => true
  | .wdgKick _ _ _ => true
  | .wdgExpire _ => true
  | .patrolScrub _ => true
  | .sramScrub array off _ => off < scrubSize array
  | .calStart _ => true
  | .calCmdAbort => true
  | .calGatherDone masks => masks.length == 20 && masks.all (· < 2 ^ 64)
  | .calTimeout => true
  | .calOppHoldExpire => true
  | .sensorRead temps rails => temps.length == 16 && rails.length == 8
  | .pmbSendByte _ _ _ => true
  | .pmbWriteByte _ _ _ => true
  | .pmbWriteWord _ _ _ => true
  | .pmbReadByte _ _ _ => true
  | .pmbReadWord _ _ _ => true
  | .pmbDone _ => true
  | .pmbStretchTimeout => true
  | .tlmSnapshot core => core.length == 4
  | .antMeasure _ => true
  | .measDone _ m => m.slacks.length == 8 && m.stressed < 2 ^ 32 && m.unstressed < 2 ^ 32
  | .sparePromotion _ => true
  | .eyeSweepSchedule => true
  | .marginPlanRound _ => true
  | .porstAssert => true
  | .porstRelease _ => true
  | .deviceReset _ _ => true
  | .deviceResetRelease => true
  | .lockLoss _ => true
  | .refclkLoss _ => true
  | .clkOppWrite _ _ => true
  | .clkOppDone _ => true
  | .sdScan files => files.length ≤ 32 && files.all (fun f => f.header.length == 512)
  | .sdCardRemove _ => true
  | .downloadDone file => !file.isEmpty
  | .status _ _ => true
  | .scan _ _ => true
  | .activate _ _ => true
  | .handoverReady _ _ => true
  | .handoverTimeout => true
  | .ready _ _ => true
  | .fwStartTimeout => true
  | .confirm _ _ _ => true
  | .revert _ _ => true
  | .restart _ _ => true
  | .loadComponents _ _ => true
  | .norCopy _ _ => true
  | .norProg _ _ _ => true
  | .norErase _ _ _ => true
  | .dbgPassword _ _ => true
  | .dbgChallenge _ _ => true
  | .dbgResponse _ _ => true
  | .dbgLock _ _ => true
  | .nonceExpire => true
  | .puntedPacket _ _ => true
  | .cellTime _ => true
  | .commandSlot _ _ _ => true
  | .tokenUpdate => true
  | .synthesiserRelock _ => true
  | .perstRelease => true
  | .downloadFailed _ _ => true
  | .uartByteSent => true
  | .debugHalt _ => true
  | .debugResume _ => true
  | .extest _ => true
  | .linkErrorReplay => true
  | .malformedTlp => true
  | .unexpectedCompletion => true
  | .win4Access off op => off.val % 4 == 0 && winOpGood op
  | .pcieConfigWrite _ => true

end Sys2Proof
end

