-- ==== Sys2Proof/Certificates/Slice0/Obligations.lean ====
section
/-!
DEFINITION. The statements for the provers.  Each is over every state, unless it says otherwise: `s.Ready d` says that the machine is out of
reset and between commands, with device `d`.  `s.withDev d` is the state with another device and nothing else changed, so a statement that a
command answers it is its frame as well: memories, device time and the queue stay, and of the device only what the expression writes
changes.  `s.after d` is the same with the memory writes that `d` has posted carried out.
-/

open Sys2Proof Sys2Proof.Machine

/-! The machine as a whole. -/

/-- The command at the front of the queue is carried out on the state with the queue's rest. -/
def Obligations.StepRunsFrontCommand : Prop :=
  ∀ (s : State) (c : Instr) (r : List Instr), s.pending = c :: r → step s = exec c { s with pending := r }

/-- R42 and R320: with no command waiting, outside a reset, device time advances by GLB_TIME_INC modulo 2^88 (64 bits of ns, 24 of
fraction), and PPS_OUT falls at its time; all else stays.  While the clock of domain 211 is stopped (R512) time stands.  That a tick passes on
an empty queue is the model's choice (log entry 2). -/
def Obligations.EmptyQueueTicksDeviceTime : Prop :=
  ∀ (s : State) (d : Dev), s.Ready d → s.pending = [] → (d.clockRuns 211 = false → step s = .next s) ∧ (d.clockRuns 211 = true →
    (d.net.ppsEnd = none → step s = .next { s with time := (s.time + d.rd GLB_TIME_INC.INC) % 2 ^ 88 }) ∧
    (∀ e, d.net.ppsEnd = some e → e > (s.time + d.rd GLB_TIME_INC.INC) % 2 ^ 88 / 2 ^ 24 →
      step s = .next { s with time := (s.time + d.rd GLB_TIME_INC.INC) % 2 ^ 88 }) ∧
    (∀ e, d.net.ppsEnd = some e → e ≤ (s.time + d.rd GLB_TIME_INC.INC) % 2 ^ 88 / 2 ^ 24 →
      step s = .next { s with
        time := (s.time + d.rd GLB_TIME_INC.INC) % 2 ^ 88
        dev := (d.upNet (fun n => { n with ppsEnd := none })).send (.ppsOut false) }))

/-- The step keeps every sound state sound: the three memories stay in canonical form, no write is left posted, device time fits its
counter. -/
def Obligations.StepKeepsSound : Prop := ∀ s t : State, s.Sound → step s = .next t → t.Sound

/-- Right after reset the machine is sound, and the registers whose reset values R24, R39, R40, R42, R72, R418 and R527 give hold them.
The model's own choices and inferences in it: log entries 145, 147, and 216 for the instances in PAGE_ID of INT and FLT. -/
def Obligations.ResetStateIsAsStated : Prop :=
  State.reset.Sound ∧ State.reset.pending = [] ∧
  State.reset.dev.rd GLB_TIME_INC.INC = 0x04000000 ∧
  State.reset.dev.word 0x40 = 0x025601A1 ∧
  State.reset.dev.word 0x44 = 0x4B480256 ∧
  (∀ c : Fin 256, State.reset.dev.chState c = 0) ∧
  (∀ n : Fin 4, State.reset.dev.rd (HCC_STS.STATE.on n) = 2) ∧
  State.reset.dev.rd rstCause = 1 ∧
  (∀ p ∈ [(0x801000, 0x00500001), (0x802000, 0x00500002), (0x803000, 0x00500003), (0x811000, 0x00510001)],
    State.reset.dev.read32 0 p.1 = BitVec.ofNat 32 p.2) ∧
  State.reset.dev.enabled pageGLB = true ∧ State.reset.dev.enabled (pageCHN 0) = false

/-- No command is refused. R536: with REFCLK_SYS or the crystal lost outside a power-on reset no statement of the manual applies until
PORST_N is asserted, and the machine stops; in a power-on reset the loss does nothing. No other command stops, in any state. The model's
own choices and inferences in it: log entry 153. -/
def Obligations.OnlyLostReferencesStop : Prop :=
  ∀ (c : Instr) (s : State),
    (c = .refclkLoss .sys ∨ c = .refclkLoss .xtal → s.dev.sec.rst ≠ 1 → exec c s = .fault .outsideConditions) ∧
    (c = .refclkLoss .sys ∨ c = .refclkLoss .xtal → s.dev.sec.rst = 1 → exec c s = .next s) ∧
    (c ≠ .refclkLoss .sys → c ≠ .refclkLoss .xtal → ∃ t, exec c s = .next t)

/-- No command touches the queue; and of all commands only TIME_LOAD, TIME_STEP, a relock of the time clock that either waited for, and the
resets that reset the counter change device time (R28, R39, R42). The model's own choices and inferences in it: log entry 5. -/
def Obligations.CommandsLeaveTheQueueAndDeviceTime : Prop :=
  ∀ (c : Instr) (s t : State), exec c s = .next t → t.pending = s.pending ∧
    (c ≠ .timeLoad → c ≠ .timeStep → (∀ dom, c ≠ .synthesiserRelock dom) → c ≠ .porstAssert → (∀ rq key, c ≠ .deviceReset rq key) → t.time = s.time)

/-- R520: while PORST_N is low nothing but its pins acts: every other command leaves the machine as it is. The model's own choices and
inferences in it: log entry 146. -/
def Obligations.PowerOnResetHoldsEverything : Prop :=
  ∀ (c : Instr) (s : State), s.dev.sec.rst = 1 →
    c ≠ .porstAssert → (∀ g, c ≠ .porstRelease g) → c ≠ .perstAssert → c ≠ .perstRelease → (∀ b, c ≠ .extest b) →
    exec c s = .next s

/-- R520: in a device reset reads of WIN0 return 0, and every other command of the blocks that it resets leaves the machine as it is. The
model's own choices and inferences in it: log entries 95, 146. -/
def Obligations.DeviceResetHoldsTheBlocks : Prop :=
  ∀ (c : Instr) (s : State), s.dev.sec.rst = 2 →
    c ≠ .porstAssert → (∀ g, c ≠ .porstRelease g) → c ≠ .perstAssert → c ≠ .perstRelease → (∀ b, c ≠ .extest b) →
    c ≠ .deviceResetRelease → c ≠ .flr → (∀ w v, c ≠ .pcieLinkUp w v) → (∀ w, c ≠ .pcieConfigWrite w) → (∀ r, c ≠ .refclkLoss r) →
    ((∃ off, c = .holeAccess false off ∨ c = .oversizeHostAccess false off) ∨ c = .uartRxRead →
      exec c s = .next (s.after (s.dev.send (.readData [0, 0, 0, 0] false)))) ∧
    (∀ r, c = .reg64LowRead r → exec c s = .next (s.after (s.dev.send (.readData (natLE r.width 0) false)))) ∧
    ((∀ r, c ≠ .reg64LowRead r) ∧ (∀ off, c ≠ .holeAccess false off ∧ c ≠ .oversizeHostAccess false off) ∧ c ≠ .uartRxRead →
      exec c s = .next s)

/-! Register pages (R20 to R42). -/

/-- R20, R33, R34: what the accesses to WIN0 do. A write of a register of one word is `Dev.writeWord`, the fields under their own
qualifiers; an aligned write of 8 bytes is both words; an access to a hole reads 0, writes nothing and is recorded; so is a write that
does not cover its word, and a host access of more than 8 bytes. A 32-bit read of a low word holds the high word and returns the low one,
the next read of the high word returns what is held, an aligned read of 8 bytes returns both words from one instant, and a read of 1 or 2
bytes the bytes addressed; a write of a low word is held, and the register takes both words with the high one. The model's own choices and inferences in it: log
entries 96, 97, 98. -/
def Obligations.AccessesToWin0 : Prop :=
  ∀ (s : State) (d : Dev), s.Ready d →
    (∀ rq a data, a % 4 = 0 → pageOf a ≠ none → halfAt a = .single →
      exec (.registerWrite rq a false data) s = .next (s.after (d.writeWord s.now rq a (a % 0x1000) (BitVec.ofNat 32 data)))) ∧
    (∀ rq a data, a % 4 = 0 →
      exec (.registerWrite rq a true data) s = .next (s.after
        ((d.busWrite s.now rq a (BitVec.ofNat 32 data)).busWrite s.now rq (a + 4) (BitVec.ofNat 32 (data / 2 ^ 32))))) ∧
    (∀ off, pageOf off = none → exec (.holeAccess true off) s = .next (s.withDev (d.recordAccess true false off))) ∧
    (∀ off, pageOf off = none → exec (.holeAccess false off) s =
      .next (s.withDev ((d.recordAccess true false off).send (.readData [0, 0, 0, 0] false)))) ∧
    (∀ off, pageOf off ≠ none → exec (.partialWrite off) s = .next (s.withDev (d.recordAccess false true off))) ∧
    (∀ off, pageOf off = none → exec (.partialWrite off) s = .next (s.withDev (d.recordAccess true true off))) ∧
    (∀ off, pageOf off ≠ none → exec (.oversizeHostAccess true off) s = .next (s.withDev (d.recordAccess false true off))) ∧
    (∀ off, pageOf off ≠ none → exec (.oversizeHostAccess false off) s =
      .next (s.withDev ((d.recordAccess false true off).send (.readData [0, 0, 0, 0] false)))) ∧
    (∀ a pg i, a % 4 = 0 → pageOf a = some (pg, i) → isLowWord pg (a % 0x1000) = true →
      exec (.reg64LowRead ⟨a, 4⟩) s = .next (s.withDev ({ d with
        readHeld := storeIns (a + 4) (d.read32 s.now (a + 4)) (d.readHeld.filter (fun e => pageBase e.1 != pageBase a)) }.send
        (.readData (natLE 4 (d.read32 s.now a).toNat) false)))) ∧
    (∀ a pg i, a % 4 = 0 → pageOf a = some (pg, i) → isLowWord pg (a % 0x1000) = false →
      (∀ v, storeFind d.readHeld a = some v → exec (.reg64LowRead ⟨a, 4⟩) s =
        .next (s.withDev ({ d with readHeld := storeDel a d.readHeld }.send (.readData (natLE 4 v.toNat) false)))) ∧
      (storeFind d.readHeld a = none →
        exec (.reg64LowRead ⟨a, 4⟩) s = .next (s.withDev (d.send (.readData (natLE 4 (d.read32 s.now a).toNat) false))))) ∧
    (∀ off, off % 8 = 0 → pageOf off ≠ none → exec (.reg64LowRead ⟨off, 8⟩) s = .next (s.withDev (d.send
      (.readData (natLE 4 (d.read32 s.now off).toNat ++ natLE 4 (d.read32 s.now (off + 4)).toNat) false)))) ∧
    (∀ off width, width = 1 ∨ width = 2 → pageOf off ≠ none → storeFind d.readHeld (off / 4 * 4) = none →
      exec (.reg64LowRead ⟨off, width⟩) s = .next (s.withDev (d.send
        (.readData (((natLE 4 (d.read32 s.now (off / 4 * 4)).toNat).drop (off % 4)).take width) false)))) ∧
    (∀ rq a data, a % 4 = 0 → halfAt a = .low → mayWriteAt rq a = true →
      exec (.reg64LowWrite rq a data) s = .next (s.withDev { d with lowHeld := storeIns a (BitVec.ofNat 32 data) d.lowHeld })) ∧
    (∀ rq a data low, a % 4 = 0 → halfAt a = .high → mayWriteAt rq a = true → storeFind d.lowHeld (a - 4) = some low →
      exec (.reg64HighWrite rq a data) s = .next (s.after
        (({ d with lowHeld := storeDel (a - 4) d.lowHeld }.writeWord s.now rq (a - 4) (a % 0x1000) low).writeWord s.now rq a (a % 0x1000)
          (BitVec.ofNat 32 data))))

/-- R42: the recording rule.  An access that sets HOLE or PARTIAL records its offset where both were 0, and records nothing otherwise. -/
def Obligations.FirstBadAccessIsRecorded : Prop :=
  ∀ (s t : State) (d : Dev) (off : Nat) (c : Instr), s.Ready d →
    (c = .holeAccess true off ∨ c = .holeAccess false off ∨ c = .partialWrite off ∨ c = .oversizeHostAccess true off ∨
      c = .oversizeHostAccess false off) → (c = .holeAccess true off ∨ c = .holeAccess false off → pageOf off = none) →
    exec c s = .next t →
    (d.bit GLB_ACC_STS.HOLE = false → d.bit GLB_ACC_STS.PARTIAL = false → t.dev.rd GLB_ACC_ADDR.OFFSET = off % 2 ^ 32) ∧
    (d.bit GLB_ACC_STS.HOLE = true ∨ d.bit GLB_ACC_STS.PARTIAL = true → t.dev.rd GLB_ACC_ADDR.OFFSET = d.rd GLB_ACC_ADDR.OFFSET) ∧
    (t.dev.bit GLB_ACC_STS.HOLE = true ↔ d.bit GLB_ACC_STS.HOLE = true ∨ pageOf off = none) ∧
    (t.dev.bit GLB_ACC_STS.PARTIAL = true ↔ d.bit GLB_ACC_STS.PARTIAL = true ∨ (c ≠ .holeAccess true off ∧ c ≠ .holeAccess false off)) ∧
    (∀ k, k ≠ 0x80 → k ≠ 0x84 → t.dev.word k = d.word k) ∧ t.mem = s.mem ∧ t.time = s.time

/-- R24, R26, R28, R29, R36: the header of a page that is not fixed: events set for test, EN, SRST, FRZ and WHOLD. While the clock of the block
is stopped a write of EN, FRZ or WHOLD waits, and a soft reset does not complete; a requester that may not write the page changes nothing. The
model's own choices and inferences in it: log entries 99, 100, 102. -/
def Obligations.PageHeaderCommands : Prop :=
  ∀ (s : State) (d : Dev) (page : Nat) (pg : Pg) (i : Nat), s.Ready d → pageOf page = some (pg, i) →
    (∀ rq bits, mayWrite rq pg i 0x018 = true → exec (.evtSet ⟨rq, page⟩ bits) s = .next (s.withDev ((d.setWord (pageBase page + 0x010)
      (d.word (pageBase page + 0x010) ||| (BitVec.ofNat 32 bits &&& evtMask pg i))).sample (pageBase page)))) ∧
    (∀ rq bits, mayWrite rq pg i 0x018 = false → exec (.evtSet ⟨rq, page⟩ bits) s = .next s) ∧
    (pageFixed pg = false → d.enabled (pageBase page) = false → d.pageIdle pg i (pageBase page) = true → d.pageClocked pg i = true →
      exec (.pageEnable page true) s = .next (s.after ((d.wr (PAGE_CTL.EN.page (pageBase page)) 1).resumePage s.env pg i))) ∧
    (pageFixed pg = false → d.enabled (pageBase page) = true → d.pageIdle pg i (pageBase page) = true → d.pageClocked pg i = true →
      exec (.pageEnable page false) s =
        .next (s.after (((d.wr (PAGE_CTL.EN.page (pageBase page)) 0).losePage pg i).resumePage s.env pg i))) ∧
    (∀ en, pageFixed pg = false → d.enReads pg i (pageBase page) ≠ en → d.pageIdle pg i (pageBase page) = true → d.pageClocked pg i = false →
      exec (.pageEnable page en) s =
        .next (s.withDev (d.holdLive (pageBase page + 0x008) 1 (BitVec.ofNat 32 (ofBool en)) 0))) ∧
    (∀ en, pageFixed pg = false → d.enReads pg i (pageBase page) ≠ en → d.pageIdle pg i (pageBase page) = false →
      exec (.pageEnable page en) s = .next (s.withDev (d.ignored (pageBase page) 0x008))) ∧
    (pageFixed pg = false → d.bit (PAGE_CTL.SRST.page (pageBase page)) = false → d.pageIdle pg i (pageBase page) = true →
      (pg = .CHN → d.chState i = 0) →
      exec (.softReset page) s = .next (s.after ((d.wr (PAGE_CTL.SRST.page (pageBase page)) 1).losePage pg i))) ∧
    (d.bit (PAGE_CTL.SRST.page (pageBase page)) = true → d.pageClocked pg i = true →
      exec (.softResetComplete page) s = .next (s.after
        (((Dev.resetBlock d (d.resetPage (pageBase page)) pg i).wr (PAGE_CTL.SRST.page (pageBase page)) 0).resumePage s.env pg i))) ∧
    (d.pageClocked pg i = false → exec (.softResetComplete page) s = .next s) ∧
    (∀ frz, pageFixed pg = false → d.pageClocked pg i = false → exec (.freeze page frz) s =
      .next (s.withDev (d.holdLive (pageBase page + 0x008) 4 (BitVec.ofNat 32 (4 * ofBool frz)) 0))) ∧
    (pageFixed pg = false → d.pageClocked pg i = true →
      exec (.freeze page true) s = .next (s.withDev (d.wr (PAGE_CTL.FRZ.page (pageBase page)) 1)) ∧
      exec (.freeze page false) s = .next (s.after ((d.wr (PAGE_CTL.FRZ.page (pageBase page)) 0).resumePage s.env pg i))) ∧
    (∀ rq hold, mayWrite rq pg i 0x008 = false → exec (.wrapHold ⟨rq, page⟩ hold) s = .next s) ∧
    (∀ rq, mayWrite rq pg i 0x008 = true →
      (∀ hold, d.pageClocked pg i = false → exec (.wrapHold ⟨rq, page⟩ hold) s =
        .next (s.withDev (d.holdLive (pageBase page + 0x008) 8 (BitVec.ofNat 32 (8 * ofBool hold)) 0))) ∧
      (d.pageClocked pg i = true →
        exec (.wrapHold ⟨rq, page⟩ true) s = .next (s.withDev (d.wr (PAGE_CTL.WHOLD.page (pageBase page)) 1)) ∧
        (d.wPending (pageBase page) = false →
          exec (.wrapHold ⟨rq, page⟩ false) s = .next (s.withDev (d.wr (PAGE_CTL.WHOLD.page (pageBase page)) 0))) ∧
        (d.wPending (pageBase page) = true → exec (.wrapHold ⟨rq, page⟩ false) s =
          .next (s.after ((d.wr (PAGE_CTL.WHOLD.page (pageBase page)) 0).idleBoundary pg i (pageBase page))))))

/-- R27 to R31: a write of one register.  -L bits take what is written, W1C bits clear where 1 is written.  -I bits take it while IDLE
is 1; otherwise they keep their value, and a write that would change one is recorded in WIGN, with its offset where WIGN was 0.  Other
bits keep their value.  While the clock of the block is stopped -L and W1C bits wait instead (R28).  Stated for the pages whose register
writes have no effect beyond their registers. -/
def Obligations.FieldsAreWrittenByTheirQualifiers : Prop :=
  ∀ (s t : State) (d : Dev) (rq : Requester) (a data k : Nat) (pg : Pg) (i : Nat) (r : RegDesc), s.Ready d → a % 4 = 0 →
    pageOf a = some (pg, i) → plainPage pg = true → 0x040 ≤ a % 0x1000 → regDesc pg i (a % 0x1000) = some r → r.half = .single →
    d.keyOf a i r.bank = some k → exec (.registerWrite rq a false data) s = .next t →
    let fs := fieldsAt pg (a % 0x1000) (k / win0Size - 1) r.fields
    let v : Word := BitVec.ofNat 32 data
    let live := mergeWord (maskL fs) (d.word k) v &&& ~~~(v &&& maskC fs)
    (d.pageClocked pg i = true →
      (d.pageIdle pg i (pageBase a) = true → t.dev.word k = mergeWord (maskI fs) live v) ∧
      (d.pageIdle pg i (pageBase a) = false → t.dev.word k = live) ∧
      t.dev.word (pageBase a + 0x00C) = (if d.pageIdle pg i (pageBase a) = true ∨ live &&& maskI fs = v &&& maskI fs
        then d else d.ignored (pageBase a) (a % 0x1000)).word (pageBase a + 0x00C)) ∧
    (d.pageClocked pg i = false → t.dev.word k = d.word k ∧
      (storeGet (fun _ => (0, 0, 0)) t.dev.liveHeld k).1 &&& maskL fs = maskL fs ∧
      (storeGet (fun _ => (0, 0, 0)) t.dev.liveHeld k).2.1 &&& maskL fs = v &&& maskL fs ∧
      (storeGet (fun _ => (0, 0, 0)) t.dev.liveHeld k).2.2 &&& (v &&& maskC fs) = v &&& maskC fs) ∧
    (∀ j, j ≠ k → j ≠ pageBase a + 0x00C → t.dev.word j = d.word j) ∧ t.mem = s.mem ∧ t.time = s.time ∧ t.pending = s.pending

/-- R29: a write of -W bits leaves the value in force as it is and waits; the last value written is the one that waits.  Where nothing
else of the page waits, the page's next latch puts it in force; while WHOLD is 1 no latch does; and a soft reset discards it.  A SWAP of an arbiter's
slot table written 0 does not wait (R301). -/
def Obligations.WrapWritesWaitForTheirBoundary : Prop :=
  ∀ (s t : State) (d : Dev) (rq : Requester) (a data k : Nat) (pg : Pg) (i : Nat) (r : RegDesc), s.Ready d → a % 4 = 0 →
    pageOf a = some (pg, i) → plainPage pg = true → 0x040 ≤ a % 0x1000 → regDesc pg i (a % 0x1000) = some r → r.half = .single →
    maskL r.fields = 0 → maskI r.fields = 0 → maskC r.fields = 0 → maskW r.fields ≠ 0 →
    d.keyOf a i r.bank = some k → exec (.registerWrite rq a false data) s = .next t →
    (∀ j, t.dev.word j = d.word j) ∧
    (pg = .ARB → a % 0x1000 = 0x05C → data % 2 = 0 → d.wpend = [] → t.dev.wpend = []) ∧
    ((pg = .ARB → a % 0x1000 = 0x05C → data % 2 = 1) → t.dev.wPending (pageBase a) = true ∧
    (t.dev.pendingAt k).2 &&& maskW r.fields = BitVec.ofNat 32 data &&& maskW r.fields ∧
    (d.wPending (pageBase a) = false → d.pendingAt k = (0, 0) → d.bit (PAGE_CTL.WHOLD.page (pageBase a)) = false →
      (t.dev.latch (pageBase a)).word k = mergeWord (maskW r.fields) (d.word k) (BitVec.ofNat 32 data) ∧
      (t.dev.latch (pageBase a)).wPending (pageBase a) = false) ∧
    (d.bit (PAGE_CTL.WHOLD.page (pageBase a)) = true → t.dev.latch (pageBase a) = t.dev) ∧
    (t.dev.resetPage (pageBase a)).wPending (pageBase a) = false)

/-- R24, R29: a soft reset that completes returns every register of the page from the event words upwards to its reset value, discards the
pending -W writes, leaves EN, FRZ and WHOLD as they are, reads SRST 0, and touches no other page. SERVICE of a pixel engine, and the retirement
of a pixel or entropy engine, which lasts until device reset, stay (R196, R217). Stated for the pages of the blocks that hand nothing of theirs
to another page when they are reset; a page of DMA does so only where frames wait for its rings (R398). The model's own choices and inferences in it: log entries 9, 99, 181, 201. -/
def Obligations.SoftResetReturnsThePage : Prop :=
  ∀ (s t : State) (d : Dev) (page : Nat) (pg : Pg) (i : Nat), s.Ready d → pageOf page = some (pg, i) → page % 0x1000 = 0 →
    pg ∈ [Pg.PXE, .ENE, .HMC, .ARB, .PSE, .CLS0, .CLS1, .CLS2, .CLS3, .DMA, .BGS] →
    d.bit (PAGE_CTL.SRST.page page) = true → d.pageClocked pg i = true → exec (.softResetComplete page) s = .next t →
    (∀ k, keyPage k = page → 0x010 ≤ k % 0x1000 →
      (pg = .PXE → k ≠ (PXE_STS.SERVICE.on i).base ∧ (d.pxeService i = 3 → k ≠ (PXE_CTL.RETIRE.on i).base)) →
      (pg = .ENE → d.eneService i = 3 → k ≠ (ENE_STS.SERVICE.on i).base ∧ k ≠ (ENE_CTL.RETIRE.on i).base) → t.dev.word k = regReset k) ∧
    (pg = .PXE → t.dev.pxeService i = d.pxeService i ∧ (d.pxeService i = 3 → t.dev.bit (PXE_CTL.RETIRE.on i) = true)) ∧
    (pg = .ENE → d.eneService i = 3 → t.dev.eneService i = 3 ∧ t.dev.bit (ENE_CTL.RETIRE.on i) = true) ∧
    (∀ k, keyPage k ≠ page → (pg = .DMA → ∀ q < 8, d.hostq q = []) → t.dev.word k = d.word k) ∧
    t.dev.bit (PAGE_CTL.SRST.page page) = false ∧ t.dev.enabled page = d.enabled page ∧ t.dev.frozen page = d.frozen page ∧
    t.dev.bit (PAGE_CTL.WHOLD.page page) = d.bit (PAGE_CTL.WHOLD.page page) ∧ t.dev.wPending page = false

/-- R22, R40: PAGE_ID of every page shows its block's type code and the instance that the spec gives it (it gives none to pages 1 to 3 of INT
and page 1 of FLT), GLB_DEV_ID and GLB_HW_TYPE read what R40 gives, and a write of any of them changes nothing. -/
def Obligations.PageIdsAndIdentityAreFixed : Prop :=
  (∀ p ∈ [(0x000000, 0x00010000), (0x1A0000, 0x00130000), (0x1A1000, 0x00130001), (0x1A2000, 0x00130002), (0x1A3000, 0x00130003),
      (0x1B0000, 0x00140000), (0x1C0000, 0x00150000), (0x1D0000, 0x00160000), (0x1E0000, 0x00170000), (0x1F0000, 0x0012FFFF),
      (0x710000, 0x00410000), (0x800000, 0x00500000),
      (0x810000, 0x00510000), (0x820000, 0x00520000), (0x900000, 0x00600000), (0xC00000, 0x00700000),
      (0xD00000, 0x0071FFFF)], State.reset.dev.read32 0 p.1 = BitVec.ofNat 32 p.2) ∧
  (∀ p ∈ [(0x100000, 128, 0x0010), (0x180000, 32, 0x0011), (0x1F1000, 16, 0x0012), (0x400000, 256, 0x0020), (0x500000, 8, 0x0021),
      (0x510000, 8, 0x0022), (0x600000, 32, 0x0030), (0x620000, 32, 0x0031), (0x700000, 8, 0x0040), (0x910000, 221, 0x0061),
      (0xA00000, 221, 0x0062), (0xD01000, 4, 0x0071)],
    ∀ i < p.2.1, State.reset.dev.read32 0 (p.1 + 0x1000 * i) = BitVec.ofNat 32 (p.2.2 * 65536 + i)) ∧
  (∀ (s : State) (d : Dev) (rq : Requester) (page data : Nat), s.Ready d → pageOf page ≠ none → page % 0x1000 = 0 →
    exec (.registerWrite rq page false data) s = .next s) ∧
  State.reset.dev.read32 0 0x40 = 0x025601A1 ∧ State.reset.dev.read32 0 0x44 = 0x4B480256 ∧
  (∀ (s : State) (d : Dev) (rq : Requester) (a data : Nat), s.Ready d → a = 0x40 ∨ a = 0x44 → ∃ t,
    exec (.registerWrite rq a false data) s = .next t ∧ (∀ k, t.dev.word k = d.word k) ∧ t = s.withDev { d with regs := t.dev.regs })

/-! Device time (R42). -/

/-- R42: LOAD and STEP of device time while no channel is active, with their results; while one is, the command is ignored and recorded.
While the time clock is stopped they wait for it (R28). The model's own choices and inferences in it: log entries 103, 218. -/
def Obligations.DeviceTimeIsLoadedAndStepped : Prop :=
  ∀ (s : State) (d : Dev), s.Ready d →
    (d.glbIdle = true → d.clockRuns 211 = true → exec .timeLoad s = .next (s.jump (d.rd GLB_TIME_SET.SET * 2 ^ 24)) ∧
      (s.jump (d.rd GLB_TIME_SET.SET * 2 ^ 24)).now = d.rd GLB_TIME_SET.SET) ∧
    (d.glbIdle = true → d.clockRuns 211 = false → exec .timeLoad s = .next (s.withDev (d.holdLive timeKey 3 1 0)) ∧
      exec .timeStep s = .next (s.withDev (d.holdLive timeKey 3 2 0))) ∧
    (d.glbIdle = true → d.clockRuns 211 = true → exec .timeStep s =
        .next (s.jump ((s.now + d.rd GLB_TIME_SET.SET) % 2 ^ 64 * 2 ^ 24 + s.time % 2 ^ 24)) ∧
      (s.jump ((s.now + d.rd GLB_TIME_SET.SET) % 2 ^ 64 * 2 ^ 24 + s.time % 2 ^ 24)).now = (s.now + d.rd GLB_TIME_SET.SET) % 2 ^ 64) ∧
    (d.glbIdle = false → exec .timeLoad s = .next (s.withDev (d.ignored pageGLB 0x078)) ∧
      exec .timeStep s = .next (s.withDev (d.ignored pageGLB 0x078)))


/-! Stream channels, holding and decode input. -/

/-- R50 to R55: the commands of CHN_CMD that are accepted: CONFIGURE, OPEN and CLOSE are posted, DRAIN and ABORT completed at once; and
one written while BUSY is rejected. The model's own choices and inferences in it: log entries 10, 11, 14. -/
def Obligations.ChannelCommandsAreAccepted : Prop :=
  ∀ (s : State) (d : Dev) (c : Fin 256), s.Ready d → d.safe = false → d.enabled (pageCHN c) = true → d.frozen (pageCHN c) = false →
    let b (op : ChOp) : Dev := (d.wr (CHN_CMD_STS.BUSY.on c) 1).upCh c (fun x => { x with posted := some op })
    (d.bit (CHN_CMD_STS.BUSY.on c) = false →
      (d.chState c = 0 ∨ d.chState c = 1 ∨ d.chState c = 5 → exec (.configure c) s = .next (s.withDev (b .configure))) ∧
      (d.chState c = 1 ∨ d.chState c = 5 → d.bit (CHN_STATE.STALE.on c) = false →
        exec (.openChannel c) s = .next (s.withDev (b .open_))) ∧
      (d.chState c = 1 ∨ d.chState c = 5 → exec (.close c) s = .next (s.withDev (b .close))) ∧
      (d.chState c = 2 ∨ d.chState c = 3 → (b .drain).groupBusy c = false →
        exec (.drain c) s = .next (s.after (((b .drain).startDrain s.env c).cmdResult c 0 0))) ∧
      (d.chState c = 2 ∨ d.chState c = 3 ∨ d.chState c = 4 →
        exec (.abort c) s = .next (s.after (((b .abort).abortChannel s.now c).cmdResult c 0 0)))) ∧
    (d.bit (CHN_CMD_STS.BUSY.on c) = true →
      ∀ i ∈ [Instr.configure c, .openChannel c, .drain c, .abort c, .close c],
        exec i s = .next (s.withDev (d.wr (CHN_CMD_STS.REJECT.on c) 1)))

/-- R50, R51, R55, R116: what the firmware completes, the end of a drain, and a request for a random-access picture. The model's own choices
and inferences in it: log entries 12, 13, 15, 207, 219, 221, 225, 226. -/
def Obligations.ChannelWorkCompletes : Prop :=
  ∀ (s : State) (d : Dev) (c : Fin 256), s.Ready d →
    (∀ place, d.firmwareTakes c = true → (d.ch c).posted = some .configure →
      exec (.cmdDone c place) s = .next (s.after (d.doneConfigure c place))) ∧
    (∀ place, d.firmwareTakes c = true → (d.ch c).posted = some .open_ → d.openWaits c = false →
      exec (.cmdDone c place) s = .next (s.after (d.doneOpen s.now c))) ∧
    (∀ place, d.firmwareTakes c = true → (d.ch c).posted = some .close →
      exec (.cmdDone c place) s = .next (s.after (d.doneClose c))) ∧
    (d.drained c = true → exec (.drainComplete c) s =
      .next (s.after ((((d.discard c).setState c 1).release c).event (CHN_EVT.DRAINED.on c)))) ∧
    (d.isDecode c = false → d.chState c = 2 ∨ d.chState c = 3 →
      exec (.encForceIrap c) s = .next (s.after (d.forceRap c)))

/-- R52, R59: ABORT of an encode channel without members discards its source pictures, the pictures in coding, its output and its jobs,
and gives back its SLC buffers and its reservation; the transmit queues, whose packets stay, and device time are as they were.  No other
channel changes, except that of a member its leader lets go of source pictures that nobody needs any more, with their waiting analysis
jobs. The model's own choices and inferences in it: log entry 3. -/
def Obligations.AbortEmptiesTheChannel : Prop :=
  ∀ (s t : State) (d : Dev) (c : Fin 256), s.Ready d → d.safe = false → d.enabled (pageCHN c) = true → d.frozen (pageCHN c) = false →
    d.bit (CHN_CMD_STS.BUSY.on c) = false → d.chState c = 2 ∨ d.chState c = 3 ∨ d.chState c = 4 → d.isDecode c = false →
    d.membersOf c = [] → exec (.abort c) s = .next t →
    (t.dev.ch c).reserved = false ∧ (t.dev.ch c).src = [] ∧ (t.dev.ch c).pics = [] ∧ (t.dev.ch c).out = [] ∧ (t.dev.ch c).slc = [] ∧
    (∀ j ∈ t.dev.jobs, j ∈ d.jobs ∧ j.chn ≠ c.val) ∧
    (∀ j ∈ d.jobs, j.chn ≠ c.val → (d.isMember c = true → j.chn = d.leaderOf c → j.stage ≠ 0) → j ∈ t.dev.jobs) ∧
    (d.isMember c = false → t.dev.jobs = d.jobs.filter (fun j => j.chn != c.val)) ∧
    (∀ k : Nat, k ≠ c.val → { t.dev.ch k with src := (d.ch k).src, storing := (d.ch k).storing } = d.ch k) ∧
    (∀ k : Nat, k ≠ c.val → (d.isMember c = true → k ≠ d.leaderOf c) → t.dev.ch k = d.ch k) ∧
    t.dev.net.queues = d.net.queues ∧ t.time = s.time

/-- R85, R161, R165, R178, R376: source pictures from the network, missed deadlines, the still timer, and the commands of CHN_HOLD_CMD. The
model's own choices and inferences in it: log entries 27, 28, 84, 87, 88, 89, 203, 211, 220. -/
def Obligations.SourcesAndHolding : Prop :=
  ∀ (s : State) (d : Dev), s.Ready d →
    (∀ flow p l, (d.takeSink 9).flowUser flow.val = some l →
      let r := (d.takeSink 9).alloc 0 ((d.takeSink 9).rd (BPM_MAP.PKT.bk l))
      d.bpmOpen = true → r.1 = 0 → exec (.ingestUnpack flow p) s =
        .next (s.after ((r.2.2.free_ 0x0B3 0 ((d.takeSink 9).rd (BPM_MAP.PKT.bk l)) r.2.1).ingest s.now flow l p))) ∧
    (∀ (c : Fin 256) t, d.isLeader c = true →
      let q := d.passGood s.now c
      q.nextNoted c = none → q.deadlineOf c = some t → t ≤ s.now → q.chState c = 2 ∨ q.chState c = 3 → q.watches c = true →
      exec (.sourceDeadline c) s = .next (s.after ((q.deadline s.now c t).resumeLink s.env c))) ∧
    (∀ (c : Fin 256) t i, d.isLeader c = true →
      let q := d.passGood s.now c
      q.nextNoted c = none → q.deadlineOf c = some t → t ≤ s.now → q.chState c = 4 → (q.ch c).storing = some i →
      exec (.sourceDeadline c) s = .next (s.after ((q.completeBad s.now c i).resumeLink s.env c))) ∧
    (∀ (c : Fin 256) x, d.isLeader c = true →
      let q := d.passGood s.now c
      q.nextNoted c = some x → x.1 ≤ s.now → exec (.sourceDeadline c) s = .next (s.after ((q.noted s.now c x).resumeLink s.env c))) ∧
    (∀ c : Fin 256, d.isLeader c = true → d.chState c = 3 → d.bit (CHN_HOLD_CFG.STILL_EN.on c) = true →
      (d.ch c).hold.stillDone = false → max 100 (d.rd (CHN_HOLD_STILL_MS.MS.on c)) * 1000000 ≤ s.now - (d.ch c).hold.since →
      exec (.stillTimer c) s = .next (s.withDev (d.upCh c (fun x => { x with hold := { x.hold with stillDue := true } })))) ∧
    (∀ c : Fin 256, d.isLeader c = true →
      exec (.holdCmdEnter c) s = .next (s.after ((d.passGood s.now c).wr (CHN_HOLD_STS.FORCED.on c) 1)) ∧
      let r := (Dev.judgePassed s.now c (d.ch c).hold.dues.length d).wr (CHN_HOLD_STS.FORCED.on c) 0
      exec (.holdCmdRelease c) s = .next (s.after (if r.chState c = 2 then r.refresh c else r))) ∧
    (∀ c : Fin 256, d.isLeader c = true → d.chState c = 3 → d.bit (CHN_HOLD_CFG.STILL_EN.on c) = true →
      (d.ch c).hold.stillDone = false →
      exec (.holdCmdStillNow c) s = .next (s.withDev (d.upCh c (fun x => { x with hold := { x.hold with stillDue := true } }))))

/-- R149, R173: a packet of a decode channel, a gap whose time runs out, and host output stores released. The model's own choices and
inferences in it: log entries 22, 25, 85, 209, 230. -/
def Obligations.DecodeInputAndOutputRing : Prop :=
  ∀ (s : State) (d : Dev) (c : Fin 256), s.Ready d →
    (∀ p, exec (.decodePacket c p) s = .next (s.after ((if d.bpmOpen then d.takeSink 8 else d).decodePacket s.env c p))) ∧
    (∀ p q rest, (d.dc c).jb = p :: rest → (d.dc c).nextSeq = some q → q < p.seq → (d.dc c).stop = none →
      ((d.dc c).partPkts = 0 → p.arrival + p.wait * 1000000 ≤ s.now) →
      ((d.dc c).partPkts ≠ 0 → (d.dc c).partAt + (d.dc c).partWait * 1000000 ≤ s.now) →
      ((d.dc c).boundary p = true →
        exec (.jbTimeout c) s = .next (s.after (Dev.jbAdvance s.env c (p :: rest).length (d.acceptGap c p.seq)))) ∧
      ((d.dc c).boundary p = false → exec (.jbTimeout c) s = .next (s.after (d.transportDamage s.env c 0x07 (q % 65536))))) ∧
    (∀ (idx : Fin 16) wrap, idx.val < d.rd (CHN_DEC_CFG.NOUT.on c) →
      (ringPos (d.rd (CHN_DEC_CFG.NOUT.on c)) idx wrap + 2 * d.rd (CHN_DEC_CFG.NOUT.on c) -
        ringPos (d.rd (CHN_DEC_CFG.NOUT.on c)) (d.rd (CHN_DEC_OUT_RD.IDX.on c)) (d.bit (CHN_DEC_OUT_RD.WRAP.on c))) %
          max 1 (2 * d.rd (CHN_DEC_CFG.NOUT.on c)) ≤ d.outUsed c →
      let r := (d.wr (CHN_DEC_OUT_RD.IDX.on c) idx).wr (CHN_DEC_OUT_RD.WRAP.on c) (ofBool wrap)
      exec (.decOutRdWrite c idx wrap) s = .next (s.after (if r.isDecode c ∧ r.chActive c then r.decodeStep s.env c else r)))

/-! Work dispatch. -/

/-- R127, R207, R234, R240, R243, R244: a job issued to the engine chosen for it; a row of an encode job; a job that commits within its
cycle limit, and one beyond it that does not; a job fault, and damage found by a reconstruction job; the engine's watchdog. The model's own
choices and inferences in it: log entries 5, 30, 36, 90, 94, 183, 204, 205, 217. -/
def Obligations.JobsRunOnEngines : Prop :=
  ∀ (s : State) (d : Dev), s.Ready d →
    (∀ overhead j e, d.open_ pageWDP = true →
      let d := d.noteReady overhead
      let allowed := d.jobs.filter (fun j => d.jobAllowed j overhead)
      let d' := if allowed.any (fun j => !d.genHeld j.gen) then d.event WDP_EVT.NO_ENGINE else d
      d'.earliest ((allowed.filter (fun j => d'.genHeld j.gen)).filter (fun j => j.live && !(d'.enginesFor j).isEmpty)) = some j →
      d'.engineFor j = some e → exec (.jobIssue overhead) s = .next (s.after (d'.issue j e overhead))) ∧
    (∀ overhead j e d'', d.open_ pageWDP = true →
      let d := d.noteReady overhead
      let allowed := d.jobs.filter (fun j => d.jobAllowed j overhead)
      let d' := if allowed.any (fun j => !d.genHeld j.gen) then d.event WDP_EVT.NO_ENGINE else d
      d'.earliest ((allowed.filter (fun j => d'.genHeld j.gen)).filter (fun j => j.live && !(d'.enginesFor j).isEmpty)) = none →
      d'.pickScheduled ((allowed.filter (fun j => d'.genHeld j.gen)).filter (fun j => !j.live)) = (d'', some j) →
      d''.engineFor j = some e → exec (.jobIssue overhead) s = .next (s.after (d''.issue j e overhead))) ∧
    (∀ (e : Fin 128) row sofar others j p sl, d.jobOn e = some j → j.stage = 2 → (d.ch j.chn).pic j.pic = some p → p.slice j.slice = some sl →
      row = d.rowFrom j.chn j.slice + sl.rowQ.length → row < d.rowTo j.chn j.slice → sofar ≤ sl.h →
      exec (.rowQuantiser e row ⟨sofar, others⟩) s = .next (s.after
        ((d.upPic j.chn j.pic (fun _ => p.produced j.slice others)).takeRow j (p.produced j.slice others) sl row sofar))) ∧
    (∀ (e : Fin 128) r j, d.jobOn e = some j → d.entryDead e j = false → d.jobStalled e j = false → d.readsBad s.env j = false → d.resultFits s.env j r = true → r.cycles ≤ d.jobLimit e →
      exec (.jobCommit e r) s = .next (s.after (((d.noteReady 0).commitJob s.env e j r).noteReady 0))) ∧
    (∀ (e : Fin 128) r, (r.cycles > d.jobLimit e ∨ (∃ j, d.jobOn e = some j ∧ (d.entryDead e j = true ∨ d.jobStalled e j = true ∨ d.readsBad s.env j = true))) → exec (.jobCommit e r) s = .next s) ∧
    (∀ (e : Fin 128) (kind : Fin 8) ctu addr (cond : Fin 16), kind.val ∈ [1, 4, 6] ∨ (kind.val = 2 ∧ d.ucIllegal e addr cond = true) →
      exec (.jobFault e kind ⟨ctu, addr, cond⟩ none) s = .next (s.after (((d.noteReady 0).pxeFault s.now e kind (some ctu) none).noteReady 0))) ∧
    (∀ (e : Fin 128) kind ctu addr cond x j p, d.jobOn e = some j → j.stage = 4 → (d.ch j.chn).pic j.pic = some p →
      exec (.jobFault e kind ⟨ctu, addr, cond⟩ (some x)) s = .next (s.after (d.damageOf s.env j.chn p.idx x))) ∧
    (∀ (e : Fin 128) ctu cycles j, d.jobOn e = some j → cycles > d.jobLimit e →
      exec (.jobWatchdog e ⟨ctu, cycles⟩) s = .next (s.after (((d.noteReady 0).pxeFault s.now e 3 (some ctu) (some cycles)).noteReady 0)))

/-- R137, R252, R256: generations assigned to all channels or to one, the admission budget and reservations compared, and a staged model
committed; while the clock of the dispatcher is stopped what is written waits (R28). The model's own choices and inferences in it: log
entries 46, 91, 208, 218. -/
def Obligations.DispatchAndRateRegisters : Prop :=
  ∀ (s : State) (d : Dev), s.Ready d →
    (∀ gen : Fin 65536, gen.val ≠ 0 → d.pageClocked .WDP 0 = true → exec (.genAssignAll gen) s = .next (s.withDev
      ((List.range 256).foldl (fun d c => d.assignGen c gen) (d.wr WDP_STS.GEN_DEFAULT gen)))) ∧
    (∀ gen : Fin 65536, gen.val ≠ 0 → d.pageClocked .WDP 0 = false → exec (.genAssignAll gen) s = .next (s.withDev
      ({ d with liveHeld := storeDrop (fun j => cmdKey 0x1D0058 0 ≤ j && j % win0Size == 0x1D0058) d.liveHeld }.holdLive
        (cmdKey 0x1D0058 0) 0xFFFFFFFF (BitVec.ofNat 32 (2 ^ 31 + gen)) 0))) ∧
    (∀ (c : Fin 256) (gen : Fin 65536), gen.val ≠ 0 → d.pageClocked .WDP 0 = true → d.chActive c = true →
      exec (.genAssignChn c gen) s = .next (s.withDev (d.wr (WDP_CHN_GEN.PEND.bk c) gen))) ∧
    (∀ (c : Fin 256) (gen : Fin 65536), gen.val ≠ 0 → d.pageClocked .WDP 0 = true → d.chActive c = false →
      exec (.genAssignChn c gen) s = .next (s.withDev ((d.wr (WDP_CHN_GEN.GEN.bk c) gen).wr (WDP_CHN_GEN.PEND.bk c) 0))) ∧
    (∀ (c : Fin 256) (gen : Fin 65536), gen.val ≠ 0 → d.pageClocked .WDP 0 = false → exec (.genAssignChn c gen) s = .next (s.withDev
      (d.holdLive (cmdKey 0x1D0058 (1 + c)) 0xFFFFFFFF (BitVec.ofNat 32 (65536 * c + gen)) 0))) ∧
    (∀ r mpcs, d.pageClocked .WDP 0 = false → exec (.admitBudgetWrite r mpcs) s = .next (s.withDev
      (d.holdLive (if r then 0x1D004C else 0x1D0048) 0xFFFFF (BitVec.ofNat 32 mpcs) 0))) ∧
    (∀ r mpcs, d.pageClocked .WDP 0 = true → ∃ t, exec (.admitBudgetWrite r mpcs) s = .next t ∧
      t.dev.rd WDP_ADMIT_BUDGET.MPCS = (if r then d.rd WDP_ADMIT_BUDGET.MPCS else mpcs % 2 ^ 20) ∧
      t.dev.rd WDP_LIVE_RSV.MPCS = (if r then mpcs % 2 ^ 20 else d.rd WDP_LIVE_RSV.MPCS) ∧
      (t.dev.bit WDP_STS.OVERCOMMIT = true ↔ t.dev.rd WDP_ADMIT_BUDGET.MPCS < t.dev.rd WDP_LIVE_RSV.MPCS) ∧
      (d.bit WDP_STS.OVERCOMMIT = false → t.dev.bit WDP_STS.OVERCOMMIT = true → t.dev.bit WDP_EVT.OVERCOMMIT = true) ∧
      t.dev.rd WDP_STS.GEN_DEFAULT = d.rd WDP_STS.GEN_DEFAULT ∧ t.mem = s.mem ∧ t.time = s.time) ∧
    (∀ seq, exec (.rctCtxCommit seq) s = .next (s.withDev (d.upCh (d.rd RCT_CTX_SEL.CTX) (fun x => { x with rc := { x.rc with
      staged := some (d.rd (RCT_CTX_M_P.M.bk (d.rd RCT_CTX_SEL.CTX)), d.rd (RCT_CTX_M_I.M.bk (d.rd RCT_CTX_SEL.CTX)),
        (d.word (RCT_CTX_BW.W0.bk (d.rd RCT_CTX_SEL.CTX)).base).toNat, seq.val) } }))))

/-! Entropy engines. -/

/-- R184, R185, R189, R192, R194, R239: an engine starts the first job that is ready, and sets a slice that has run dry aside for it; a
slice that ran dry resumes, a live job suspends a scheduled slice; an entropy job gives output or ends; a machine check, and a fetch of a
sound word that is none. The model's own choices and inferences in it: log entries 19, 30, 31, 32, 180, 183, 210, 212, 213. -/
def Obligations.EntropyJobsRun : Prop :=
  ∀ (s : State) (d : Dev) (e : Fin 32), s.Ready d →
    (∀ w j, let d := (d.noteWritten w).flushOut s.env e
      d.eneInService e = true → d.open_ (pageENE e) = true →
      ((d.en e).running = none → entFirst (d.en e).ready = some j →
        (List.range 32).find? (fun f => (d.en f).moves.contains j.chn) = none →
        exec (.entropyJobStart ⟨e, w⟩) s = .next (s.after (d.takeEntropy e j))) ∧
      ((d.en e).running = some j → j.live = true → d.syntaxWhole j = false →
        exec (.entropyJobStart ⟨e, w⟩) s = .next (s.after ((d.suspend e (d.ranDry j)).startFirst e)))) ∧
    (∀ (c : Fin 256) pic slice w k, let d := d.noteWritten w
      ((d.en e).suspended ++ (d.en e).queue).find? (fun k => k.dry && k.chn == c.val && k.pic == pic && k.slice == slice) = some k →
      d.resumable k = true →
      let q := { k with dry := false, tries := match ((d.ch k.chn).pic k.pic).bind (·.slice k.slice) with | some s => s.tries | none => k.tries }
      let wake (l : List EntJob) : List EntJob := l.map (fun j => if j = k then q else j)
      let u := d.upEn e (fun x => { x with suspended := wake x.suspended, queue := wake x.queue })
      ((u.en e).running = none → entFirst (u.en e).ready = some q →
        exec (.followResume ⟨e, w⟩ c pic slice) s = .next (s.after (u.takeEntropy e q))) ∧
      ((u.en e).running ≠ none ∨ entFirst (u.en e).ready ≠ some q → exec (.followResume ⟨e, w⟩ c pic slice) s = .next (s.after u))) ∧
    (∀ w j, let d := d.noteWritten w
      (d.en e).running = some j → j.live = false → (d.en e).ready.any (·.live) = true → (d.en e).suspended.length < 16 →
      exec (.livePreempt ⟨e, w⟩) s = .next (s.after (d.suspend e j))) ∧
    (∀ j more read, (d.en e).running = some j → exec (.entropyJobEnd e (.bytes more read)) s =
      .next (s.after (((d.noteReady 0).moreBytes s.env e j more read).noteReady 0))) ∧
    (∀ j frame info seg read, (d.en e).running = some j → exec (.entropyJobEnd e (.segment frame info seg read)) s =
      .next (s.after (((d.noteReady 0).moreSyntax s.env e j frame info seg read).noteReady 0))) ∧
    (∀ j p sl bytes bins cycles, (d.en e).running = some j → let d := d.noteReady 0
      (d.ch j.chn).pic j.pic = some p → p.slice j.slice = some sl →
      j.decode = false → j.hold = false → d.codedTurn j p sl = true → d.bpmOpen = true → bytes.length = sliceLength p sl →
      exec (.entropyJobEnd e (.coded bytes bins cycles)) s = .next (s.after ((d.lastBytes s.env e j bytes 0 bins cycles).noteReady 0))) ∧
    (∀ j p sl bytes overhead filler bins cycles, (d.en e).running = some j → let d := d.noteReady 0
      (d.ch j.chn).pic j.pic = some p → p.slice j.slice = some sl →
      j.hold = true → d.codedTurn j p sl = true → d.bpmOpen = true → d.holdFits j.chn bytes.length overhead filler.length = true →
      exec (.entropyJobEnd e (.hold bytes overhead filler bins cycles)) s =
        .next (s.after ((d.lastBytes s.env e j (bytes ++ filler) filler.length bins cycles).noteReady 0))) ∧
    (∀ j frames shows bins cycles, (d.en e).running = some j → let d := (d.noteReady 0).flushOut s.env e
      j.decode = true → d.bpmOpen = true → (d.en e).outq = [] → (d.en e).running = some j → exec (.entropyJobEnd e (.decoded frames shows bins cycles)) s =
        .next (s.after (((d.entropyDone e bins cycles).unitDecoded s.env j frames shows).noteReady 0))) ∧
    (∀ j x rap bins cycles a, (d.en e).running = some j → let d := (d.noteReady 0).flushOut s.env e
      j.decode = true → d.bpmOpen = true → (d.en e).outq = [] → (d.en e).running = some j →
      let u := d.entropyDone e bins cycles
      (u.dc j.chn).aus.find? (fun a => a.idx == j.pic) = some a →
      exec (.entropyJobEnd e (.damaged x rap bins cycles)) s = .next (s.after
        ((if (u.dc j.chn).skipping = true ∧ a.frames = 0 ∧ rap = false then u.skipUnit s.env j.chn a
          else if u.unitOver j.chn a.bytes then
            u.damage s.env j.chn { au := j.pic, code := 0x0A, aux := a.bytes, ctu := 0xFFFFF, frameNum := false, poc := x.poc }
          else u.damageOf s.env j.chn j.pic x).noteReady 0))) ∧
    (∀ (kind : Fin 4) fetch sent, kind.val ≠ 0 →
      let a := (d.en e).fetch fetch
      ((d.en e).checkKind kind a ≠ 0 →
        exec (.machineCheck e kind fetch sent) s = .next (s.after (d.machineCheck s.env e ((d.en e).checkKind kind a) a sent))) ∧
      ((d.en e).checkKind kind a = 0 → exec (.machineCheck e kind fetch sent) s = .next s))

/-- R183, R196, R199, R203: the commands of an entropy engine. The model's own choices and inferences in it: log entries 39, 214. -/
def Obligations.EntropyEngineControl : Prop :=
  ∀ (s : State) (d : Dev) (e : Fin 32), s.Ready d →
    (∀ c : Fin 256, d.chState c = 2 ∨ d.chState c = 3 → d.boundTo c ≠ none → d.eneInService e = true →
      d.bit (ENE_CTL.BIND_EN.on e) = true → exec (.eneMove e c) s = .next (s.withDev (((List.range 32).foldl
        (fun d f => d.upEn f (fun x => { x with moves := x.moves.filter (· != c.val) })) d).upEn e
          (fun x => { x with moves := x.moves ++ [c.val] })))) ∧
    (∀ hi, d.eneFree e = true → d.eneService e ≠ 3 →
      let a := d.rd (ENE_UC_ADDR.ADDR.on e)
      let w := d.rd (ENE_UC_LO.DATA.on e) + hi % 65536 * 2 ^ 32
      exec (.eneUcStore e hi) s = .next (s.withDev
        ((((d.upEn e (fun x => { x with ucode := storeSet (fun _ => 0) x.ucode a w })).wr (ENE_UC_ADDR.ADDR.on e) (a + 1)).wr
          (ENE_STS.SERVICE.on e) 2).wr (ENE_STS.ST_RESULT.on e) 0))) ∧
    (d.eneFree e = true → exec (.eneSelftest e) s = .next (s.withDev (d.wr (ENE_CTL.SELFTEST.on e) 1))) ∧
    (∀ pass, d.bit (ENE_CTL.SELFTEST.on e) = true → d.safe = false → exec (.eneSelftestDone e pass) s = .next (s.withDev
      (((d.wr (ENE_CTL.SELFTEST.on e) 0).wr (ENE_STS.ST_RESULT.on e) (if pass then 1 else 2)).event (ENE_EVT.SELFTEST_DONE.on e)))) ∧
    (d.eneIdle e = true → d.eneService e = 2 → d.rd (ENE_STS.ST_RESULT.on e) = 1 →
      exec (.eneRelease e) s = .next (s.after ((d.wr (ENE_STS.SERVICE.on e) 1).bindWaiting))) ∧
    (d.eneIdle e = true → exec (.eneRetire e) s =
      .next (s.after (((d.wr (ENE_STS.SERVICE.on e) 3).wr (ENE_CTL.RETIRE.on e) 1).rebindAll s.env e []))) ∧
    (d.eneFree e = false → (∀ hi, exec (.eneUcStore e hi) s = .next (s.withDev (d.ignored (pageENE e) 0x058))) ∧
      exec (.eneSelftest e) s = .next (s.withDev (d.ignored (pageENE e) 0x040)))

/-! Pixel engines. -/

/-- R212, R213: microcode loaded, checked and invalidated, and what ends a load or a check. The model's own choices and inferences in it:
log entries 37, 215. -/
def Obligations.PixelMicrocode : Prop :=
  ∀ (s : State) (d : Dev) (e : Fin 128), s.Ready d →
    (∀ bank, d.pxeService e ≠ 3 → d.pxeIdle e = true →
      (d.bankInUse e (ofBool bank) = false →
        (d.bankValid e (1 - ofBool bank) = false ∨ d.bankGen e (1 - ofBool bank) ≠ d.rd (PXE_UC_LOADCFG.GEN.on e)) →
        exec (.pxeUcLoad e bank) s = .next (s.withDev
          ((d.setBank e (ofBool bank) false 0).upPx e (fun x => { x with op := .load (ofBool bank) })))) ∧
      (d.bankInUse e (ofBool bank) = true → exec (.pxeUcLoad e bank) s = .next (s.withDev (d.ucResult e (ofBool bank) 4))) ∧
      (d.bankValid e (ofBool bank) = true →
        exec (.pxeUcCheck e bank) s = .next (s.withDev (d.upPx e (fun x => { x with op := .check (ofBool bank) })))) ∧
      (d.bankValid e (ofBool bank) = false → exec (.pxeUcCheck e bank) s = .next (s.withDev (d.ucResult e (ofBool bank) 3))) ∧
      (d.bankInUse e (ofBool bank) = false → exec (.pxeUcInvalidate e bank) s =
        .next (s.withDev ((d.setBank e (ofBool bank) false 0).ucResult e (ofBool bank) 1)))) ∧
    (∀ poison b, d.safe = false → (d.px e).op = .load b → d.loadHeld e = false →
      exec (.pxeUcDone e poison) s = .next (s.after (d.loadEnds s.env e b poison))) ∧
    (∀ poison b, d.safe = false → (d.px e).op = .check b → exec (.pxeUcDone e poison) s = .next (s.after
      (let r := (d.upPx e (fun x => { x with op := .none })).checkBank s.now e b
       (r.1.ucResult e b r.2).pxeBoundary e)))

/-- R217 to R221: service states of a pixel engine, its self-test, and the steps by which a change of its operating point ends. The model's
own choices and inferences in it: log entries 38, 39, 182. -/
def Obligations.PixelEngineService : Prop :=
  ∀ (s : State) (d : Dev) (e : Fin 128), s.Ready d →
    (d.pxeService e = 1 → d.bit (PXE_JOB.ACTIVE.on e) = false → exec (.pxeQuar e) s = .next (s.withDev (d.quarantine e))) ∧
    (d.pxeService e = 1 → d.bit (PXE_JOB.ACTIVE.on e) = true →
      exec (.pxeQuar e) s = .next (s.withDev (d.upPx e (fun x => { x with quarAfter := true })))) ∧
    (d.pxeService e = 2 → d.pxeIdle e = true → d.bankValid e 0 = true ∨ d.bankValid e 1 = true →
      exec (.pxeSelftest e) s = .next (s.withDev ((d.wr (PXE_CTL.SELFTEST.on e) 1).upPx e
        (fun x => { x with op := .selftest, stFault := false, entry := 4 * 5 })))) ∧
    (d.pxeService e = 2 → d.pxeIdle e = true → d.bankValid e 0 = false → d.bankValid e 1 = false →
      exec (.pxeSelftest e) s = .next (s.withDev (d.wr (PXE_STS.ST_RESULT.on e) 3))) ∧
    (∀ pass, (d.px e).op = .selftest → d.safe = false →
      exec (.pxeSelftestDone e pass) s = .next (s.after (d.selftestEnds s.now e pass))) ∧
    (d.pxeService e = 2 → d.pxeIdle e = true → d.rd (PXE_STS.ST_RESULT.on e) = 1 → exec (.pxeRelease e) s =
      .next (s.withDev ((d.wr (PXE_STS.SERVICE.on e) 1).upPx e (fun x => { x with infoFree := true })))) ∧
    (d.pxeService e ≠ 3 → d.pxeIdle e = true → exec (.pxeRetire e) s =
      .next (s.withDev ((d.wr (PXE_STS.SERVICE.on e) 3).wr (PXE_CTL.RETIRE.on e) 1))) ∧
    ((d.px e).oppSteps ≠ [] → exec (.oppDone e) s = .next (s.withDev
      ((((((d.px e).oppSteps.foldl (fun d x => d.oppStep e x) d).wr (PXE_OPP_STS.CHANGING.on e) 0).upPx e
        (fun x => { x with oppSteps := [] })).event (PXE_EVT.OPP_DONE.on e)).antResume e)))

/-- R218: QUAR written to an engine with a job leaves the job and everything else as they are; when the engine becomes free at the end of
that job it is quarantined, and no bit of its FLT_STS is set. -/
def Obligations.QuarantineWaitsForTheJob : Prop :=
  ∀ (s : State) (d : Dev) (e : Fin 128), s.Ready d → d.pxeService e = 1 → d.bit (PXE_JOB.ACTIVE.on e) = true →
    ∃ t, exec (.pxeQuar e) s = .next t ∧ t = s.withDev (d.upPx e (fun x => { x with quarAfter := true })) ∧ t.dev.jobs = d.jobs ∧
      t.dev.regs = d.regs ∧
      (∀ u : Dev, (u.px e).quarAfter = true → u.wPending (pagePXE e) = false →
        (u.pxeFree e).pxeService e = 2 ∧ (u.pxeFree e).bit (PXE_EVT.QUARANTINED.on e) = true ∧
        (u.pxeFree e).word (pagePXE e + 0x01C) = u.word (pagePXE e + 0x01C))


/-! HBM controllers and arbiters. -/

/-- R295 to R300: what the commands of an arbiter do. The model's own choices and inferences in it: log entries 48, 51, 52. -/
def Obligations.ArbiterCommands : Prop :=
  ∀ (s : State) (d : Dev) (n : Fin 32), s.Ready d →
    (∀ r, hbmReqGood n r = true →
      exec (.hbmRequest n r) s = .next (s.withDev (d.upHb n (fun x => { x with waiting := x.waiting ++ [r] })))) ∧
    (∀ (slot : Fin 64) w d', (d.wr (ARB_STS.SLOT.on n) slot).bit (ARB_STS.LOCKED.on n) = false →
      (d.wr (ARB_STS.SLOT.on n) slot).open_ (pageARB n) = true → (d.wr (ARB_STS.SLOT.on n) slot).arbRound n slot = (some w, d') →
      exec (.arbGrant n slot) s = .next (s.after ((d'.grantTo n w).admitNext s.env n))) ∧
    (d.bit (ARB_STS.LOCKED.on n) = true → exec (.lockRelease n) s = .next (s.withDev ((d.wr (ARB_STS.LOCKED.on n) 0).upHb n fun x =>
      { x with
        holder := (match x.holder with
          | some h => if h.units.isEmpty then none else some { h with lock := false }
          | none => none)
        lockUnits := 0 }))) ∧
    (∀ h cycles, d.bit (ARB_STS.LOCKED.on n) = true → (d.hb n).holder = some h → (d.hb n).lockLimit ≤ cycles →
      exec (.arbWdogExpire ⟨n, cycles⟩) s = .next (s.after (d.forceRelease s.now n h))) ∧
    (d.frozen (pageARB n) = true → (d.hb n).granted = [] → (d.hb n).queue = [] →
      exec (.arbDrained n) s = .next (s.withDev (d.event (ARB_EVT.DRAINED.on n)))) ∧
    (exec (.quotaWindowEnd n) s = .next (s.withDev ((((List.range 1024).filter isRequester).foldl
      (fun d r => d.wr ((ARB_REQ_STS.COUNT.on n).bk r) 0) d).latchIf (pageARB n) (fun k => k % 0x1000 == 0x050)))) ∧
    (let d' := (d.wr (ARB_STS.SLOT.on n) 0).latchIf (pageARB n) (fun k => k % 0x1000 == 0x05C)
     (d'.bit (ARB_SLOT_CTL.SWAP.on n) = false → exec (.slotTableWrap n) s = .next (s.withDev d')) ∧
     (d'.bit (ARB_SLOT_CTL.SWAP.on n) = true → exec (.slotTableWrap n) s = .next (s.withDev
      (((d'.wr (ARB_STS.ACTIVE.on n) (1 - d'.rd (ARB_STS.ACTIVE.on n))).wr (ARB_SLOT_CTL.SWAP.on n) 0).event (ARB_EVT.SWAPPED.on n)))))

/-- R289 to R293: what the events of an HBM controller do. The model's own choices and inferences in it: log entries 49, 50, 53, 55, 227,
228. -/
def Obligations.HbmControllerEvents : Prop :=
  ∀ (s : State) (d : Dev) (n : Fin 32), s.Ready d →
    (∀ (pc : Fin 2) q r, (d.hb n).inflight.find? (fun q => pcOf q.addr == pc.val) = some q →
      exec (.hbmReadReturn n pc r) s = .next (s.after (d.readReturn s.now n pc q r))) ∧
    (∀ (pc : Fin 2) qpar q d', d.open_ (pageHMC n) = true → d.slotPick n pc = (some q, d') →
      exec (.commandSlot n pc qpar) s = .next (s.after (d'.issueBurst n q qpar))) ∧
    (∀ (pc : Fin 2) (bank : Fin 32), exec (.refreshDue n pc bank) s = .next (s.withDev (d.refreshBank n (32 * pc.val + bank.val)))) ∧
    (∀ temp : Fin 256, exec (.stackTempRead n temp) s = .next (s.withDev (d.wr (HMC_STS.TEMP.on n) temp))) ∧
    exec (.trimApply n) s = .next (s.withDev (d.wr (HMC_STS.TRIM_PEND.on n) 1)) ∧
    (d.bit (HMC_STS.TRIM_PEND.on n) = true → exec (.trimInForce n) s = .next (s.withDev
      ((((List.range 6).foldl (fun d k => d.setWord (pageHMC n + 0x068 + 4 * k) (d.word (pageHMC n + 0x050 + 4 * k))) d).wr
        (HMC_STS.TRIM_PEND.on n) 0).event (HMC_EVT.TRIM_APPLIED.on n))))

/-! Network: ports, parsing, classification. -/

/-- R317 to R319: frames and pause frames received, pauses that run out, and XOFF repeated. The model's own choices and inferences in it:
log entries 56, 57, 58, 59, 200, 231. -/
def Obligations.PortsReceiveFrames : Prop :=
  ∀ (s : State) (d : Dev) (p : Fin 8), s.Ready d → d.portReceives p = true →
    let c (line : RxLine) (n : Nat) : Dev := ((d.countFec p line).count (ETH_CNT_RX_FRAMES.COUNT.on p) 1).count (ETH_CNT_RX_BYTES.COUNT.on p) n
    (∀ bytes line, bytes.length + 4 < 64 → exec (.frameReceive p bytes line) s =
      .next (s.after (((c line (bytes.length + 4)).count (ETH_CNT_RX_RUNT.COUNT.on p) 1).countMal 1))) ∧
    (∀ bytes line, 64 ≤ bytes.length + 4 → (c line (bytes.length + 4)).maxFrame p < bytes.length + 4 → exec (.frameReceive p bytes line) s =
      .next (s.after (((c line (bytes.length + 4)).count (ETH_CNT_RX_OVERSIZE.COUNT.on p) 1).countMal 3))) ∧
    (∀ bytes line, line.fcsOk = true → 64 ≤ bytes.length + 4 → bytes.length + 4 ≤ (c line (bytes.length + 4)).maxFrame p → beNat (slice bytes 12 2) ≠ 0x8808 →
      let r := (c line (bytes.length + 4)).stampAt s.now ((c line (bytes.length + 4)).rd (ETH_TS_LAT.RX.on p))
      exec (.frameReceive p bytes line) s = .next (s.after (r.2.toRxq p ⟨bytes, r.1, false⟩))) ∧
    (∀ q, d.fcMode p = 1 → exec (.pauseFrame p q) s =
      .next (s.withDev (((d.ctlIn p).count (ETH_CNT_PAUSE_RX.COUNT.on p) 1).wr (ETH_STS.PAUSED.on p) (ofBool (q.val != 0))))) ∧
    (∀ q, d.fcMode p ≠ 1 → exec (.pauseFrame p q) s = .next (s.withDev ((d.ctlIn p).count (ETH_CNT_MACCTL_DISC.COUNT.on p) 1))) ∧
    (∀ mask q, d.fcMode p = 2 → exec (.pfcFrame p mask q) s = .next (s.withDev ((d.ctlIn p).pfcIn p mask (q.map (·.val))))) ∧
    (∀ mask q, d.fcMode p ≠ 2 → exec (.pfcFrame p mask q) s = .next (s.withDev ((d.ctlIn p).count (ETH_CNT_MACCTL_DISC.COUNT.on p) 1)))

/-- R316, R318, R320, R343, R354: pauses end, XOFF is repeated, links come up and go down, time stamps are popped, PPS edges. The model's
own choices and inferences in it: log entries 58, 222, 231, 232. -/
def Obligations.PortEvents : Prop :=
  ∀ (s : State) (d : Dev) (p : Fin 8), s.Ready d →
    (exec (.pauseExpire p none) s = .next (s.withDev (d.wr (ETH_STS.PAUSED.on p) 0))) ∧
    (∀ k : Fin 8, exec (.pauseExpire p (some k)) s = .next (s.withDev (d.wr (ETH_STS.PFC_PAUSED.on p)
      (bitsMask ((maskBits 8 (d.rd (ETH_STS.PFC_PAUSED.on p))).filter (· != k.val)))))) ∧
    (d.pauseReady p = true → d.fcMode p = 1 → d.bit (SWC_RXQ_STS.PAUSE_SENT.bk p) = true →
      exec (.pauseRefresh p) s = .next (s.withDev (d.sendPause p (d.quanta p) 0))) ∧
    (d.linkUp p = false → d.enabled (pageETH p) = true → exec (.linkUp p) s = .next (s.withDev
      (((((((d.wr (ETH_STS.BLOCK_LOCK.on p) 1).wr (ETH_STS.FEC_ALIGN.on p) (1 - d.rd (ETH_CTL.SPEED.on p))).wr
        (ETH_STS.LOCAL_FAULT.on p) 0).wr (ETH_STS.REMOTE_FAULT.on p) 0).wr (ETH_STS.LINK.on p) 1).signalFault d p).event
        (ETH_EVT.LINK_UP.on p) |>.flowControl p))) ∧
    (∀ why, ¬ (why = .align ∧ d.rd (ETH_CTL.SPEED.on p) = 1) →
      exec (.linkDown p why) s = .next (s.after (((d.seeLoss p why).signalFault d p).portDown p))) ∧
    (exec (.txtsPop p) s = .next (s.withDev ((d.upEth p (fun x => { x with txts := x.txts.drop 1 })).showTxts p))) ∧
    (d.bit ETH_PPS_CFG.IN_EN = true → exec .ppsInEdge s =
      .next (s.withDev ((d.wr ETH_PPS_IN_TS.TIME s.now).event ETH_EVT.PPS_IN))) ∧
    (d.bit ETH_PPS_CFG.OUT_EN = true → d.ppsTime s.now = true → exec .ppsOutEdge s = .next (s.withDev ((d.send (.ppsOut true)).upNet
      (fun n => { n with ppsEnd := some (s.now + max 1 (d.rd ETH_PPS_CFG.WIDTH) * 1000000) }))))

/-- R323 to R329: a frame parsed, a parsed frame classified, and parse programs loaded and checked. The model's own choices and inferences
in it: log entries 60, 61, 62, 63. -/
def Obligations.FramesAreParsedAndClassified : Prop :=
  ∀ (s : State) (d : Dev), s.Ready d →
    (∀ (engine : Fin 16) (p : Fin 8) stPar f rest, (d.eth p).rxq = f :: rest → d.open_ (pagePSE engine) = true →
      d.rd (PSE_STS.SERVICE.on engine) = 1 → (d.eth p).parsed.length < 16 →
      exec (.parseFrame engine p stPar) s = .next (s.after (d.parse engine p f rest stPar))) ∧
    (∀ (p : Fin 8) (par : Fin 4) x rest, (d.eth p).parsed = x :: rest → d.open_ (pageCLS 0) = true → (d.swIn p).packets = [] →
      d.lookupHeld x = false →
      exec (.clsLookup p par) s = .next (s.after (d.classify s.env p x rest par))) ∧
    (∀ e : Fin 16, d.pseIdle e = true → exec (.pseLoad e) s = .next (s.withDev (d.upPse e (fun x => { x with op := 1 }))) ∧
      exec (.pseCheck e) s = .next (s.withDev (d.upPse e (fun x => { x with op := 2 })))) ∧
    (∀ e : Fin 16, d.pseIdle e = false → exec (.pseLoad e) s = .next (s.withDev (d.ignored (pagePSE e) 0x040)) ∧
      exec (.pseCheck e) s = .next (s.withDev (d.ignored (pagePSE e) 0x040))) ∧
    (∀ (e : Fin 16) poison, d.safe = false → (d.pse e).op = 1 →
      exec (.pseLoadDone e poison) s = .next (s.after (d.pseLoaded s.env e poison))) ∧
    (∀ (e : Fin 16) poison, d.safe = false → (d.pse e).op = 2 →
      exec (.pseLoadDone e poison) s = .next (s.after (d.pseChecked e)))

/-- R334, R336: a classifier command is taken up, or rejected while one is in progress; its completion; and a visit of the ager. The model's
own choices and inferences in it: log entries 64, 65, 223, 233, 234. -/
def Obligations.ClassifierCommands : Prop :=
  ∀ (s : State) (d : Dev), s.Ready d →
    (∀ c ∈ [(Instr.clsInsert, 1), (.clsDelete, 2), (.clsUpdate, 3), (.clsRead, 4), (.clsReadAt, 5), (.clsFlush, 6)],
      (d.bit CLS_CMD_STS.BUSY = false →
        exec c.1 s = .next (s.withDev ((d.upCls (fun x => { x with op := c.2 })).wr CLS_CMD_STS.BUSY 1))) ∧
      (d.bit CLS_CMD_STS.BUSY = true → exec c.1 s = .next (s.withDev (d.wr CLS_CMD_STS.REJECT 1)))) ∧
    (∀ r d', d.bit CLS_CMD_STS.BUSY = true → d.open_ (pageCLS 0) = true → d.commandHeld = false → d.clsEffect s.env d.net.cls.op = (r, d') →
      exec .clsCmdDone s = .next (s.after
        ((((d'.upCls (fun c => { c with op := 0 })).wr CLS_CMD_STS.RESULT r).wr CLS_CMD_STS.BUSY 0).event CLS0_EVT.CMD_DONE))) ∧
    (∀ bucket : Fin 32768, d.ageDue s.now bucket = true → d.open_ (pageCLS 0) = true → d.bucketHeld bucket = false →
      exec (.ageVisit bucket) s = .next (s.after ((List.range 4).foldl (fun d w => d.ageWay s.env bucket w) (d.ageOn s.now))))

/-! Buffer pools. -/

/-- R362 to R370: requests to the buffer pools that are served at once, INIT and its end, and MIN of a group. The model's own choices and
inferences in it: log entries 43, 237. -/
def Obligations.BufferPools : Prop :=
  ∀ (s : State) (d : Dev), s.Ready d →
    (∀ (pool : Fin 4) (group : Fin 64), d.bpmOpen = true →
      exec (.bpmAlloc pool group) s = .next (s.after ((d.alloc pool group).2.2.send
        (.bpmResult (d.alloc pool group).1 (d.alloc pool group).2.1)))) ∧
    (∀ (pool : Fin 4) (group : Fin 64), (d.wr BPM_ALLOC_RES.DONE 0).bpmOpen = true →
      let r := (d.wr BPM_ALLOC_RES.DONE 0).alloc pool group
      exec (.bpmAllocReq pool group) s = .next (s.after
        (((r.2.2.wr BPM_ALLOC_RES.STATUS r.1).wr BPM_ALLOC_RES.ADDR r.2.1).wr BPM_ALLOC_RES.DONE 1))) ∧
    (∀ req pool group addr, d.bpmOpen = true →
      exec (.bpmFree req pool group addr) s = .next (s.after (d.free_ req pool group addr))) ∧
    (∀ req pool group addr, d.bpmOpen = false → exec (.bpmFree req pool group addr) s =
      .next (s.withDev { d with bpmWaits := d.bpmWaits ++ [.free req pool group addr] })) ∧
    (d.bpmIdle = true → d.poolCfgBad (d.rd BPM_POOL_SEL.POOL) = false →
      let d' := d.wr (BPM_POOL_STS.CFG_ERR.bk (d.rd BPM_POOL_SEL.POOL)) 0
      exec .bpmPoolInit s = .next (s.withDev (d'.setPool (d.rd BPM_POOL_SEL.POOL)
        { d'.pool (d.rd BPM_POOL_SEL.POOL) with initialising := true }))) ∧
    (d.bpmIdle = true → d.poolCfgBad (d.rd BPM_POOL_SEL.POOL) = true →
      exec .bpmPoolInit s = .next (s.withDev (d.wr (BPM_POOL_STS.CFG_ERR.bk (d.rd BPM_POOL_SEL.POOL)) 1))) ∧
    (∀ pool : Fin 4, (d.pool pool).initialising = true → exec (.bpmInitDone pool) s = .next (s.withDev
      ((((d.setPool pool ((d.pool pool).fresh pool)).wr (BPM_POOL_STS.FREE.bk pool) ((d.pool pool).fresh pool).size).wr
        (BPM_POOL_STS.READY.bk pool) 1).event BPM_EVT.INIT_DONE))) ∧
    (∀ min, let b := grpBank (d.rd BPM_POOL_SEL.POOL) (d.rd BPM_GRP_SEL.GROUP)
      min ≤ d.rd (BPM_GRP_MIN.MIN.bk b) → exec (.grpMinWrite min) s = .next (s.withDev (d.wr (BPM_GRP_MIN.MIN.bk b) min)))

/-- R366: a write of MIN that would raise the sum of max(0, MIN - USED) of the pool above FREE is refused: MIN keeps its value, REFUSED and
MIN_REFUSED are set.  One that would not, and every lower one, is taken.  A write of MAX takes back nothing. -/
def Obligations.MinimumsAreReservedOrRefused : Prop :=
  ∀ (s : State) (d : Dev), s.Ready d →
    let p := d.rd BPM_POOL_SEL.POOL
    let b := grpBank p (d.rd BPM_GRP_SEL.GROUP)
    (∀ min < 2 ^ (BPM_GRP_MIN.MIN.bk b).width,
      ((d.rd (BPM_GRP_MIN.MIN.bk b) < min ∧ d.rd (BPM_POOL_STS.FREE.bk p) < (d.wr (BPM_GRP_MIN.MIN.bk b) min).reservedFree p) →
        ∃ t, exec (.grpMinWrite min) s = .next t ∧ t.dev.rd (BPM_GRP_MIN.MIN.bk b) = d.rd (BPM_GRP_MIN.MIN.bk b) ∧
          t.dev.bit (BPM_GRP_STS.REFUSED.bk b) = true ∧ t.dev.bit BPM_EVT.MIN_REFUSED = true ∧ t.mem = s.mem) ∧
      ((min ≤ d.rd (BPM_GRP_MIN.MIN.bk b) ∨ (d.wr (BPM_GRP_MIN.MIN.bk b) min).reservedFree p ≤ d.rd (BPM_POOL_STS.FREE.bk p)) →
        ∃ t, exec (.grpMinWrite min) s = .next t ∧ t.dev.rd (BPM_GRP_MIN.MIN.bk b) = min ∧ t.mem = s.mem ∧
          (∀ k, k ≠ (BPM_GRP_MIN.MIN.bk b).base → t.dev.word k = d.word k))) ∧
    (∀ rq data t, exec (.registerWrite rq 0x1C0070 false data) s = .next t →
      t.dev.pools = d.pools ∧ t.dev.rd (BPM_POOL_STS.FREE.bk p) = d.rd (BPM_POOL_STS.FREE.bk p) ∧
      ∀ k, t.dev.rd (BPM_GRP_STS.USED.bk k) = d.rd (BPM_GRP_STS.USED.bk k))

/-! Switch, packetising and egress. -/

/-- R352, R372, R377 to R384, R321: a cell time, packets packetised, walked to their queues and sent, the retransmission window, a request
answered, tokens, and a punted frame served. The model's own choices and inferences in it: log entries 67, 68, 71, 73 to 78, 80, 81, 82,
121, 224, 229, 233, 235, 236. -/
def Obligations.PacketsAreSwitchedAndSent : Prop :=
  ∀ (s : State) (d : Dev), s.Ready d →
    (∀ err, d.open_ pageSWC = true → exec (.cellTime err) s = .next (s.after (d.moveCells s.now err))) ∧
    (∀ c : Fin 256, d.isDecode c = false → d.bpmOpen = true → d.bit (CHN_SINK.EGRESS.on c) = true →
      (d.swIn (8 + d.rd (CHN_PKT_CFG.FEED.on c))).packets = [] → exec (.packetise c) s = .next (s.after
        (if d.rd (CHN_PKT_CFG.XPORT.on c) = 0 then d.packetRtp s.now c else d.packetTs s.now c))) ∧
    (∀ c : Fin 256,
      let due (w : WinPkt) : Bool := w.taken && s.now ≥ w.sentAt + d.rd (CHN_RTX_CFG.RTX_MS.on c) * 1000000
      exec (.rtxWindowExpire c) s = .next (s.after
        ((d.freeAll 0 (((d.ch c).window.filter due).map (fun w => (w.group, w.buf)))).upCh c
          (fun x => { x with window := x.window.filter (fun w => !due w) })))) ∧
    (∀ f rest, d.net.rtxq = f :: rest →
      let d' := (d.upNet (fun n => { n with rtxq := rest })).requestBpm (.free 0x0B3 0 0 f.buf)
      let rtcp := slice f.pkt.bytes (leNat (slice f.pkt.hdr 20 2))
        (beNat (slice f.pkt.bytes (leNat (slice f.pkt.hdr 18 2) + 4) 2) - 8)
      d'.isDecode f.pkt.arg = false → exec .rtxRequest s = .next (s.after
        ((nackSeqs (d'.rd (CHN_PKT_SSRC.SSRC.on f.pkt.arg)) rtcp.length rtcp).foldl
          (fun d q => d.answerNack s.now f.pkt.arg f.pkt.link q) d'))) ∧
    (∀ (p : Fin 8) k, d.open_ (pageEGS p) = true → (d.swOut p).packets.find? (fun k => k.walk != some []) = some k →
      exec (.replWalk p) s = .next (s.after (d.walkPkt p k))) ∧
    (∀ (p : Fin 8) err q k d', d.macReady p = true →
      d.egsNext p ((d.egsPort p).todo.length + (d.egsPort p).served.length + 1) = (some (q, k), d') →
      exec (.egressDequeue p err) s = .next (s.after (d'.sendDesc s.now p q k err))) ∧
    (exec .tokenUpdate s = .next (s.withDev ((d.net.queues.map (·.1)).foldl (fun d q =>
      if (d.egsQ q).port.isNone then d
      else d.upQ q (fun x => { x with
        tokens := min (d.burst q * 2 ^ 24) (x.tokens + d.rd (EGS_Q_SHAPER.RATE.bk q) * 8 * 2 ^ 24 / 1000000) })) d))) ∧
    (∀ (q : Fin 4) frames f rest, d.service 1 = true → d.punt q = f :: rest →
      exec (.puntedPacket q { timeInc := none, frames := frames }) s = .next (s.after
        (frames.foldl (fun d x => d.toSwitch 11 (injected x.1 x.2.1 x.2.2)) ((d.setPunt q rest).requestBpm (.free 0x0D1 0 0 f.buf)))))

/-- R381, R382: replication entries added, removed, read and updated, and queues bound and unbound. The model's own choices and inferences
in it: log entries 79, 235. -/
def Obligations.ReplicationAndQueueCommands : Prop :=
  ∀ (s : State) (d : Dev), s.Ready d →
    (∀ idx : Fin 65536, let r : Repl := { bytes := d.replData.take 31, valid := true, queued := 0 }
      (d.replAt idx).valid = false → (d.replAt idx).queued = 0 → d.walking idx = false → d.queueOn r.queue r.port = true → d.isDecode r.chn = false →
      exec (.replAdd idx) s = .next (s.withDev ((((d.upRepl idx (fun _ => r)).setReplList r.chn r.port
        (d.replList r.chn r.port ++ [idx.val])).showLists r.chn).replResult 0))) ∧
    (∀ idx : Fin 65536, (d.replAt idx).valid = true →
      exec (.replRemove idx) s = .next (s.withDev ((d.unlink idx).replResult 0))) ∧
    (∀ idx : Fin 65536, exec (.replRead idx) s = .next (s.withDev (d.replRead idx))) ∧
    (∀ idx : Fin 65536, let r := d.replAt idx
      let new : Repl := { r with bytes := d.replData.take 28 ++ slice r.bytes 28 1 ++ slice d.replData 29 1 ++ slice r.bytes 30 1 }
      r.valid = true → d.queueOn new.queue r.port = true →
      exec (.replUpdate idx) s = .next (s.withDev ((d.upRepl idx (fun _ => new)).replResult 0))) ∧
    (∀ p : Fin 8, let q := d.rd (EGS_Q_SEL.QUEUE.on p)
      (d.egsQ q).port = none → (d.boundQueues p).length < 1024 →
      let d' := (d.upQ q (fun _ => { EgsQ.reset with port := some p.val, tokens := d.burst q * 2 ^ 24 })).wr (EGS_Q_DEFICIT.BYTES.bk q) 0
      exec (.queueBind p) s = .next (s.withDev
        ((d'.wr (EGS_STS.BOUND.on p) (d'.boundQueues p).length).wr (EGS_Q_STS.RESULT.bk q) 1))) ∧
    (∀ p : Fin 8, let q := d.rd (EGS_Q_SEL.QUEUE.on p)
      d.queueOn q p = true → (d.egsQ q).descs = [] → (∀ e ∈ d.net.repl, e.2.valid = true → e.2.queue ≠ q) →
      d.rd (EGS_PORT_CFG.FWD_Q.on p) ≠ q → d.rd (EGS_PORT_CFG.INJ_Q.on p) ≠ q →
      let d' := d.upQ q (fun _ => EgsQ.reset)
      exec (.queueUnbind p) s = .next (s.withDev
        ((d'.wr (EGS_STS.BOUND.on p) (d'.boundQueues p).length).wr (EGS_Q_STS.RESULT.bk q) 1)))

/-! Host interface. -/

/-- R397 to R412: what the commands of a DMA ring do; a descriptor that the memory or the buffer pools do not take waits (R294, R368). The
model's own choices and inferences in it: log entries 54, 109, 110, 111, 114. -/
def Obligations.DmaRings : Prop :=
  ∀ (s : State) (d : Dev) (c : Fin 256) (r : RingId), s.Ready d →
    (∀ count : Fin 4294967296, let d' := d.wr (dmaField (dbField r) c) count
      ((d'.ringEn c r && d'.bit (dmaField (waitField r) c)) = true →
        exec (.doorbellWrite c r count) s = .next (s.withDev ((d'.wr (dmaField (waitField r) c) 0).issueFetch c r false))) ∧
      ((d'.ringEn c r && d'.bit (dmaField (waitField r) c)) = false → exec (.doorbellWrite c r count) s = .next (s.withDev d'))) ∧
    (d.ringEn c r = false → exec (.ringEnable c r) s = .next (s.withDev (d.enableRing c r))) ∧
    (d.ringEn c r = true → exec (.ringDisable c r) s = .next (s.withDev (d.disableRing c r))) ∧
    (exec (.ringAbort c r) s = .next (s.withDev (d.wr (dmaField (abortField r) c) 1))) ∧
    (∀ moved, d.bit (dmaField (abortField r) c) = true →
      exec (.abortDone c r moved) s = .next (s.after (d.endAbort s.env c r moved))) ∧
    (∀ data seen again, (d.ring c r).fetching = some (seen, again) → d.ringEn c r = true →
      d.bit (dmaField (abortField r) c) = false →
      ((descOf data).own = true → exec (.descFetch c r data) s =
        .next (s.withDev (d.upRing c r (fun y => { y with fetching := none, fetched := some (descOf data) })))) ∧
      ((descOf data).own = false → again = false → d.rd (dmaField (dbField r) c) ≠ seen →
        exec (.descFetch c r data) s = .next (s.withDev (d.issueFetch c r true))) ∧
      ((descOf data).own = false → again = true ∨ d.rd (dmaField (dbField r) c) = seen → exec (.descFetch c r data) s =
        .next (s.withDev ((d.upRing c r (fun x => { x with fetching := none })).wr (dmaField (waitField r) c) 1)))) ∧
    (∀ (e : Fin 8) k x st, d.open_ (pageDMA e) = true → d.halfActive e r = none →
      d.nextStart e r = some (k, x, st) → (st = none → x.kind ≠ 7) →
      exec (.descStart e r) s = .next (s.after (d.startDesc s.now k r x st))) ∧
    (∀ (e : Fin 8) k x, d.halfActive e r = some k → d.bit (dmaField (abortField r) k) = false →
      (d.descTakes k r x = true → exec (.descWriteback e r x) s = .next (s.after (d.finishDesc s.env k r x))) ∧
      (d.descTakes k r x = false → exec (.descWriteback e r x) s = .next s)) ∧
    (∀ (e : Fin 8) k moved, d.halfActive e r = some k →
      let d' := ((d.count PCI_CNT_CPL_TO.COUNT 1).event PCI_EVT.CPL_TO).send .aer
      d'.bit (dmaField (abortField r) k) = false →
      exec (.cplTimeout e r moved) s = .next (s.after (d'.finishDesc s.env k r (.pcieErr moved 0))))

/-- R393, R395: a write of HBM that the controllers take (R294, R300) stores its bytes at the position of WIN2 in force and no other byte; a
read returns what the bytes hold; poisoned data is dropped with POISON_RX. The model's own choices and inferences in it: log entries 54, 113. -/
def Obligations.Win2ReachesHbm : Prop :=
  ∀ (s : State) (d : Dev) (off : Fin 268435456), s.Ready d → s.mem.wf →
    let a := d.rd PCI_WIN2_POS.POS * 2 ^ 28 + off
    (∀ bs : List Byte, off.val + bs.length ≤ 268435456 → (d.wr PCI_LINK_STS.L1 0).hbmTakes 0x0C8 a bs.length = true → ∃ t, exec (.win2Access off (.write bs false)) s = .next t ∧
      (∀ k (h : k < bs.length), storeGet (memDefault .hbm) t.mem.hbm (a + k) = bs[k]) ∧
      (∀ x, x < a ∨ a + bs.length ≤ x → storeGet (memDefault .hbm) t.mem.hbm x = storeGet (memDefault .hbm) s.mem.hbm x) ∧
      t.mem.sram = s.mem.sram ∧ t.mem.nor = s.mem.nor ∧ t.mem.wf ∧ t.time = s.time) ∧
    (∀ n, off.val + n ≤ 268435456 → (d.wr PCI_LINK_STS.L1 0).hbmTakes 0x0C8 a n = true →
      exec (.win2Access off (.read n)) s = .next (s.withDev (((d.wr PCI_LINK_STS.L1 0).hbmReads 0x0C8 a n).send
        (.readData (s.env.bytes .hbm a n) ((d.wr PCI_LINK_STS.L1 0).poisoned a n))))) ∧
    (∀ bs : List Byte, exec (.win2Access off (.write bs true)) s = .next (s.withDev ((d.wr PCI_LINK_STS.L1 0).poisonedWrite)))

/-- R391 to R396, R410, R413, R523: events of the PCIe link, its resets, and configuration writes. The model's own choices and inferences
in it: log entries 115, 155. -/
def Obligations.PcieLinkAndConfiguration : Prop :=
  ∀ (s : State) (d : Dev), s.Ready d →
    (exec .perstAssert s = .next (s.withDev (d.pciReset.configReset.pcieDown.upLink (fun l => { l with perst := true })))) ∧
    (exec .perstRelease s = .next (s.after
      ((((d.upLink (fun l => { l with perst := false })).wr (CLK_STS.LOCK.on 212) 1).wr
        (CLK_STS.LOCK.on 213) 1).clocksBack s.env))) ∧
    (exec .flr s = .next (s.withDev d.pciReset.configReset)) ∧
    (∀ (w : Fin 64) (v : Fin 16), d.dma.link.perst = false → 0 < w.val → w.val ≤ (if d.bit GLB_STRAP.PCIE_X8 then 8 else 16) →
      0 < v.val → v.val ≤ 5 → exec (.pcieLinkUp w v) s =
        .next (s.withDev (((d.wr PCI_LINK_STS.WIDTH w).wr PCI_LINK_STS.SPEED v).wr PCI_LINK_STS.UP 1))) ∧
    (∀ k : Fin 8, k.val ≤ 2 → exec (.pcieConfigWrite (.maxPayload k)) s =
      .next (s.withDev (d.upLink (fun l => { l with maxPayload := 128 * 2 ^ k.val })))) ∧
    (∀ k : Fin 8, k.val ≤ 5 → exec (.pcieConfigWrite (.maxRead k)) s =
      .next (s.withDev (d.upLink (fun l => { l with maxRead := 128 * 2 ^ k.val })))) ∧
    (∀ on, exec (.pcieConfigWrite (.busMaster on)) s = .next (s.withDev (d.upLink (fun l => { l with busMaster := on }))) ∧
      exec (.pcieConfigWrite (.aspmL1 on)) s = .next (s.withDev (d.upLink (fun l => { l with aspmL1 := on }))) ∧
      exec (.pcieConfigWrite (.powerD3 on)) s = .next (s.withDev (d.upLink (fun l => { l with d3 := on }))) ∧
      exec (.pcieConfigWrite (.msixMask on)) s = .next (s.withDev
        ((List.range 2048).foldl Dev.sendPending { d with pci := { d.pci with funcMask := on } })))

/-- R395, R410, R413: MSI-X unmasking, LTR, L1, PCIe errors, and WIN4. The model's own choices and inferences in it: log entry 113. -/
def Obligations.PcieMessagesAndErrors : Prop :=
  ∀ (s : State) (d : Dev), s.Ready d →
    (∀ v : Fin 2048, exec (.msixUnmask v) s = .next (s.withDev ((d.setMsix (4 * v + 3) 0).sendPending v))) ∧
    (∀ data : Fin 4294967296, d.pageClocked .PCI 0 = false → exec (.ltrWrite data) s = .next (s.withDev
      (d.holdLive (pagePCI + 0x48) 0xFFFFFFFF (BitVec.ofNat 32 data) 0))) ∧
    (∀ data : Fin 4294967296, d.pageClocked .PCI 0 = true → exec (.ltrWrite data) s = .next (s.withDev
      ((d.setWord (pagePCI + 0x48) (BitVec.ofNat 32 data)).send (.ltr (data % 65536) (data / 65536))))) ∧
    (d.bit PCI_LINK_STS.UP = true → d.dma.link.aspmL1 = true → d.rd PCI_L1_IDLE.US ≠ 0 → d.bit PCI_LINK_STS.L1 = false →
      exec .l1IdleExpire s = .next (s.withDev ((d.wr PCI_LINK_STS.L1 1).send .l1Request))) ∧
    (exec .linkErrorReplay s = .next (s.withDev ((d.wr PCI_CNT_CORR.COUNT (d.rd PCI_CNT_CORR.COUNT + 1)).send .aer))) ∧
    (exec .malformedTlp s = .next (s.withDev (d.event PCI_EVT.MALFORMED))) ∧
    (exec .unexpectedCompletion s = .next (s.withDev (d.event PCI_EVT.UNEXP_CPL))) ∧
    (∀ (off : Fin 65536) op, off.val + winSize op > 0x8100 →
      exec (.win4Access off op) s = .next (s.withDev
        ((((d.wr PCI_LINK_STS.L1 0).event PCI_EVT.UR_RX).send .unsupported).send .aer))) ∧
    (∀ (off : Fin 65536), off.val % 4 = 0 → off.val + 4 ≤ 0x8100 → exec (.win4Access off (.read 4)) s = .next (s.withDev
      ((d.wr PCI_LINK_STS.L1 0).send (.readData (natLE 4 ((d.wr PCI_LINK_STS.L1 0).win4Word (off / 4))) false)))) ∧
    (∀ (off : Fin 65536) bs, off.val % 4 = 0 → bs.length = 4 → off.val + 4 ≤ 0x8100 → exec (.win4Access off (.write bs false)) s =
      .next (s.withDev ((d.wr PCI_LINK_STS.L1 0).win4Write (off / 4) (leNat bs))))


/-! The Herd, interrupts, mailbox and console. -/

/-- R417 to R419: cache maintenance, sleep, offline and online, doorbells, the compare timer, debug halt and resume. The model's own
choices and inferences in it: log entries 116, 117. -/
def Obligations.HerdCores : Prop :=
  ∀ (s : State) (d : Dev) (n : Fin 4), s.Ready d →
    (d.bit (HCC_CMO_STS.BUSY.on n) = false →
      (∀ dirty, exec (.cmoClean (.herd n) n dirty) s = .next (s.after ((d.cleanLines n dirty).wr (HCC_CMO_STS.BUSY.on n) 1)) ∧
        exec (.cmoCleanInval (.herd n) n dirty) s = .next (s.after ((d.cleanLines n dirty).wr (HCC_CMO_STS.BUSY.on n) 1))) ∧
      exec (.cmoInval (.herd n) n) s = .next (s.withDev (d.wr (HCC_CMO_STS.BUSY.on n) 1)) ∧
      exec (.cmoInvalI (.herd n) n) s = .next (s.withDev (d.wr (HCC_CMO_STS.BUSY.on n) 1))) ∧
    (d.bit (HCC_CMO_STS.BUSY.on n) = true →
      exec (.cmoDone n) s = .next (s.withDev ((d.wr (HCC_CMO_STS.BUSY.on n) 0).raisePriv n 9))) ∧
    (d.rd (HCC_STS.STATE.on n) = 0 → d.lineActive n = false →
      exec (.coreSleep n) s = .next (s.withDev (d.wr (HCC_STS.STATE.on n) 1))) ∧
    (d.rd (HCC_STS.STATE.on n) = 0 ∨ d.rd (HCC_STS.STATE.on n) = 1 → exec (.coreOffline n) s =
      .next (s.withDev (((d.wr (HCC_CTL.OFFLINE.on n) 1).wr (HCC_STS.STATE.on n) 2).strand n))) ∧
    (d.rd (HCC_STS.STATE.on n) = 2 → exec (.coreOnline n) s =
      .next (s.withDev (((d.wr (HCC_CTL.OFFLINE.on n) 0).wr (HCC_STS.STATE.on n) 0).redeliver n))) ∧
    (∀ rq, exec (.dbellRing rq n) s = .next (s.withDev
      ((d.wr ⟨0xD01054 + 0x1000 * n, bellOf rq, 1, false⟩ 1).raisePriv n (bellOf rq)))) ∧
    (n.val ∈ d.herd.timers → d.rd (HCC_TIMER.COMPARE.on n) ≤ s.now → exec (.hccTimerFire n) s = .next (s.withDev
      ((d.upHerd (fun h => { h with timers := h.timers.filter (· != n.val) })).raisePriv n 8))) ∧
    (d.debugFull = true → d.rd (HCC_STS.STATE.on n) ≠ 3 → exec (.debugHalt n) s = .next (s.withDev
      (((d.wr (HCC_STS.STATE.on n) 3).upHerd (fun h => { h with
        halted := storeSet (fun _ => 0) h.halted n (d.rd (HCC_STS.STATE.on n)) })).strand n))) ∧
    (d.debugFull = true → d.rd (HCC_STS.STATE.on n) = 3 → storeGet (fun _ => 0) d.herd.halted n ≠ 2 →
      exec (.debugResume n) s = .next (s.withDev
        (((d.upHerd (fun h => { h with halted := storeSet (fun _ => 0) h.halted n 0 })).wr (HCC_STS.STATE.on n) 0).redeliver n)))

/-- R424, R425, R429: a route written, and the level and filter of an external input. The model's own choices and inferences in it: log
entry 104. -/
def Obligations.InterruptRoutesAndInputs : Prop :=
  ∀ (s : State) (d : Dev), s.Ready d →
    (∀ (kind : Fin 8) (vector : Fin 2048), sourceExists (d.rd INT_SRC_SEL.SRC) = true →
      let src := d.rd INT_SRC_SEL.SRC
      let d' := (d.wr (INT_ROUTE.KIND.bk src) kind).wr (INT_ROUTE.VECTOR.bk src) vector
      exec (.intRouteWrite kind vector) s = .next (s.withDev (if d'.sourceActive src then d'.deliver src else d'))) ∧
    (∀ (i : Fin 16) high, exec (.extInputChange i high) s = .next (s.withDev ((d.wr (syncBit i) (ofBool high)).extCount i))) ∧
    (∀ i : Fin 16, i.val ∈ d.herd.counting → exec (.extFilterSettle i) s = .next (s.withDev
      (((d.upHerd (fun h => { h with counting := h.counting.filter (· != i.val) })).wr (filteredBit i) (ofBool (d.extLine i))).extEdge i
        (d.extLine i))))

/-- R420 to R422: operations of the host mailbox taken up or rejected, the firmware's answer, and the notification slot. The model's own
choices and inferences in it: log entries 119, 120. -/
def Obligations.HostMailbox : Prop :=
  ∀ (s : State) (d : Dev), s.Ready d →
    (∀ seq : Fin 65536, ∀ c ∈ [(Instr.mbxClsInsert seq, 1), (.mbxClsDelete seq, 2), (.mbxClsRead seq, 3), (.mbxMcastJoin seq, 4),
        (.mbxMcastLeave seq, 5), (.mbxPortAddr seq, 6), (.mbxRepl seq, 7), (.mbxVersion seq, 8)],
      (d.bit HCC_MBX_STS.BUSY = false → exec c.1 s = .next (s.withDev (((d.wr HCC_MBX_STS.BUSY 1).upHerd
        (fun h => { h with mbxOp := some (c.2, seq.val) })).raisePriv (d.rd HCC_MBX_CFG.CORE) 6))) ∧
      (d.bit HCC_MBX_STS.BUSY = true → exec c.1 s = .next (s.withDev (d.wr HCC_MBX_STS.REJECT 1)))) ∧
    (∀ op seq r d', d.herd.mbxOp = some (op, seq) → d.service d.mbxCore = true → d.mbxWaits op = false → d.mbxServe s.env op = (r, d') →
      exec .mbxDone s = .next (s.after (((((d'.wr HCC_MBX_STS.RESULT r).wr HCC_MBX_STS.SEQ seq).wr HCC_MBX_STS.BUSY 0).upHerd
        (fun h => { h with mbxOp := none })).event HCCC_EVT.MBX_DONE))) ∧
    (∀ rq, rq ≠ .host → exec (.ntfPost rq) s = .next (s.withDev ((d.wr HCC_NTF_STS.VALID 1).event HCCC_EVT.NTF_AVAIL))) ∧
    (d.bit HCC_NTF_STS.VALID = true → exec .ntfAck s =
      .next (s.withDev ((d.wr HCC_NTF_STS.VALID 0).raisePriv (d.rd HCC_MBX_CFG.CORE) 7)))

/-- R430: the console UART: bytes pushed and sent, received and read, in order, 16 each way; a byte too many sets its overflow bit. The
model's own choices and inferences in it: log entry 118. -/
def Obligations.ConsoleUart : Prop :=
  ∀ (s : State) (d : Dev), s.Ready d →
    (∀ (n : Fin 4) (b : Fin 256), d.herd.txFifo.length < 16 → exec (.uartTxWrite (.herd n) b) s =
      .next (s.withDev (d.upHerd (fun h => { h with txFifo := h.txFifo ++ [BitVec.ofNat 8 b] })))) ∧
    (∀ (n : Fin 4) (b : Fin 256), 16 ≤ d.herd.txFifo.length → exec (.uartTxWrite (.herd n) b) s =
      .next (s.withDev (d.wr HCC_UART_STS.TX_OVF 1))) ∧
    (∀ b r, d.herd.txFifo = b :: r → d.bit HCC_UART_CFG.EN = true → exec .uartByteSent s =
      .next (s.withDev ((d.upHerd (fun h => { h with txFifo := r })).send (.uart b)))) ∧
    (∀ b : Fin 256, d.bit HCC_UART_CFG.EN = true → d.herd.rxFifo.length < 16 → exec (.uartRxByte b) s =
      .next (s.withDev (d.upHerd (fun h => { h with rxFifo := h.rxFifo ++ [BitVec.ofNat 8 b] })))) ∧
    (∀ b : Fin 256, d.bit HCC_UART_CFG.EN = true → 16 ≤ d.herd.rxFifo.length → exec (.uartRxByte b) s =
      .next (s.withDev (d.wr HCC_UART_STS.RX_OVF 1))) ∧
    (∀ b r, d.herd.rxFifo = b :: r → exec .uartRxRead s =
      .next (s.withDev ((d.upHerd (fun h => { h with rxFifo := r })).send (.readData (natLE 4 (256 + b.toNat)) false)))) ∧
    (d.herd.rxFifo = [] → exec .uartRxRead s = .next (s.withDev (d.send (.readData [0, 0, 0, 0] false))))

/-! Faults and watchdogs. -/

/-- R438 to R454: faults collected, acknowledged and injected; watchdogs started, kicked and expired. The model's own choices and
inferences in it: log entries 122 to 125. -/
def Obligations.FaultsAndWatchdogs : Prop :=
  ∀ (s : State) (d : Dev), s.Ready d →
    (∀ (src : Fin 512) inst (master : Fin 1024) acc addr k r, fltSource src = some (k, r) →
      let d' := d.faultOf s.env src inst master addr
      exec (.faultCollect src inst master acc addr) s = .next (s.after (if d'.collects src then d'.collect s.now k src master acc addr else d'))) ∧
    (∀ classes : Fin 8, exec (.fltAck classes) s = .next (s.withDev ((List.range 3).foldl (fun d k =>
      if bitAt classes k then (d.wr (pendField k) 0).wr ⟨capKey k + 0x08, 31, 1, false⟩ 0 else d) d))) ∧
    (∀ (src : Fin 512) k r, d.glbIdle = true → fltSource src = some (k, r) → d.collects src = true →
      exec (.fltInject src) s = .next (s.after (d.collect s.now k src 0x163 0 0))) ∧
    (∀ src, d.glbIdle = false → exec (.fltInject src) s = .next (s.withDev (d.ignored (pageFLT 0) 0x058))) ∧
    (∀ n : Fin 5, d.bit (WDG_CFG.EN n) = false → exec (.wdgStart n) s = .next (s.withDev ((d.wr (WDG_CFG.EN n) 1).setWdt n
      { since := s.now, limit := max 1 ((d.wr (WDG_CFG.EN n) 1).rd (WDG_CFG.LIMIT n)), zero := false }))) ∧
    (∀ n : Fin 5, d.bit (WDG_CFG.EN n) = true → exec (.wdgKick (watched n) n 0x00A5) s = .next (s.withDev (d.setWdt n
      { since := s.now, limit := max 1 (d.rd (WDG_CFG.LIMIT n)), zero := false }))) ∧
    (∀ n : Fin 5, d.bit (WDG_CFG.EN n) = true → (d.wdt n).zero = false →
      let d' := ((d.setWdt n { d.wdt n with zero := true }).wr (WDG_STS.EXPIRED n) 1).event ⟨0x820010, n, 1, false⟩
      exec (.wdgExpire n) s = .next (s.withDev (if n.val < 4 then (d'.flag WDG_FLT.HERD_EXP).coreOff n else d'.flag WDG_FLT.SEC_EXP)))

/-- R445: writing 1 to a class of FLT_ACK returns its pending bit and its capture's VALID to 0; nothing else changes, neither any FLT_STS
word nor the safe state; and a fault of the class that is collected afterwards is captured as a first fault. -/
def Obligations.AcknowledgedClassesTakeNewFaults : Prop :=
  ∀ (s t : State) (d : Dev) (classes : Fin 8), s.Ready d → exec (.fltAck classes) s = .next t →
    (∀ k < 3, bitAt classes k = true →
      t.dev.bit (pendField k) = false ∧ t.dev.bit ⟨capKey k + 0x08, 31, 1, false⟩ = false) ∧
    (∀ k < 3, bitAt classes k = false → t.dev.bit (pendField k) = d.bit (pendField k) ∧
      t.dev.word (capKey k + 0x08) = d.word (capKey k + 0x08)) ∧
    (∀ k, k ≠ 0x810040 → k ≠ capKey 0 + 0x08 → k ≠ capKey 1 + 0x08 → k ≠ capKey 2 + 0x08 → t.dev.word k = d.word k) ∧
    t.dev.safe = d.safe ∧ t = s.withDev { d with regs := t.dev.regs } ∧
    (∀ k < 3, bitAt classes k = true → ∀ now src master acc addr,
      (t.dev.count (FLT_CNT.COUNT k) 1).merged src master addr = false →
      t.dev.collect now k src master acc addr =
        (let u := (t.dev.count (FLT_CNT.COUNT k) 1).capture now k src master acc addr false
         if k = 2 then u.enterSafe else u))


/-! Background services. -/

/-- R456, R459, R465, R467: scrubbing, sensors, telemetry. The model's own choices and inferences in it: log entries 126, 128, 129, 132. -/
def Obligations.ScrubbingSensorsAndTelemetry : Prop :=
  ∀ (s : State) (d : Dev), s.Ready d →
    (∀ found, d.open_ pageBGS = true → d.bit BGS_SCRUB_CFG.EN = true →
      let u := d.rd BGS_SCRUB_POS.UNIT
      let d' := (List.range 32).foldl (fun d h => d.patrolRead h u (found.map (fun x => (x.1.val, x.2)))) d
      exec (.patrolScrub found) s = .next (s.after (if u + 1 < patrolUnits then d'.wr BGS_SCRUB_POS.UNIT (u + 1)
        else ((d'.wr BGS_SCRUB_POS.UNIT 0).count BGS_CNT_SCRUB_PASS.COUNT 1).event BGS_EVT.SCRUB_PASS))) ∧
    (∀ array off, d.open_ pageBGS = true → d.bit BGS_SSCRUB_CFG.EN = true → off < scrubSize array →
      exec (.sramScrub array off 0) s = .next s ∧
      exec (.sramScrub array off 1) s = .next (s.withDev ((d.flag BGS_FLT.SCRUB_CE).count BGS_CNT_SSCRUB_CE.COUNT 1)) ∧
      (128 ≤ array → exec (.sramScrub array off 2) s = .next (s.withDev (d.flag BGS_FLT.SCRUB_UE)))) ∧
    (∀ temps rails, d.enabled pageBGS = true → temps.length = 16 → rails.length = 8 →
      exec (.sensorRead temps rails) s = .next (s.after (d.takeSensors temps rails))) ∧
    (∀ core, d.enabled pageBGS = true → d.bit BGS_TLM_CFG.EN = true → d.frozen pageBGS = false → d.dma.link.perst = false →
      d.bit PCI_LINK_STS.UP = true → d.dma.link.busMaster = true →
      exec (.tlmSnapshot core) s = .next (s.after (d.snapshot s.now core))) ∧
    (∀ core, d.enabled pageBGS = true → d.bit BGS_TLM_CFG.EN = true → d.dma.link.busMaster = false →
      exec (.tlmSnapshot core) s = .next (s.withDev (d.count BGS_CNT_TLM_SKIP.COUNT 1)))

/-- R461 to R464: a sweep started, rejected while one runs, ended, timed out, aborted; and the firmware's schedule. The model's own
choices and inferences in it: log entries 130, 131, 132. -/
def Obligations.EyeSweeps : Prop :=
  ∀ (s : State) (d : Dev), s.Ready d →
    (∀ h : Fin 32, d.bit BGS_CAL_STS.BUSY = true → exec (.calStart h) s = .next (s.withDev (d.wr BGS_CAL_STS.REJECT 1))) ∧
    (∀ h : Fin 32, d.bit BGS_CAL_STS.BUSY = false →
      let d0 := (d.wr BGS_CAL_STS.HMC h).wr BGS_CAL_STS.OPP_MOVED 0
      (d0.hmcLost h = true → exec (.calStart h) s = .next (s.withDev (d0.wr BGS_CAL_STS.OUTCOME 5))) ∧
      (d0.hmcLost h = false → exec (.calStart h) s = .next (s.after
        (let d2 := ((List.range 20).foldl (fun d k => (d.wr (BGS_CAL_MASK.MASK.bk k) 0).setWord (BGS_CAL_RES.WIDTH.bk k).base 0)
           ((d0.wr BGS_CAL_STS.OUTCOME 0).wr BGS_CAL_STS.BUSY 1)).scratchTraining h
         d2.upBgs (fun b => { b with fresh := false }))))) ∧
    (d.bit BGS_CAL_STS.BUSY = true →
      let a := d.upBgs (fun b => { b with again := b.again ++ [d.rd BGS_CAL_STS.HMC] })
      exec .calCmdAbort s = .next (s.withDev (a.calEnd 4)) ∧
      exec .calTimeout s = .next (s.withDev ((a.calEnd 3).event BGS_EVT.CAL_ABORT)) ∧
      ((d.ck (160 + d.rd BGS_CAL_STS.HMC)).waits ≠ none → exec .calOppHoldExpire s =
        .next (s.withDev (((a.calEnd 2).event BGS_EVT.CAL_ABORT).count BGS_CNT_CAL_ABORT.COUNT 1))) ∧
      (∀ masks, masks.length = 20 → d.open_ pageBGS = true → exec (.calGatherDone masks) s = .next (s.after (d.endSweep masks)))) ∧
    (d.service 2 = true → d.bit BGS_CAL_STS.BUSY = false → d.bgs.fresh = false → d.bgs.again = [] → d.warmed = none →
      exec .eyeSweepSchedule s = .next (s.after
        ((d.upBgs (fun b => { b with turn := (b.turn + 1) % 32 })).calStart d.bgs.turn)))

/-- R466, R480: PMBus transactions: the operation sent with its data, one at a time, and how each ends. The model's own choices and
inferences in it: log entry 127. -/
def Obligations.PmbusTransactions : Prop :=
  ∀ (s : State) (d : Dev), s.Ready d →
    (d.bit BGS_PMB_STS.BUSY = false → ∀ addr code pec,
      let go (op data : Nat) := ((d.wr BGS_PMB_STS.BUSY 1).send (.pmbus op addr.val code.val data pec)).upBgs
        (fun b => { b with pmb := op })
      exec (.pmbSendByte addr code pec) s = .next (s.withDev (go 1 0)) ∧
      exec (.pmbWriteByte addr code pec) s = .next (s.withDev (go 2 (d.rd BGS_PMB_DATA.DATA % 256))) ∧
      exec (.pmbWriteWord addr code pec) s = .next (s.withDev (go 3 (d.rd BGS_PMB_DATA.DATA))) ∧
      exec (.pmbReadByte addr code pec) s = .next (s.withDev (go 4 0)) ∧
      exec (.pmbReadWord addr code pec) s = .next (s.withDev (go 5 0))) ∧
    (d.bit BGS_PMB_STS.BUSY = true →
      (∀ v, d.bgs.pmb = 4 → exec (.pmbDone (.done v)) s = .next (s.withDev ((((d.wr BGS_PMB_STS.BUSY 0).wr BGS_PMB_STS.DONE 1).wr
        BGS_PMB_DATA.DATA (v.val % 256)).event BGS_EVT.PMB_DONE))) ∧
      (∀ v, d.bgs.pmb = 5 → exec (.pmbDone (.done v)) s = .next (s.withDev ((((d.wr BGS_PMB_STS.BUSY 0).wr BGS_PMB_STS.DONE 1).wr
        BGS_PMB_DATA.DATA v).event BGS_EVT.PMB_DONE))) ∧
      (∀ v, d.bgs.pmb < 4 → exec (.pmbDone (.done v)) s =
        .next (s.withDev (((d.wr BGS_PMB_STS.BUSY 0).wr BGS_PMB_STS.DONE 1).event BGS_EVT.PMB_DONE))) ∧
      exec (.pmbDone .nack) s = .next (s.withDev (((d.wr BGS_PMB_STS.BUSY 0).wr BGS_PMB_STS.NACK 1).event BGS_EVT.PMB_DONE)) ∧
      exec (.pmbDone .pecErr) s = .next (s.withDev (((d.wr BGS_PMB_STS.BUSY 0).wr BGS_PMB_STS.PEC_ERR 1).event BGS_EVT.PMB_DONE)) ∧
      exec .pmbStretchTimeout s = .next (s.withDev ((d.wr BGS_PMB_STS.BUSY 0).wr BGS_PMB_STS.TIMEOUT 1)))

/-- R250, R471, R474 to R476: measurements, the promotion of a spare, a round of the margin plan, and the settings store's next operation on
the flash. The model's own choices and inferences in it: log entries 133, 134, 135, 185, 197. -/
def Obligations.MarginsAndSpares : Prop :=
  ∀ (s : State) (d : Dev), s.Ready d →
    (∀ dom : Fin 221, d.bit (ANT_STS.BUSY.on dom) = false → let d' := d.wr (ANT_STS.BUSY.on dom) 1
      (d'.open_ (pageANT dom) = true → d'.changing dom = false → exec (.antMeasure dom) s = .next (s.withDev d')) ∧
      (d'.changing dom = true → exec (.antMeasure dom) s = .next (s.withDev (d'.upAnts (fun l => dom.val :: l))))) ∧
    (∀ (dom : Fin 221) m, d.measuring dom = true → m.slacks.length = 8 →
      exec (.measDone dom m) s = .next (s.after (d.endMeasure s.now dom m))) ∧
    (∀ e : Fin 128, d.service 2 = true → d.pxeService e = 2 → (d.px e).op = .none → d.bit (ANT_STS.BUSY.on e) = false →
      bitAt (d.plan e).flags 2 = false →
      (d.rd (PXE_STS.ST_RESULT.on e) = 0 → d.pxeSpare e = false → (d.replaceEngine e).2 = true →
        let r := (d.replaceEngine e).1
        exec (.sparePromotion e) s = .next (s.after ((((r.setPlan e { r.plan e with testing := true, phase := 0, short := false }).writeSpare e 1).pxeSelftest
          e).antMeasure e))) ∧
      ((d.plan e).testing = true → (d.plan e).short = false →
        (d.rd (PXE_STS.ST_RESULT.on e) = 2 ∨ (d.rd (PXE_STS.ST_RESULT.on e) = 1 ∧ (d.plan e).twice = true) →
          exec (.sparePromotion e) s = .next (s.after ((d.pxeRetire e).setPlan e
            { d.plan e with flags := (d.plan e).flags ||| 4, testing := false, phase := 0, short := false }))) ∧
        (d.rd (PXE_STS.ST_RESULT.on e) = 1 → (d.plan e).twice = false → (d.plan e).phase = 0 → d.bit (ANT_STS.NOCLK.on e) = false →
          d.bit (ANT_STS.VALID.on e) = true → 25 ≤ d.rd (ANT_STS.SLACK.on e) →
          exec (.sparePromotion e) s = .next (s.after ((d.pxeRelease e).setPlan e { d.plan e with
            slack := d.rd (ANT_STS.SLACK.on e), vset := d.rd (PXE_OPP_STS.VSET.on e), freq := d.rd (PXE_OPP_STS.FREQ.on e)
            testing := false, phase := 0, short := false }))))) ∧
    (∀ (doms : List (Fin 221)) fails, let d := if d.service 3 then d.flashStep s.env fails else d
      (d.service 2 = true → doms ≠ [] → exec (.marginPlanRound ⟨doms, fails⟩) s =
        .next (s.after (doms.foldl (fun d k => d.planDomain s.env k.val) d).designateSpares.writePlan)) ∧
      (d.service 2 = false ∨ doms = [] → exec (.marginPlanRound ⟨doms, fails⟩) s = .next (s.after d)))

/-! Clocks and resets. -/

/-- R512, R513, R521, R525, R436, R536: voltage steps written and reached, lock lost and regained, references lost. The model's own
choices and inferences in it: log entry 136. -/
def Obligations.ClockDomains : Prop :=
  ∀ (s : State) (d : Dev), s.Ready d →
    (∀ (dom : Fin 221) (v : Fin 64), clkNoVset dom = false → let d' := d.wr (CLK_OPP.VSET.on dom) v
      (exec (.clkOppWrite dom v) s = .next (s.withDev ((d'.setCk dom { d'.ck dom with
        waits := if d'.goingTo dom = min 32 v.val then none
          else some (min 32 v.val) }).tryOpp dom)))) ∧
    (∀ (dom : Fin 221) v, clkNoVset dom = true → exec (.clkOppWrite dom v) s = .next s) ∧
    (∀ (dom : Fin 221) v, (d.ck dom).target = some v → (dom.val < 160 ∨ 192 ≤ dom.val) →
      let d' := (d.wr (CLK_STS.VSET.on dom) v).wr (CLK_STS.CHANGING.on dom) 0
      exec (.clkOppDone dom) s = .next (s.withDev
        ((((d'.setCk dom { d'.ck dom with target := none }).event (CLK_EVT.OPP_DONE.on dom)).antResume dom).tryOpp dom))) ∧
    (∀ dom : Fin 221, hasSynth dom = true → d.bit (CLK_STS.LOCK.on dom) = true →
      exec (.lockLoss dom) s = .next (s.after (d.lockLost s.now dom))) ∧
    (∀ dom : Fin 221, hasSynth dom = true →
      exec (.synthesiserRelock dom) s = .next (s.after (((d.wr (CLK_STS.LOCK.on dom) 1).tryOpp dom).clocksBack s.env)).timeBack) ∧
    (exec (.refclkLoss .eth) s = .next (s.after
      ([200, 201, 202, 203, 204, 205, 206, 207, 211].foldl (fun d k => d.lockLost s.now k) d))) ∧
    (d.dma.link.perst = false → exec (.refclkLoss .pcie) s = .next (s.after ((d.lockLost s.now 212).lockLost s.now 213).pcieDown)) ∧
    (d.dma.link.perst = true → exec (.refclkLoss .pcie) s = .next (s.after
      ((((d.wr (CLK_STS.LOCK.on 212) 0).abandonOpp 212).wr (CLK_STS.LOCK.on 213) 0).abandonOpp 213)))

/-- R520, R523, R527, R504: the power-on and device resets, their release, and EXTEST. The model's own choices and inferences in it: log
entries 105, 145, 146, 147. -/
def Obligations.ResetsAndTheirRelease : Prop :=
  ∀ s : State,
    (exec .porstAssert s = .next { s with time := 0, mem := { s.mem with hbm := [], sram := [] }, dev := (s.dev.afterReset 1).wr rstCause 1 }) ∧
    (∀ g : Fin 16, s.dev.sec.rst = 1 → exec (.porstRelease g) s = .next (s.after
      ((((s.dev.upSec (fun x => { x with rst := 0 })).wr ⟨0x58, 0, 4, false⟩ g).startClocks).bootRom s.env))) ∧
    (s.dev.sec.rst = 0 → exec (.deviceReset .host 0xD0E5) s = .next { s with time := 0, dev := s.dev.deviceReset 2 } ∧
      exec (.deviceReset .sec 0xD0E5) s = .next { s with time := 0, dev := s.dev.deviceReset 4 }) ∧
    (∀ rq (key : Fin 65536), key.val ≠ 0xD0E5 ∨ (∃ n, rq = .herd n) ∨ s.dev.sec.rst ≠ 0 → exec (.deviceReset rq key) s = .next s) ∧
    (s.dev.sec.rst = 2 → exec .deviceResetRelease s = .next (s.after
      (((s.dev.upSec (fun x => { x with rst := 0 })).startClocks).bootRom s.env))) ∧
    (∀ b, exec (.extest b) s = .next (s.after (((List.range 8).foldl Dev.portDown (s.dev.send (.balls b))).pcieDown)))

/-- R520, R527: a device reset returns every register word to its reset value but for CLK_RST_CAUSE, which names its requester, the straps
and the link status; it ends the safe state and keeps the memories, the link and what has left the device before. The model's own choices
and inferences in it: log entries 9, 145, 146. -/
def Obligations.DeviceResetKeepsLinkAndStraps : Prop :=
  ∀ (s t : State) (d : Dev) (rq : Requester), s.Ready d → exec (.deviceReset rq 0xD0E5) s = .next t → (∀ n, rq ≠ .herd n) →
    (∀ k, k ≠ 0xAD8084 → k ≠ 0x58 → k ≠ 0x710040 → t.dev.word k = regReset k) ∧
    t.dev.word 0x58 = d.word 0x58 ∧ t.dev.word 0x710040 = d.word 0x710040 ∧
    t.dev.rd rstCause = (if rq = .host then 2 else 4) ∧ t.mem = s.mem ∧ t.dev.dma.link = d.dma.link ∧ t.dev.safe = false ∧
    t.dev.sec.rst = 2 ∧ t.pending = s.pending

/-! The security core. -/

/-- R494 to R496, R509, R510: scans, downloads, their ends, STATUS, SCAN and ACTIVATE. The model's own choices and inferences in it: log
entries 140, 141, 142, 144. -/
def Obligations.ImagesAreDownloaded : Prop :=
  ∀ (s : State) (d : Dev), s.Ready d → d.sec.phase ≠ .stopped →
    (∀ files, d.sec.dl = none → d.bit SEC_BOOT_STS.TRIAL = false → (files.take 32).filter (fun x => fileReason d x == 0) = [] →
      exec (.sdScan files) s = .next (s.after ((d.setUpd 6).scanEnds s.env
        (firstReason d (files.take 32))))) ∧
    (∀ files, d.sec.dl = none → d.bit SEC_BOOT_STS.TRIAL = false →
      exec (.sdScan files) s = .next (s.after (d.scanFiles s.env (files.take 32)))) ∧
    (∀ written l, d.sec.dl = some l → exec (.sdCardRemove written) s = .next (s.after (d.downloadFails s.env 14 written))) ∧
    (∀ (reason : Fin 16) written l, d.sec.dl = some l → 10 ≤ reason.val → reason.val ≤ 14 →
      exec (.downloadFailed reason written) s = .next (s.after (d.downloadFails s.env reason written))) ∧
    (∀ l file, d.sec.dl = some l →
      exec (.downloadDone file) s = .next (s.after (if fileGood l file then d.downloaded s.env l file else d))) ∧
    (∀ m (seq : Fin 65536), d.bit (mbxBusy m) = false →
      exec (.status m seq) s = .next (s.after
        (((d.freeVal 512).2.setSecData m (natLE 64 (d.freeVal 512).1)).secDone m seq 0 0)) ∧
      (d.sec.dl = none → d.rd SEC_UPD_STS.STATE ≠ 1 → d.bit SEC_BOOT_STS.TRIAL = false →
        exec (.scan m seq) s = .next (s.after ((d.secHold m 2 seq).setUpd 1))) ∧
      (∀ r x d', d.activation s.env = (r, x, d') →
        exec (.activate m seq) s = .next (s.after (if r = 0 then d'.secHold m 3 seq else d'.secDone m seq r x))))

/-- R496 to R501: handover, READY, a start that fails, CONFIRM, REVERT and RESTART. The model's own choices and inferences in it: log
entries 138, 139, 143. -/
def Obligations.FirmwareStartsAndIsConfirmed : Prop :=
  ∀ (s : State) (d : Dev), s.Ready d → d.sec.phase ≠ .stopped →
    (d.sec.phase = .handover → exec .handoverTimeout s = .next (s.after (d.takeOver s.env))) ∧
    (∀ seq : Fin 65536, d.bit (mbxBusy .herd) = false → d.sec.phase = .handover →
      exec (.handoverReady .herd seq) s = .next (s.after ((d.secDone .herd seq 0 0).takeOver s.env))) ∧
    (∀ seq : Fin 65536, d.bit (mbxBusy .herd) = false → d.sec.phase = .starting ∨ d.sec.phase = .running →
      exec (.ready .herd seq) s = .next (s.after (d.takeReady s.env .herd seq (leNat (d.secData .herd 8 8))))) ∧
    (d.sec.phase = .starting → exec .fwStartTimeout s = .next (s.after (d.startFailed s.env))) ∧
    (∀ (seq : Fin 65536) period, d.bit (mbxBusy .herd) = false → d.sec.phase = .running → s.env.slotIs d d.sec.slot = 2 → d.safe = false →
      d.sec.startAt + clampNat 1 1440 period * 60000000000 ≤ s.now →
      exec (.confirm .herd seq period) s = .next (s.after (d.confirm s.env .herd seq d.sec.slot))) ∧
    (∀ m (seq : Fin 65536), d.bit (mbxBusy m) = false → d.sec.phase = .running →
      (s.env.slotIs d d.sec.slot = 2 → exec (.revert m seq) s =
        .next (s.after (((d.secHold m 5 seq).mark s.env d.sec.slot 5 0).startGood s.env))) ∧
      (s.env.slotIs d d.sec.slot ≠ 2 → exec (.revert m seq) s = .next (s.withDev ((d.updReason 17).secDone m seq 3 17)))) ∧
    (∀ seq : Fin 65536, d.bit (mbxBusy .host) = false → d.sec.phase = .running →
      exec (.restart .host seq) s = .next (s.after ((d.secHold .host 6 seq).startFailed s.env)))

/-- R491, R509: components loaded, NOR copied, programmed and erased, for the running firmware. The model's own choices and inferences in
it: log entry 142. -/
def Obligations.FirmwareReachesItsNor : Prop :=
  ∀ (s : State) (d : Dev) (seq : Fin 65536), s.Ready d → d.sec.phase ≠ .stopped → d.bit (mbxBusy .herd) = false →
    let a := leNat (d.secData .herd 0 4)
    let n := leNat (d.secData .herd 4 4)
    let h := leNat (d.secData .herd 8 8)
    (∀ r x d', d.loadFrom .herd (s.env.slotBody d d.sec.slot) (List.range 16) = (r, x, d') →
      exec (.loadComponents .herd seq) s = .next (s.after (d'.secDone .herd seq r x))) ∧
    (inSettings a n = true ∨ inSlot d.sec.slot a n = true → exec (.norCopy .herd seq) s =
      .next (s.after ((d.store .hbm h ((s.env.seen d).bytes .nor a n)).secDone .herd seq 0 0))) ∧
    (inSettings a n = true → n ≤ 65536 → exec (.norProg .herd seq false) s = .next (s.after
      ((d.store .nor a ((((s.env.seen d).bytes .nor a n).zip ((s.env.seen d).bytes .hbm h n)).map (fun x => x.1 &&& x.2))).secDone
        .herd seq 0 0))) ∧
    (inSettings (a / 65536 * 65536) 65536 = true → exec (.norErase .herd seq false) s =
      .next (s.after ((d.clear .nor (a / 65536 * 65536) 65536).secDone .herd seq 0 0)))

/-- R509: NOR_ERASE that succeeds leaves its 64 KiB sector of the settings store erased and every other byte of NOR, HBM and SRAM as it
was. -/
def Obligations.EraseTouchesItsSectorOnly : Prop :=
  ∀ (s t : State) (d : Dev) (seq : Fin 65536), s.Ready d → s.mem.wf → d.sec.phase ≠ .stopped → d.bit (mbxBusy .herd) = false →
    let a := leNat (d.secData .herd 0 4) / 65536 * 65536
    inSettings a 65536 = true → exec (.norErase .herd seq false) s = .next t →
    (∀ x, a ≤ x → x < a + 65536 → storeGet (memDefault .nor) t.mem.nor x = 0xFF) ∧
    (∀ x, x < a ∨ a + 65536 ≤ x → storeGet (memDefault .nor) t.mem.nor x = storeGet (memDefault .nor) s.mem.nor x) ∧
    t.mem.hbm = s.mem.hbm ∧ t.mem.sram = s.mem.sram ∧ t.mem.wf ∧ t.time = s.time

/-- R505, R509: debug levels: the password, the challenge and its response, the lock, and the nonce's end. -/
def Obligations.DebugAccess : Prop :=
  ∀ (s : State) (d : Dev) (seq : Fin 65536), s.Ready d → d.sec.phase ≠ .stopped →
    (d.bit (mbxBusy .host) = false →
      (d.rd SEC_LC.PW_FAILS < 5 →
        let n := leNat (d.secData .host 0 1)
        exec (.dbgPassword .host seq) s = .next (s.withDev
          (if 8 ≤ n ∧ n ≤ 64 ∧ Config.sha384 (unitId ++ d.secData .host 1 n) = Config.otpPassword then
            (d.wr SEC_LC.DBG (max 1 (d.rd SEC_LC.DBG))).secDone .host seq 0 0
          else (d.wr SEC_LC.PW_FAILS (min 5 (d.rd SEC_LC.PW_FAILS + 1))).secDone .host seq 3 0))) ∧
      (5 ≤ d.rd SEC_LC.PW_FAILS → exec (.dbgPassword .host seq) s = .next (s.withDev (d.secDone .host seq 3 0))) ∧
      (exec (.dbgChallenge .host seq) s = .next (s.after ((((d.freeVal 256).2.upSec
        (fun x => { x with nonce := some (natLE 32 (d.freeVal 256).1) })).setSecData .host (natLE 32 (d.freeVal 256).1)).secDone
          .host seq 0 0))) ∧
      (∀ v, d.sec.nonce = some v →
        let d' := d.upSec (fun x => { x with nonce := none })
        exec (.dbgResponse .host seq) s = .next (s.withDev
          (if Config.sha384 (d.secData .host 96 49) = Config.otpDebugKey ∧
              Config.ecdsaOk (d.secData .host 96 49) (d.secData .host 0 96) (v ++ unitId ++ [0x02]) then
            (d'.wr SEC_LC.DBG 2).secDone .host seq 0 0
          else d'.secDone .host seq 3 0))) ∧
      (d.sec.nonce = none → exec (.dbgResponse .host seq) s = .next (s.withDev (d.secDone .host seq 3 0)))) ∧
    (∀ m, d.bit (mbxBusy m) = false → exec (.dbgLock m seq) s = .next (s.withDev ((d.wr SEC_LC.DBG 0).secDone m seq 0 0))) ∧
    (exec .nonceExpire s = .next (s.withDev (d.upSec (fun x => { x with nonce := none }))))
end

