-- ==== Sys2Proof/Laws/Bits.lean ====
section
/-! SUPPORT. Laws of bit fields: a field reads what was put there, and every field beside it keeps its value. -/

namespace Sys2Proof.Machine

/-- A number cut at bits `l` and `l + n`. -/
theorem bits_split (x l n : Nat) : x = x % 2 ^ l + x / 2 ^ l % 2 ^ n * 2 ^ l + x / 2 ^ (l + n) * 2 ^ (l + n) := by
  have h1 := Nat.div_add_mod x (2 ^ l)
  have h2 := Nat.div_add_mod (x / 2 ^ l) (2 ^ n)
  have h3 : x / 2 ^ (l + n) = x / 2 ^ l / 2 ^ n := by rw [Nat.pow_add, Nat.div_div_eq_div_mul]
  rw [h3, Nat.pow_add]
  calc x = 2 ^ l * (x / 2 ^ l) + x % 2 ^ l := h1.symm
    _ = 2 ^ l * (2 ^ n * (x / 2 ^ l / 2 ^ n) + x / 2 ^ l % 2 ^ n) + x % 2 ^ l := by rw [h2]
    _ = _ := by ring

/-- The number with its bits `l` to `l + n - 1` replaced. -/
def natPut (x l n v : Nat) : Nat := x - x / 2 ^ l % 2 ^ n * 2 ^ l + v % 2 ^ n * 2 ^ l

theorem natPut_eq (x l n v : Nat) : natPut x l n v = x % 2 ^ l + v % 2 ^ n * 2 ^ l + x / 2 ^ (l + n) * 2 ^ (l + n) := by
  have h := bits_split x l n
  unfold natPut
  omega

theorem natPut_lt {x l n v m : Nat} (hx : x < 2 ^ m) (h : l + n ≤ m) : natPut x l n v < 2 ^ m := by
  rw [natPut_eq]
  have ha : x % 2 ^ l < 2 ^ l := Nat.mod_lt _ (by positivity)
  have hb : v % 2 ^ n < 2 ^ n := Nat.mod_lt _ (by positivity)
  have hm : (2 : Nat) ^ m = 2 ^ (l + n) * 2 ^ (m - (l + n)) := by rw [← Nat.pow_add]; congr 1; omega
  have hc : x / 2 ^ (l + n) < 2 ^ (m - (l + n)) := by
    rw [Nat.div_lt_iff_lt_mul (by positivity)]; rw [hm] at hx; linarith
  have h1 : x % 2 ^ l + v % 2 ^ n * 2 ^ l < 2 ^ (l + n) := by
    rw [Nat.pow_add]
    calc x % 2 ^ l + v % 2 ^ n * 2 ^ l < 2 ^ l + v % 2 ^ n * 2 ^ l := by omega
      _ = (v % 2 ^ n + 1) * 2 ^ l := by ring
      _ ≤ 2 ^ n * 2 ^ l := Nat.mul_le_mul_right _ hb
      _ = _ := by ring
  rw [hm]
  calc _ < 2 ^ (l + n) + x / 2 ^ (l + n) * 2 ^ (l + n) := by omega
    _ = (x / 2 ^ (l + n) + 1) * 2 ^ (l + n) := by ring
    _ ≤ 2 ^ (m - (l + n)) * 2 ^ (l + n) := Nat.mul_le_mul_right _ hc
    _ = _ := by ring

theorem natPut_get (x l n v : Nat) : natPut x l n v / 2 ^ l % 2 ^ n = v % 2 ^ n := by
  rw [natPut_eq, Nat.pow_add]
  have hl : 0 < 2 ^ l := by positivity
  have : x % 2 ^ l + v % 2 ^ n * 2 ^ l + x / (2 ^ l * 2 ^ n) * (2 ^ l * 2 ^ n)
      = x % 2 ^ l + 2 ^ l * (v % 2 ^ n + 2 ^ n * (x / (2 ^ l * 2 ^ n))) := by ring
  rw [this, Nat.add_mul_div_left _ _ hl, Nat.div_eq_of_lt (Nat.mod_lt _ hl), Nat.zero_add, Nat.add_mul_mod_self_left, Nat.mod_mod]

/-- Equal below `l` and above `l + n`: other fields read the same. -/
theorem natPut_other (x l n v l' n' : Nat) (h : l + n ≤ l' ∨ l' + n' ≤ l) :
    natPut x l n v / 2 ^ l' % 2 ^ n' = x / 2 ^ l' % 2 ^ n' := by
  rw [natPut_eq]
  have hx := bits_split x l n
  rcases h with h | h
  · have e : l' = (l + n) + (l' - (l + n)) := by omega
    have hp : 0 < 2 ^ (l + n) := by positivity
    have low : ∀ b, b < 2 ^ n → x % 2 ^ l + b * 2 ^ l < 2 ^ (l + n) := by
      intro b hb
      have ha : x % 2 ^ l < 2 ^ l := Nat.mod_lt _ (by positivity)
      rw [Nat.pow_add]
      calc x % 2 ^ l + b * 2 ^ l < 2 ^ l + b * 2 ^ l := by omega
        _ = (b + 1) * 2 ^ l := by ring
        _ ≤ 2 ^ n * 2 ^ l := Nat.mul_le_mul_right _ hb
        _ = _ := by ring
    have h1 : ∀ b, b < 2 ^ n → (x % 2 ^ l + b * 2 ^ l + x / 2 ^ (l + n) * 2 ^ (l + n)) / 2 ^ l' = x / 2 ^ (l + n) / 2 ^ (l' - (l + n)) := by
      intro b hb
      conv_lhs => rw [e]
      rw [Nat.pow_add 2 (l + n), ← Nat.div_div_eq_div_mul, Nat.add_mul_div_right _ _ hp, Nat.div_eq_of_lt (low b hb), Nat.zero_add]
    rw [h1 _ (Nat.mod_lt _ (by positivity))]
    conv_rhs => rw [hx]
    rw [h1 _ (Nat.mod_lt _ (by positivity))]
  · have e : l = (l' + n') + (l - (l' + n')) := by omega
    have h1 : ∀ b c, (x % 2 ^ l + b * 2 ^ l + c * 2 ^ (l + n)) / 2 ^ l' % 2 ^ n' = x % 2 ^ l / 2 ^ l' % 2 ^ n' := by
      intro b c
      have : x % 2 ^ l + b * 2 ^ l + c * 2 ^ (l + n)
          = x % 2 ^ l + 2 ^ l' * (2 ^ n' * ((b + c * 2 ^ n) * 2 ^ (l - (l' + n')))) := by
        have h2 : (2 : Nat) ^ l = 2 ^ l' * 2 ^ n' * 2 ^ (l - (l' + n')) := by rw [← Nat.pow_add, ← Nat.pow_add]; congr 1
        rw [Nat.pow_add, h2]; ring_nf
      rw [this, Nat.add_mul_div_left _ _ (by positivity), Nat.add_mul_mod_self_left]
    rw [h1]
    conv_rhs => rw [hx]
    rw [h1]

theorem bitsPut_toNat (w : Word) (l n v : Nat) (h : l + n ≤ 32) : (bitsPut w l n v).toNat = natPut w.toNat l n v := by
  have := natPut_lt (v := v) w.isLt h
  unfold bitsPut bitsOf
  rw [BitVec.toNat_ofNat]
  exact Nat.mod_eq_of_lt this

/-- A field reads what was put there. -/
@[simp] theorem bitsOf_bitsPut (w : Word) (l n v : Nat) (h : l + n ≤ 32) : bitsOf (bitsPut w l n v) l n = v % 2 ^ n := by
  unfold bitsOf; rw [bitsPut_toNat _ _ _ _ h, natPut_get]

/-- A field beside it keeps its value. -/
theorem bitsOf_bitsPut_ne (w : Word) (l n v l' n' : Nat) (h : l + n ≤ 32) (hd : l + n ≤ l' ∨ l' + n' ≤ l) :
    bitsOf (bitsPut w l n v) l' n' = bitsOf w l' n' := by
  unfold bitsOf; rw [bitsPut_toNat _ _ _ _ h, natPut_other _ _ _ _ _ _ hd]

theorem bitsOf_lt (w : Word) (l n : Nat) : bitsOf w l n < 2 ^ n := Nat.mod_lt _ (by positivity)

end Sys2Proof.Machine
end

