-- ==== Sys2Proof/Laws/State.lean ====
section
/-! SUPPORT. What each update of the state leaves alone: one lemma per field per update, so that no proof unfolds a record update. -/

namespace Sys2Proof.Machine

/-! Updates of the state. -/

@[simp] theorem State.with_pending_time (s : State) (x : List Instr) : ({ s with pending := x } : State).time = s.time := (rfl)
@[simp] theorem State.with_pending_mem (s : State) (x : List Instr) : ({ s with pending := x } : State).mem = s.mem := (rfl)
@[simp] theorem State.with_pending_dev (s : State) (x : List Instr) : ({ s with pending := x } : State).dev = s.dev := (rfl)
@[simp] theorem State.with_time_pending (s : State) (x : Nat) : ({ s with time := x } : State).pending = s.pending := (rfl)
@[simp] theorem State.with_time_mem (s : State) (x : Nat) : ({ s with time := x } : State).mem = s.mem := (rfl)
@[simp] theorem State.with_time_dev (s : State) (x : Nat) : ({ s with time := x } : State).dev = s.dev := (rfl)
@[simp] theorem State.with_mem_pending (s : State) (x : Mem) : ({ s with mem := x } : State).pending = s.pending := (rfl)
@[simp] theorem State.with_mem_time (s : State) (x : Mem) : ({ s with mem := x } : State).time = s.time := (rfl)
@[simp] theorem State.with_mem_dev (s : State) (x : Mem) : ({ s with mem := x } : State).dev = s.dev := (rfl)
@[simp] theorem State.with_dev_pending (s : State) (x : Dev) : ({ s with dev := x } : State).pending = s.pending := (rfl)
@[simp] theorem State.with_dev_time (s : State) (x : Dev) : ({ s with dev := x } : State).time = s.time := (rfl)
@[simp] theorem State.with_dev_mem (s : State) (x : Dev) : ({ s with dev := x } : State).mem = s.mem := (rfl)

@[simp] theorem State.act_pending (s : State) (f : Env → Dev → Dev) : (s.act f).pending = s.pending := (rfl)
@[simp] theorem State.act_time (s : State) (f : Env → Dev → Dev) : (s.act f).time = s.time := (rfl)
@[simp] theorem State.act_posted (s : State) (f : Env → Dev → Dev) : (s.act f).dev.posted = [] := (rfl)

/-! setWord. -/

@[simp] theorem Dev.setWord_wpend (d : Dev) (k : Nat) (w : Word) : (d.setWord k w).wpend = d.wpend := (rfl)
@[simp] theorem Dev.setWord_liveHeld (d : Dev) (k : Nat) (w : Word) : (d.setWord k w).liveHeld = d.liveHeld := (rfl)
@[simp] theorem Dev.setWord_readHeld (d : Dev) (k : Nat) (w : Word) : (d.setWord k w).readHeld = d.readHeld := (rfl)
@[simp] theorem Dev.setWord_lowHeld (d : Dev) (k : Nat) (w : Word) : (d.setWord k w).lowHeld = d.lowHeld := (rfl)
@[simp] theorem Dev.setWord_free (d : Dev) (k : Nat) (w : Word) : (d.setWord k w).free = d.free := (rfl)
@[simp] theorem Dev.setWord_out (d : Dev) (k : Nat) (w : Word) : (d.setWord k w).out = d.out := (rfl)
@[simp] theorem Dev.setWord_posted (d : Dev) (k : Nat) (w : Word) : (d.setWord k w).posted = d.posted := (rfl)
@[simp] theorem Dev.setWord_chans (d : Dev) (k : Nat) (w : Word) : (d.setWord k w).chans = d.chans := (rfl)
@[simp] theorem Dev.setWord_enes (d : Dev) (k : Nat) (w : Word) : (d.setWord k w).enes = d.enes := (rfl)
@[simp] theorem Dev.setWord_pxes (d : Dev) (k : Nat) (w : Word) : (d.setWord k w).pxes = d.pxes := (rfl)
@[simp] theorem Dev.setWord_wdp (d : Dev) (k : Nat) (w : Word) : (d.setWord k w).wdp = d.wdp := (rfl)
@[simp] theorem Dev.setWord_unbound (d : Dev) (k : Nat) (w : Word) : (d.setWord k w).unbound = d.unbound := (rfl)
@[simp] theorem Dev.setWord_pci (d : Dev) (k : Nat) (w : Word) : (d.setWord k w).pci = d.pci := (rfl)
@[simp] theorem Dev.setWord_pxeMan (d : Dev) (k : Nat) (w : Word) : (d.setWord k w).pxeMan = d.pxeMan := (rfl)
@[simp] theorem Dev.setWord_pseMan (d : Dev) (k : Nat) (w : Word) : (d.setWord k w).pseMan = d.pseMan := (rfl)
@[simp] theorem Dev.setWord_pools (d : Dev) (k : Nat) (w : Word) : (d.setWord k w).pools = d.pools := (rfl)
@[simp] theorem Dev.setWord_bpmWaits (d : Dev) (k : Nat) (w : Word) : (d.setWord k w).bpmWaits = d.bpmWaits := (rfl)
@[simp] theorem Dev.setWord_hbcs (d : Dev) (k : Nat) (w : Word) : (d.setWord k w).hbcs = d.hbcs := (rfl)
@[simp] theorem Dev.setWord_poison (d : Dev) (k : Nat) (w : Word) : (d.setWord k w).poison = d.poison := (rfl)
@[simp] theorem Dev.setWord_net (d : Dev) (k : Nat) (w : Word) : (d.setWord k w).net = d.net := (rfl)
@[simp] theorem Dev.setWord_dma (d : Dev) (k : Nat) (w : Word) : (d.setWord k w).dma = d.dma := (rfl)
@[simp] theorem Dev.setWord_herd (d : Dev) (k : Nat) (w : Word) : (d.setWord k w).herd = d.herd := (rfl)
@[simp] theorem Dev.setWord_wdgs (d : Dev) (k : Nat) (w : Word) : (d.setWord k w).wdgs = d.wdgs := (rfl)
@[simp] theorem Dev.setWord_bgs (d : Dev) (k : Nat) (w : Word) : (d.setWord k w).bgs = d.bgs := (rfl)
@[simp] theorem Dev.setWord_clks (d : Dev) (k : Nat) (w : Word) : (d.setWord k w).clks = d.clks := (rfl)
@[simp] theorem Dev.setWord_antWaits (d : Dev) (k : Nat) (w : Word) : (d.setWord k w).antWaits = d.antWaits := (rfl)
@[simp] theorem Dev.setWord_sec (d : Dev) (k : Nat) (w : Word) : (d.setWord k w).sec = d.sec := (rfl)

/-! wr. -/

@[simp] theorem Dev.wr_wpend (d : Dev) (f : Field) (v : Nat) : (d.wr f v).wpend = d.wpend := by unfold Dev.wr; split <;> rfl
@[simp] theorem Dev.wr_liveHeld (d : Dev) (f : Field) (v : Nat) : (d.wr f v).liveHeld = d.liveHeld := by unfold Dev.wr; split <;> rfl
@[simp] theorem Dev.wr_readHeld (d : Dev) (f : Field) (v : Nat) : (d.wr f v).readHeld = d.readHeld := by unfold Dev.wr; split <;> rfl
@[simp] theorem Dev.wr_lowHeld (d : Dev) (f : Field) (v : Nat) : (d.wr f v).lowHeld = d.lowHeld := by unfold Dev.wr; split <;> rfl
@[simp] theorem Dev.wr_free (d : Dev) (f : Field) (v : Nat) : (d.wr f v).free = d.free := by unfold Dev.wr; split <;> rfl
@[simp] theorem Dev.wr_out (d : Dev) (f : Field) (v : Nat) : (d.wr f v).out = d.out := by unfold Dev.wr; split <;> rfl
@[simp] theorem Dev.wr_posted (d : Dev) (f : Field) (v : Nat) : (d.wr f v).posted = d.posted := by unfold Dev.wr; split <;> rfl
@[simp] theorem Dev.wr_chans (d : Dev) (f : Field) (v : Nat) : (d.wr f v).chans = d.chans := by unfold Dev.wr; split <;> rfl
@[simp] theorem Dev.wr_enes (d : Dev) (f : Field) (v : Nat) : (d.wr f v).enes = d.enes := by unfold Dev.wr; split <;> rfl
@[simp] theorem Dev.wr_pxes (d : Dev) (f : Field) (v : Nat) : (d.wr f v).pxes = d.pxes := by unfold Dev.wr; split <;> rfl
@[simp] theorem Dev.wr_wdp (d : Dev) (f : Field) (v : Nat) : (d.wr f v).wdp = d.wdp := by unfold Dev.wr; split <;> rfl
@[simp] theorem Dev.wr_unbound (d : Dev) (f : Field) (v : Nat) : (d.wr f v).unbound = d.unbound := by unfold Dev.wr; split <;> rfl
@[simp] theorem Dev.wr_pci (d : Dev) (f : Field) (v : Nat) : (d.wr f v).pci = d.pci := by unfold Dev.wr; split <;> rfl
@[simp] theorem Dev.wr_pxeMan (d : Dev) (f : Field) (v : Nat) : (d.wr f v).pxeMan = d.pxeMan := by unfold Dev.wr; split <;> rfl
@[simp] theorem Dev.wr_pseMan (d : Dev) (f : Field) (v : Nat) : (d.wr f v).pseMan = d.pseMan := by unfold Dev.wr; split <;> rfl
@[simp] theorem Dev.wr_pools (d : Dev) (f : Field) (v : Nat) : (d.wr f v).pools = d.pools := by unfold Dev.wr; split <;> rfl
@[simp] theorem Dev.wr_bpmWaits (d : Dev) (f : Field) (v : Nat) : (d.wr f v).bpmWaits = d.bpmWaits := by unfold Dev.wr; split <;> rfl
@[simp] theorem Dev.wr_hbcs (d : Dev) (f : Field) (v : Nat) : (d.wr f v).hbcs = d.hbcs := by unfold Dev.wr; split <;> rfl
@[simp] theorem Dev.wr_poison (d : Dev) (f : Field) (v : Nat) : (d.wr f v).poison = d.poison := by unfold Dev.wr; split <;> rfl
@[simp] theorem Dev.wr_net (d : Dev) (f : Field) (v : Nat) : (d.wr f v).net = d.net := by unfold Dev.wr; split <;> rfl
@[simp] theorem Dev.wr_dma (d : Dev) (f : Field) (v : Nat) : (d.wr f v).dma = d.dma := by unfold Dev.wr; split <;> rfl
@[simp] theorem Dev.wr_herd (d : Dev) (f : Field) (v : Nat) : (d.wr f v).herd = d.herd := by unfold Dev.wr; split <;> rfl
@[simp] theorem Dev.wr_wdgs (d : Dev) (f : Field) (v : Nat) : (d.wr f v).wdgs = d.wdgs := by unfold Dev.wr; split <;> rfl
@[simp] theorem Dev.wr_bgs (d : Dev) (f : Field) (v : Nat) : (d.wr f v).bgs = d.bgs := by unfold Dev.wr; split <;> rfl
@[simp] theorem Dev.wr_clks (d : Dev) (f : Field) (v : Nat) : (d.wr f v).clks = d.clks := by unfold Dev.wr; split <;> rfl
@[simp] theorem Dev.wr_antWaits (d : Dev) (f : Field) (v : Nat) : (d.wr f v).antWaits = d.antWaits := by unfold Dev.wr; split <;> rfl
@[simp] theorem Dev.wr_sec (d : Dev) (f : Field) (v : Nat) : (d.wr f v).sec = d.sec := by unfold Dev.wr; split <;> rfl

/-! count. -/

@[simp] theorem Dev.count_wpend (d : Dev) (f : Field) (n : Nat) : (d.count f n).wpend = d.wpend := by simp [Dev.count]
@[simp] theorem Dev.count_liveHeld (d : Dev) (f : Field) (n : Nat) : (d.count f n).liveHeld = d.liveHeld := by simp [Dev.count]
@[simp] theorem Dev.count_readHeld (d : Dev) (f : Field) (n : Nat) : (d.count f n).readHeld = d.readHeld := by simp [Dev.count]
@[simp] theorem Dev.count_lowHeld (d : Dev) (f : Field) (n : Nat) : (d.count f n).lowHeld = d.lowHeld := by simp [Dev.count]
@[simp] theorem Dev.count_free (d : Dev) (f : Field) (n : Nat) : (d.count f n).free = d.free := by simp [Dev.count]
@[simp] theorem Dev.count_out (d : Dev) (f : Field) (n : Nat) : (d.count f n).out = d.out := by simp [Dev.count]
@[simp] theorem Dev.count_posted (d : Dev) (f : Field) (n : Nat) : (d.count f n).posted = d.posted := by simp [Dev.count]
@[simp] theorem Dev.count_chans (d : Dev) (f : Field) (n : Nat) : (d.count f n).chans = d.chans := by simp [Dev.count]
@[simp] theorem Dev.count_enes (d : Dev) (f : Field) (n : Nat) : (d.count f n).enes = d.enes := by simp [Dev.count]
@[simp] theorem Dev.count_pxes (d : Dev) (f : Field) (n : Nat) : (d.count f n).pxes = d.pxes := by simp [Dev.count]
@[simp] theorem Dev.count_wdp (d : Dev) (f : Field) (n : Nat) : (d.count f n).wdp = d.wdp := by simp [Dev.count]
@[simp] theorem Dev.count_unbound (d : Dev) (f : Field) (n : Nat) : (d.count f n).unbound = d.unbound := by simp [Dev.count]
@[simp] theorem Dev.count_pci (d : Dev) (f : Field) (n : Nat) : (d.count f n).pci = d.pci := by simp [Dev.count]
@[simp] theorem Dev.count_pxeMan (d : Dev) (f : Field) (n : Nat) : (d.count f n).pxeMan = d.pxeMan := by simp [Dev.count]
@[simp] theorem Dev.count_pseMan (d : Dev) (f : Field) (n : Nat) : (d.count f n).pseMan = d.pseMan := by simp [Dev.count]
@[simp] theorem Dev.count_pools (d : Dev) (f : Field) (n : Nat) : (d.count f n).pools = d.pools := by simp [Dev.count]
@[simp] theorem Dev.count_bpmWaits (d : Dev) (f : Field) (n : Nat) : (d.count f n).bpmWaits = d.bpmWaits := by simp [Dev.count]
@[simp] theorem Dev.count_hbcs (d : Dev) (f : Field) (n : Nat) : (d.count f n).hbcs = d.hbcs := by simp [Dev.count]
@[simp] theorem Dev.count_poison (d : Dev) (f : Field) (n : Nat) : (d.count f n).poison = d.poison := by simp [Dev.count]
@[simp] theorem Dev.count_net (d : Dev) (f : Field) (n : Nat) : (d.count f n).net = d.net := by simp [Dev.count]
@[simp] theorem Dev.count_dma (d : Dev) (f : Field) (n : Nat) : (d.count f n).dma = d.dma := by simp [Dev.count]
@[simp] theorem Dev.count_herd (d : Dev) (f : Field) (n : Nat) : (d.count f n).herd = d.herd := by simp [Dev.count]
@[simp] theorem Dev.count_wdgs (d : Dev) (f : Field) (n : Nat) : (d.count f n).wdgs = d.wdgs := by simp [Dev.count]
@[simp] theorem Dev.count_bgs (d : Dev) (f : Field) (n : Nat) : (d.count f n).bgs = d.bgs := by simp [Dev.count]
@[simp] theorem Dev.count_clks (d : Dev) (f : Field) (n : Nat) : (d.count f n).clks = d.clks := by simp [Dev.count]
@[simp] theorem Dev.count_antWaits (d : Dev) (f : Field) (n : Nat) : (d.count f n).antWaits = d.antWaits := by simp [Dev.count]
@[simp] theorem Dev.count_sec (d : Dev) (f : Field) (n : Nat) : (d.count f n).sec = d.sec := by simp [Dev.count]

/-! flag. -/

@[simp] theorem Dev.flag_wpend (d : Dev) (f : Field) : (d.flag f).wpend = d.wpend := by simp [Dev.flag]
@[simp] theorem Dev.flag_liveHeld (d : Dev) (f : Field) : (d.flag f).liveHeld = d.liveHeld := by simp [Dev.flag]
@[simp] theorem Dev.flag_readHeld (d : Dev) (f : Field) : (d.flag f).readHeld = d.readHeld := by simp [Dev.flag]
@[simp] theorem Dev.flag_lowHeld (d : Dev) (f : Field) : (d.flag f).lowHeld = d.lowHeld := by simp [Dev.flag]
@[simp] theorem Dev.flag_free (d : Dev) (f : Field) : (d.flag f).free = d.free := by simp [Dev.flag]
@[simp] theorem Dev.flag_out (d : Dev) (f : Field) : (d.flag f).out = d.out := by simp [Dev.flag]
@[simp] theorem Dev.flag_posted (d : Dev) (f : Field) : (d.flag f).posted = d.posted := by simp [Dev.flag]
@[simp] theorem Dev.flag_chans (d : Dev) (f : Field) : (d.flag f).chans = d.chans := by simp [Dev.flag]
@[simp] theorem Dev.flag_enes (d : Dev) (f : Field) : (d.flag f).enes = d.enes := by simp [Dev.flag]
@[simp] theorem Dev.flag_pxes (d : Dev) (f : Field) : (d.flag f).pxes = d.pxes := by simp [Dev.flag]
@[simp] theorem Dev.flag_wdp (d : Dev) (f : Field) : (d.flag f).wdp = d.wdp := by simp [Dev.flag]
@[simp] theorem Dev.flag_unbound (d : Dev) (f : Field) : (d.flag f).unbound = d.unbound := by simp [Dev.flag]
@[simp] theorem Dev.flag_pci (d : Dev) (f : Field) : (d.flag f).pci = d.pci := by simp [Dev.flag]
@[simp] theorem Dev.flag_pxeMan (d : Dev) (f : Field) : (d.flag f).pxeMan = d.pxeMan := by simp [Dev.flag]
@[simp] theorem Dev.flag_pseMan (d : Dev) (f : Field) : (d.flag f).pseMan = d.pseMan := by simp [Dev.flag]
@[simp] theorem Dev.flag_pools (d : Dev) (f : Field) : (d.flag f).pools = d.pools := by simp [Dev.flag]
@[simp] theorem Dev.flag_bpmWaits (d : Dev) (f : Field) : (d.flag f).bpmWaits = d.bpmWaits := by simp [Dev.flag]
@[simp] theorem Dev.flag_hbcs (d : Dev) (f : Field) : (d.flag f).hbcs = d.hbcs := by simp [Dev.flag]
@[simp] theorem Dev.flag_poison (d : Dev) (f : Field) : (d.flag f).poison = d.poison := by simp [Dev.flag]
@[simp] theorem Dev.flag_net (d : Dev) (f : Field) : (d.flag f).net = d.net := by simp [Dev.flag]
@[simp] theorem Dev.flag_dma (d : Dev) (f : Field) : (d.flag f).dma = d.dma := by simp [Dev.flag]
@[simp] theorem Dev.flag_herd (d : Dev) (f : Field) : (d.flag f).herd = d.herd := by simp [Dev.flag]
@[simp] theorem Dev.flag_wdgs (d : Dev) (f : Field) : (d.flag f).wdgs = d.wdgs := by simp [Dev.flag]
@[simp] theorem Dev.flag_bgs (d : Dev) (f : Field) : (d.flag f).bgs = d.bgs := by simp [Dev.flag]
@[simp] theorem Dev.flag_clks (d : Dev) (f : Field) : (d.flag f).clks = d.clks := by simp [Dev.flag]
@[simp] theorem Dev.flag_antWaits (d : Dev) (f : Field) : (d.flag f).antWaits = d.antWaits := by simp [Dev.flag]
@[simp] theorem Dev.flag_sec (d : Dev) (f : Field) : (d.flag f).sec = d.sec := by simp [Dev.flag]

/-! send. -/

@[simp] theorem Dev.send_regs (d : Dev) (x : Output) : (d.send x).regs = d.regs := (rfl)
@[simp] theorem Dev.send_wpend (d : Dev) (x : Output) : (d.send x).wpend = d.wpend := (rfl)
@[simp] theorem Dev.send_liveHeld (d : Dev) (x : Output) : (d.send x).liveHeld = d.liveHeld := (rfl)
@[simp] theorem Dev.send_readHeld (d : Dev) (x : Output) : (d.send x).readHeld = d.readHeld := (rfl)
@[simp] theorem Dev.send_lowHeld (d : Dev) (x : Output) : (d.send x).lowHeld = d.lowHeld := (rfl)
@[simp] theorem Dev.send_free (d : Dev) (x : Output) : (d.send x).free = d.free := (rfl)
@[simp] theorem Dev.send_posted (d : Dev) (x : Output) : (d.send x).posted = d.posted := (rfl)
@[simp] theorem Dev.send_chans (d : Dev) (x : Output) : (d.send x).chans = d.chans := (rfl)
@[simp] theorem Dev.send_enes (d : Dev) (x : Output) : (d.send x).enes = d.enes := (rfl)
@[simp] theorem Dev.send_pxes (d : Dev) (x : Output) : (d.send x).pxes = d.pxes := (rfl)
@[simp] theorem Dev.send_wdp (d : Dev) (x : Output) : (d.send x).wdp = d.wdp := (rfl)
@[simp] theorem Dev.send_unbound (d : Dev) (x : Output) : (d.send x).unbound = d.unbound := (rfl)
@[simp] theorem Dev.send_pci (d : Dev) (x : Output) : (d.send x).pci = d.pci := (rfl)
@[simp] theorem Dev.send_pxeMan (d : Dev) (x : Output) : (d.send x).pxeMan = d.pxeMan := (rfl)
@[simp] theorem Dev.send_pseMan (d : Dev) (x : Output) : (d.send x).pseMan = d.pseMan := (rfl)
@[simp] theorem Dev.send_pools (d : Dev) (x : Output) : (d.send x).pools = d.pools := (rfl)
@[simp] theorem Dev.send_bpmWaits (d : Dev) (x : Output) : (d.send x).bpmWaits = d.bpmWaits := (rfl)
@[simp] theorem Dev.send_hbcs (d : Dev) (x : Output) : (d.send x).hbcs = d.hbcs := (rfl)
@[simp] theorem Dev.send_poison (d : Dev) (x : Output) : (d.send x).poison = d.poison := (rfl)
@[simp] theorem Dev.send_net (d : Dev) (x : Output) : (d.send x).net = d.net := (rfl)
@[simp] theorem Dev.send_dma (d : Dev) (x : Output) : (d.send x).dma = d.dma := (rfl)
@[simp] theorem Dev.send_herd (d : Dev) (x : Output) : (d.send x).herd = d.herd := (rfl)
@[simp] theorem Dev.send_wdgs (d : Dev) (x : Output) : (d.send x).wdgs = d.wdgs := (rfl)
@[simp] theorem Dev.send_bgs (d : Dev) (x : Output) : (d.send x).bgs = d.bgs := (rfl)
@[simp] theorem Dev.send_clks (d : Dev) (x : Output) : (d.send x).clks = d.clks := (rfl)
@[simp] theorem Dev.send_antWaits (d : Dev) (x : Output) : (d.send x).antWaits = d.antWaits := (rfl)
@[simp] theorem Dev.send_sec (d : Dev) (x : Output) : (d.send x).sec = d.sec := (rfl)

/-! store. -/

@[simp] theorem Dev.store_regs (d : Dev) (m : MemId) (a : Nat) (bs : List Byte) : (d.store m a bs).regs = d.regs := (rfl)
@[simp] theorem Dev.store_wpend (d : Dev) (m : MemId) (a : Nat) (bs : List Byte) : (d.store m a bs).wpend = d.wpend := (rfl)
@[simp] theorem Dev.store_liveHeld (d : Dev) (m : MemId) (a : Nat) (bs : List Byte) : (d.store m a bs).liveHeld = d.liveHeld := (rfl)
@[simp] theorem Dev.store_readHeld (d : Dev) (m : MemId) (a : Nat) (bs : List Byte) : (d.store m a bs).readHeld = d.readHeld := (rfl)
@[simp] theorem Dev.store_lowHeld (d : Dev) (m : MemId) (a : Nat) (bs : List Byte) : (d.store m a bs).lowHeld = d.lowHeld := (rfl)
@[simp] theorem Dev.store_free (d : Dev) (m : MemId) (a : Nat) (bs : List Byte) : (d.store m a bs).free = d.free := (rfl)
@[simp] theorem Dev.store_out (d : Dev) (m : MemId) (a : Nat) (bs : List Byte) : (d.store m a bs).out = d.out := (rfl)
@[simp] theorem Dev.store_chans (d : Dev) (m : MemId) (a : Nat) (bs : List Byte) : (d.store m a bs).chans = d.chans := (rfl)
@[simp] theorem Dev.store_enes (d : Dev) (m : MemId) (a : Nat) (bs : List Byte) : (d.store m a bs).enes = d.enes := (rfl)
@[simp] theorem Dev.store_pxes (d : Dev) (m : MemId) (a : Nat) (bs : List Byte) : (d.store m a bs).pxes = d.pxes := (rfl)
@[simp] theorem Dev.store_wdp (d : Dev) (m : MemId) (a : Nat) (bs : List Byte) : (d.store m a bs).wdp = d.wdp := (rfl)
@[simp] theorem Dev.store_unbound (d : Dev) (m : MemId) (a : Nat) (bs : List Byte) : (d.store m a bs).unbound = d.unbound := (rfl)
@[simp] theorem Dev.store_pci (d : Dev) (m : MemId) (a : Nat) (bs : List Byte) : (d.store m a bs).pci = d.pci := (rfl)
@[simp] theorem Dev.store_pxeMan (d : Dev) (m : MemId) (a : Nat) (bs : List Byte) : (d.store m a bs).pxeMan = d.pxeMan := (rfl)
@[simp] theorem Dev.store_pseMan (d : Dev) (m : MemId) (a : Nat) (bs : List Byte) : (d.store m a bs).pseMan = d.pseMan := (rfl)
@[simp] theorem Dev.store_pools (d : Dev) (m : MemId) (a : Nat) (bs : List Byte) : (d.store m a bs).pools = d.pools := (rfl)
@[simp] theorem Dev.store_bpmWaits (d : Dev) (m : MemId) (a : Nat) (bs : List Byte) : (d.store m a bs).bpmWaits = d.bpmWaits := (rfl)
@[simp] theorem Dev.store_hbcs (d : Dev) (m : MemId) (a : Nat) (bs : List Byte) : (d.store m a bs).hbcs = d.hbcs := (rfl)
@[simp] theorem Dev.store_poison (d : Dev) (m : MemId) (a : Nat) (bs : List Byte) : (d.store m a bs).poison = d.poison := (rfl)
@[simp] theorem Dev.store_net (d : Dev) (m : MemId) (a : Nat) (bs : List Byte) : (d.store m a bs).net = d.net := (rfl)
@[simp] theorem Dev.store_dma (d : Dev) (m : MemId) (a : Nat) (bs : List Byte) : (d.store m a bs).dma = d.dma := (rfl)
@[simp] theorem Dev.store_herd (d : Dev) (m : MemId) (a : Nat) (bs : List Byte) : (d.store m a bs).herd = d.herd := (rfl)
@[simp] theorem Dev.store_wdgs (d : Dev) (m : MemId) (a : Nat) (bs : List Byte) : (d.store m a bs).wdgs = d.wdgs := (rfl)
@[simp] theorem Dev.store_bgs (d : Dev) (m : MemId) (a : Nat) (bs : List Byte) : (d.store m a bs).bgs = d.bgs := (rfl)
@[simp] theorem Dev.store_clks (d : Dev) (m : MemId) (a : Nat) (bs : List Byte) : (d.store m a bs).clks = d.clks := (rfl)
@[simp] theorem Dev.store_antWaits (d : Dev) (m : MemId) (a : Nat) (bs : List Byte) : (d.store m a bs).antWaits = d.antWaits := (rfl)
@[simp] theorem Dev.store_sec (d : Dev) (m : MemId) (a : Nat) (bs : List Byte) : (d.store m a bs).sec = d.sec := (rfl)

/-! clear. -/

@[simp] theorem Dev.clear_regs (d : Dev) (m : MemId) (a n : Nat) : (d.clear m a n).regs = d.regs := (rfl)
@[simp] theorem Dev.clear_wpend (d : Dev) (m : MemId) (a n : Nat) : (d.clear m a n).wpend = d.wpend := (rfl)
@[simp] theorem Dev.clear_liveHeld (d : Dev) (m : MemId) (a n : Nat) : (d.clear m a n).liveHeld = d.liveHeld := (rfl)
@[simp] theorem Dev.clear_readHeld (d : Dev) (m : MemId) (a n : Nat) : (d.clear m a n).readHeld = d.readHeld := (rfl)
@[simp] theorem Dev.clear_lowHeld (d : Dev) (m : MemId) (a n : Nat) : (d.clear m a n).lowHeld = d.lowHeld := (rfl)
@[simp] theorem Dev.clear_free (d : Dev) (m : MemId) (a n : Nat) : (d.clear m a n).free = d.free := (rfl)
@[simp] theorem Dev.clear_out (d : Dev) (m : MemId) (a n : Nat) : (d.clear m a n).out = d.out := (rfl)
@[simp] theorem Dev.clear_chans (d : Dev) (m : MemId) (a n : Nat) : (d.clear m a n).chans = d.chans := (rfl)
@[simp] theorem Dev.clear_enes (d : Dev) (m : MemId) (a n : Nat) : (d.clear m a n).enes = d.enes := (rfl)
@[simp] theorem Dev.clear_pxes (d : Dev) (m : MemId) (a n : Nat) : (d.clear m a n).pxes = d.pxes := (rfl)
@[simp] theorem Dev.clear_wdp (d : Dev) (m : MemId) (a n : Nat) : (d.clear m a n).wdp = d.wdp := (rfl)
@[simp] theorem Dev.clear_unbound (d : Dev) (m : MemId) (a n : Nat) : (d.clear m a n).unbound = d.unbound := (rfl)
@[simp] theorem Dev.clear_pci (d : Dev) (m : MemId) (a n : Nat) : (d.clear m a n).pci = d.pci := (rfl)
@[simp] theorem Dev.clear_pxeMan (d : Dev) (m : MemId) (a n : Nat) : (d.clear m a n).pxeMan = d.pxeMan := (rfl)
@[simp] theorem Dev.clear_pseMan (d : Dev) (m : MemId) (a n : Nat) : (d.clear m a n).pseMan = d.pseMan := (rfl)
@[simp] theorem Dev.clear_pools (d : Dev) (m : MemId) (a n : Nat) : (d.clear m a n).pools = d.pools := (rfl)
@[simp] theorem Dev.clear_bpmWaits (d : Dev) (m : MemId) (a n : Nat) : (d.clear m a n).bpmWaits = d.bpmWaits := (rfl)
@[simp] theorem Dev.clear_hbcs (d : Dev) (m : MemId) (a n : Nat) : (d.clear m a n).hbcs = d.hbcs := (rfl)
@[simp] theorem Dev.clear_poison (d : Dev) (m : MemId) (a n : Nat) : (d.clear m a n).poison = d.poison := (rfl)
@[simp] theorem Dev.clear_net (d : Dev) (m : MemId) (a n : Nat) : (d.clear m a n).net = d.net := (rfl)
@[simp] theorem Dev.clear_dma (d : Dev) (m : MemId) (a n : Nat) : (d.clear m a n).dma = d.dma := (rfl)
@[simp] theorem Dev.clear_herd (d : Dev) (m : MemId) (a n : Nat) : (d.clear m a n).herd = d.herd := (rfl)
@[simp] theorem Dev.clear_wdgs (d : Dev) (m : MemId) (a n : Nat) : (d.clear m a n).wdgs = d.wdgs := (rfl)
@[simp] theorem Dev.clear_bgs (d : Dev) (m : MemId) (a n : Nat) : (d.clear m a n).bgs = d.bgs := (rfl)
@[simp] theorem Dev.clear_clks (d : Dev) (m : MemId) (a n : Nat) : (d.clear m a n).clks = d.clks := (rfl)
@[simp] theorem Dev.clear_antWaits (d : Dev) (m : MemId) (a n : Nat) : (d.clear m a n).antWaits = d.antWaits := (rfl)
@[simp] theorem Dev.clear_sec (d : Dev) (m : MemId) (a n : Nat) : (d.clear m a n).sec = d.sec := (rfl)

/-! freeVal. -/

@[simp] theorem Dev.freeVal_regs (d : Dev) (n : Nat) : ((d.freeVal n).2).regs = d.regs := (rfl)
@[simp] theorem Dev.freeVal_wpend (d : Dev) (n : Nat) : ((d.freeVal n).2).wpend = d.wpend := (rfl)
@[simp] theorem Dev.freeVal_liveHeld (d : Dev) (n : Nat) : ((d.freeVal n).2).liveHeld = d.liveHeld := (rfl)
@[simp] theorem Dev.freeVal_readHeld (d : Dev) (n : Nat) : ((d.freeVal n).2).readHeld = d.readHeld := (rfl)
@[simp] theorem Dev.freeVal_lowHeld (d : Dev) (n : Nat) : ((d.freeVal n).2).lowHeld = d.lowHeld := (rfl)
@[simp] theorem Dev.freeVal_out (d : Dev) (n : Nat) : ((d.freeVal n).2).out = d.out := (rfl)
@[simp] theorem Dev.freeVal_posted (d : Dev) (n : Nat) : ((d.freeVal n).2).posted = d.posted := (rfl)
@[simp] theorem Dev.freeVal_chans (d : Dev) (n : Nat) : ((d.freeVal n).2).chans = d.chans := (rfl)
@[simp] theorem Dev.freeVal_enes (d : Dev) (n : Nat) : ((d.freeVal n).2).enes = d.enes := (rfl)
@[simp] theorem Dev.freeVal_pxes (d : Dev) (n : Nat) : ((d.freeVal n).2).pxes = d.pxes := (rfl)
@[simp] theorem Dev.freeVal_wdp (d : Dev) (n : Nat) : ((d.freeVal n).2).wdp = d.wdp := (rfl)
@[simp] theorem Dev.freeVal_unbound (d : Dev) (n : Nat) : ((d.freeVal n).2).unbound = d.unbound := (rfl)
@[simp] theorem Dev.freeVal_pci (d : Dev) (n : Nat) : ((d.freeVal n).2).pci = d.pci := (rfl)
@[simp] theorem Dev.freeVal_pxeMan (d : Dev) (n : Nat) : ((d.freeVal n).2).pxeMan = d.pxeMan := (rfl)
@[simp] theorem Dev.freeVal_pseMan (d : Dev) (n : Nat) : ((d.freeVal n).2).pseMan = d.pseMan := (rfl)
@[simp] theorem Dev.freeVal_pools (d : Dev) (n : Nat) : ((d.freeVal n).2).pools = d.pools := (rfl)
@[simp] theorem Dev.freeVal_bpmWaits (d : Dev) (n : Nat) : ((d.freeVal n).2).bpmWaits = d.bpmWaits := (rfl)
@[simp] theorem Dev.freeVal_hbcs (d : Dev) (n : Nat) : ((d.freeVal n).2).hbcs = d.hbcs := (rfl)
@[simp] theorem Dev.freeVal_poison (d : Dev) (n : Nat) : ((d.freeVal n).2).poison = d.poison := (rfl)
@[simp] theorem Dev.freeVal_net (d : Dev) (n : Nat) : ((d.freeVal n).2).net = d.net := (rfl)
@[simp] theorem Dev.freeVal_dma (d : Dev) (n : Nat) : ((d.freeVal n).2).dma = d.dma := (rfl)
@[simp] theorem Dev.freeVal_herd (d : Dev) (n : Nat) : ((d.freeVal n).2).herd = d.herd := (rfl)
@[simp] theorem Dev.freeVal_wdgs (d : Dev) (n : Nat) : ((d.freeVal n).2).wdgs = d.wdgs := (rfl)
@[simp] theorem Dev.freeVal_bgs (d : Dev) (n : Nat) : ((d.freeVal n).2).bgs = d.bgs := (rfl)
@[simp] theorem Dev.freeVal_clks (d : Dev) (n : Nat) : ((d.freeVal n).2).clks = d.clks := (rfl)
@[simp] theorem Dev.freeVal_antWaits (d : Dev) (n : Nat) : ((d.freeVal n).2).antWaits = d.antWaits := (rfl)
@[simp] theorem Dev.freeVal_sec (d : Dev) (n : Nat) : ((d.freeVal n).2).sec = d.sec := (rfl)

/-! upCh. -/

@[simp] theorem Dev.upCh_regs (d : Dev) (c : Nat) (f : Chan → Chan) : (d.upCh c f).regs = d.regs := (rfl)
@[simp] theorem Dev.upCh_wpend (d : Dev) (c : Nat) (f : Chan → Chan) : (d.upCh c f).wpend = d.wpend := (rfl)
@[simp] theorem Dev.upCh_liveHeld (d : Dev) (c : Nat) (f : Chan → Chan) : (d.upCh c f).liveHeld = d.liveHeld := (rfl)
@[simp] theorem Dev.upCh_readHeld (d : Dev) (c : Nat) (f : Chan → Chan) : (d.upCh c f).readHeld = d.readHeld := (rfl)
@[simp] theorem Dev.upCh_lowHeld (d : Dev) (c : Nat) (f : Chan → Chan) : (d.upCh c f).lowHeld = d.lowHeld := (rfl)
@[simp] theorem Dev.upCh_free (d : Dev) (c : Nat) (f : Chan → Chan) : (d.upCh c f).free = d.free := (rfl)
@[simp] theorem Dev.upCh_out (d : Dev) (c : Nat) (f : Chan → Chan) : (d.upCh c f).out = d.out := (rfl)
@[simp] theorem Dev.upCh_posted (d : Dev) (c : Nat) (f : Chan → Chan) : (d.upCh c f).posted = d.posted := (rfl)
@[simp] theorem Dev.upCh_enes (d : Dev) (c : Nat) (f : Chan → Chan) : (d.upCh c f).enes = d.enes := (rfl)
@[simp] theorem Dev.upCh_pxes (d : Dev) (c : Nat) (f : Chan → Chan) : (d.upCh c f).pxes = d.pxes := (rfl)
@[simp] theorem Dev.upCh_wdp (d : Dev) (c : Nat) (f : Chan → Chan) : (d.upCh c f).wdp = d.wdp := (rfl)
@[simp] theorem Dev.upCh_unbound (d : Dev) (c : Nat) (f : Chan → Chan) : (d.upCh c f).unbound = d.unbound := (rfl)
@[simp] theorem Dev.upCh_pci (d : Dev) (c : Nat) (f : Chan → Chan) : (d.upCh c f).pci = d.pci := (rfl)
@[simp] theorem Dev.upCh_pxeMan (d : Dev) (c : Nat) (f : Chan → Chan) : (d.upCh c f).pxeMan = d.pxeMan := (rfl)
@[simp] theorem Dev.upCh_pseMan (d : Dev) (c : Nat) (f : Chan → Chan) : (d.upCh c f).pseMan = d.pseMan := (rfl)
@[simp] theorem Dev.upCh_pools (d : Dev) (c : Nat) (f : Chan → Chan) : (d.upCh c f).pools = d.pools := (rfl)
@[simp] theorem Dev.upCh_bpmWaits (d : Dev) (c : Nat) (f : Chan → Chan) : (d.upCh c f).bpmWaits = d.bpmWaits := (rfl)
@[simp] theorem Dev.upCh_hbcs (d : Dev) (c : Nat) (f : Chan → Chan) : (d.upCh c f).hbcs = d.hbcs := (rfl)
@[simp] theorem Dev.upCh_poison (d : Dev) (c : Nat) (f : Chan → Chan) : (d.upCh c f).poison = d.poison := (rfl)
@[simp] theorem Dev.upCh_net (d : Dev) (c : Nat) (f : Chan → Chan) : (d.upCh c f).net = d.net := (rfl)
@[simp] theorem Dev.upCh_dma (d : Dev) (c : Nat) (f : Chan → Chan) : (d.upCh c f).dma = d.dma := (rfl)
@[simp] theorem Dev.upCh_herd (d : Dev) (c : Nat) (f : Chan → Chan) : (d.upCh c f).herd = d.herd := (rfl)
@[simp] theorem Dev.upCh_wdgs (d : Dev) (c : Nat) (f : Chan → Chan) : (d.upCh c f).wdgs = d.wdgs := (rfl)
@[simp] theorem Dev.upCh_bgs (d : Dev) (c : Nat) (f : Chan → Chan) : (d.upCh c f).bgs = d.bgs := (rfl)
@[simp] theorem Dev.upCh_clks (d : Dev) (c : Nat) (f : Chan → Chan) : (d.upCh c f).clks = d.clks := (rfl)
@[simp] theorem Dev.upCh_antWaits (d : Dev) (c : Nat) (f : Chan → Chan) : (d.upCh c f).antWaits = d.antWaits := (rfl)
@[simp] theorem Dev.upCh_sec (d : Dev) (c : Nat) (f : Chan → Chan) : (d.upCh c f).sec = d.sec := (rfl)

/-! upPx. -/

@[simp] theorem Dev.upPx_regs (d : Dev) (e : Nat) (f : Pxe → Pxe) : (d.upPx e f).regs = d.regs := (rfl)
@[simp] theorem Dev.upPx_wpend (d : Dev) (e : Nat) (f : Pxe → Pxe) : (d.upPx e f).wpend = d.wpend := (rfl)
@[simp] theorem Dev.upPx_liveHeld (d : Dev) (e : Nat) (f : Pxe → Pxe) : (d.upPx e f).liveHeld = d.liveHeld := (rfl)
@[simp] theorem Dev.upPx_readHeld (d : Dev) (e : Nat) (f : Pxe → Pxe) : (d.upPx e f).readHeld = d.readHeld := (rfl)
@[simp] theorem Dev.upPx_lowHeld (d : Dev) (e : Nat) (f : Pxe → Pxe) : (d.upPx e f).lowHeld = d.lowHeld := (rfl)
@[simp] theorem Dev.upPx_free (d : Dev) (e : Nat) (f : Pxe → Pxe) : (d.upPx e f).free = d.free := (rfl)
@[simp] theorem Dev.upPx_out (d : Dev) (e : Nat) (f : Pxe → Pxe) : (d.upPx e f).out = d.out := (rfl)
@[simp] theorem Dev.upPx_posted (d : Dev) (e : Nat) (f : Pxe → Pxe) : (d.upPx e f).posted = d.posted := (rfl)
@[simp] theorem Dev.upPx_chans (d : Dev) (e : Nat) (f : Pxe → Pxe) : (d.upPx e f).chans = d.chans := (rfl)
@[simp] theorem Dev.upPx_enes (d : Dev) (e : Nat) (f : Pxe → Pxe) : (d.upPx e f).enes = d.enes := (rfl)
@[simp] theorem Dev.upPx_wdp (d : Dev) (e : Nat) (f : Pxe → Pxe) : (d.upPx e f).wdp = d.wdp := (rfl)
@[simp] theorem Dev.upPx_unbound (d : Dev) (e : Nat) (f : Pxe → Pxe) : (d.upPx e f).unbound = d.unbound := (rfl)
@[simp] theorem Dev.upPx_pci (d : Dev) (e : Nat) (f : Pxe → Pxe) : (d.upPx e f).pci = d.pci := (rfl)
@[simp] theorem Dev.upPx_pxeMan (d : Dev) (e : Nat) (f : Pxe → Pxe) : (d.upPx e f).pxeMan = d.pxeMan := (rfl)
@[simp] theorem Dev.upPx_pseMan (d : Dev) (e : Nat) (f : Pxe → Pxe) : (d.upPx e f).pseMan = d.pseMan := (rfl)
@[simp] theorem Dev.upPx_pools (d : Dev) (e : Nat) (f : Pxe → Pxe) : (d.upPx e f).pools = d.pools := (rfl)
@[simp] theorem Dev.upPx_bpmWaits (d : Dev) (e : Nat) (f : Pxe → Pxe) : (d.upPx e f).bpmWaits = d.bpmWaits := (rfl)
@[simp] theorem Dev.upPx_hbcs (d : Dev) (e : Nat) (f : Pxe → Pxe) : (d.upPx e f).hbcs = d.hbcs := (rfl)
@[simp] theorem Dev.upPx_poison (d : Dev) (e : Nat) (f : Pxe → Pxe) : (d.upPx e f).poison = d.poison := (rfl)
@[simp] theorem Dev.upPx_net (d : Dev) (e : Nat) (f : Pxe → Pxe) : (d.upPx e f).net = d.net := (rfl)
@[simp] theorem Dev.upPx_dma (d : Dev) (e : Nat) (f : Pxe → Pxe) : (d.upPx e f).dma = d.dma := (rfl)
@[simp] theorem Dev.upPx_herd (d : Dev) (e : Nat) (f : Pxe → Pxe) : (d.upPx e f).herd = d.herd := (rfl)
@[simp] theorem Dev.upPx_wdgs (d : Dev) (e : Nat) (f : Pxe → Pxe) : (d.upPx e f).wdgs = d.wdgs := (rfl)
@[simp] theorem Dev.upPx_bgs (d : Dev) (e : Nat) (f : Pxe → Pxe) : (d.upPx e f).bgs = d.bgs := (rfl)
@[simp] theorem Dev.upPx_clks (d : Dev) (e : Nat) (f : Pxe → Pxe) : (d.upPx e f).clks = d.clks := (rfl)
@[simp] theorem Dev.upPx_antWaits (d : Dev) (e : Nat) (f : Pxe → Pxe) : (d.upPx e f).antWaits = d.antWaits := (rfl)
@[simp] theorem Dev.upPx_sec (d : Dev) (e : Nat) (f : Pxe → Pxe) : (d.upPx e f).sec = d.sec := (rfl)

/-! upEn. -/

@[simp] theorem Dev.upEn_regs (d : Dev) (e : Nat) (f : Ene → Ene) : (d.upEn e f).regs = d.regs := (rfl)
@[simp] theorem Dev.upEn_wpend (d : Dev) (e : Nat) (f : Ene → Ene) : (d.upEn e f).wpend = d.wpend := (rfl)
@[simp] theorem Dev.upEn_liveHeld (d : Dev) (e : Nat) (f : Ene → Ene) : (d.upEn e f).liveHeld = d.liveHeld := (rfl)
@[simp] theorem Dev.upEn_readHeld (d : Dev) (e : Nat) (f : Ene → Ene) : (d.upEn e f).readHeld = d.readHeld := (rfl)
@[simp] theorem Dev.upEn_lowHeld (d : Dev) (e : Nat) (f : Ene → Ene) : (d.upEn e f).lowHeld = d.lowHeld := (rfl)
@[simp] theorem Dev.upEn_free (d : Dev) (e : Nat) (f : Ene → Ene) : (d.upEn e f).free = d.free := (rfl)
@[simp] theorem Dev.upEn_out (d : Dev) (e : Nat) (f : Ene → Ene) : (d.upEn e f).out = d.out := (rfl)
@[simp] theorem Dev.upEn_posted (d : Dev) (e : Nat) (f : Ene → Ene) : (d.upEn e f).posted = d.posted := (rfl)
@[simp] theorem Dev.upEn_chans (d : Dev) (e : Nat) (f : Ene → Ene) : (d.upEn e f).chans = d.chans := (rfl)
@[simp] theorem Dev.upEn_pxes (d : Dev) (e : Nat) (f : Ene → Ene) : (d.upEn e f).pxes = d.pxes := (rfl)
@[simp] theorem Dev.upEn_wdp (d : Dev) (e : Nat) (f : Ene → Ene) : (d.upEn e f).wdp = d.wdp := (rfl)
@[simp] theorem Dev.upEn_unbound (d : Dev) (e : Nat) (f : Ene → Ene) : (d.upEn e f).unbound = d.unbound := (rfl)
@[simp] theorem Dev.upEn_pci (d : Dev) (e : Nat) (f : Ene → Ene) : (d.upEn e f).pci = d.pci := (rfl)
@[simp] theorem Dev.upEn_pxeMan (d : Dev) (e : Nat) (f : Ene → Ene) : (d.upEn e f).pxeMan = d.pxeMan := (rfl)
@[simp] theorem Dev.upEn_pseMan (d : Dev) (e : Nat) (f : Ene → Ene) : (d.upEn e f).pseMan = d.pseMan := (rfl)
@[simp] theorem Dev.upEn_pools (d : Dev) (e : Nat) (f : Ene → Ene) : (d.upEn e f).pools = d.pools := (rfl)
@[simp] theorem Dev.upEn_bpmWaits (d : Dev) (e : Nat) (f : Ene → Ene) : (d.upEn e f).bpmWaits = d.bpmWaits := (rfl)
@[simp] theorem Dev.upEn_hbcs (d : Dev) (e : Nat) (f : Ene → Ene) : (d.upEn e f).hbcs = d.hbcs := (rfl)
@[simp] theorem Dev.upEn_poison (d : Dev) (e : Nat) (f : Ene → Ene) : (d.upEn e f).poison = d.poison := (rfl)
@[simp] theorem Dev.upEn_net (d : Dev) (e : Nat) (f : Ene → Ene) : (d.upEn e f).net = d.net := (rfl)
@[simp] theorem Dev.upEn_dma (d : Dev) (e : Nat) (f : Ene → Ene) : (d.upEn e f).dma = d.dma := (rfl)
@[simp] theorem Dev.upEn_herd (d : Dev) (e : Nat) (f : Ene → Ene) : (d.upEn e f).herd = d.herd := (rfl)
@[simp] theorem Dev.upEn_wdgs (d : Dev) (e : Nat) (f : Ene → Ene) : (d.upEn e f).wdgs = d.wdgs := (rfl)
@[simp] theorem Dev.upEn_bgs (d : Dev) (e : Nat) (f : Ene → Ene) : (d.upEn e f).bgs = d.bgs := (rfl)
@[simp] theorem Dev.upEn_clks (d : Dev) (e : Nat) (f : Ene → Ene) : (d.upEn e f).clks = d.clks := (rfl)
@[simp] theorem Dev.upEn_antWaits (d : Dev) (e : Nat) (f : Ene → Ene) : (d.upEn e f).antWaits = d.antWaits := (rfl)
@[simp] theorem Dev.upEn_sec (d : Dev) (e : Nat) (f : Ene → Ene) : (d.upEn e f).sec = d.sec := (rfl)

/-! upHb. -/

@[simp] theorem Dev.upHb_regs (d : Dev) (n : Nat) (f : Hbc → Hbc) : (d.upHb n f).regs = d.regs := (rfl)
@[simp] theorem Dev.upHb_wpend (d : Dev) (n : Nat) (f : Hbc → Hbc) : (d.upHb n f).wpend = d.wpend := (rfl)
@[simp] theorem Dev.upHb_liveHeld (d : Dev) (n : Nat) (f : Hbc → Hbc) : (d.upHb n f).liveHeld = d.liveHeld := (rfl)
@[simp] theorem Dev.upHb_readHeld (d : Dev) (n : Nat) (f : Hbc → Hbc) : (d.upHb n f).readHeld = d.readHeld := (rfl)
@[simp] theorem Dev.upHb_lowHeld (d : Dev) (n : Nat) (f : Hbc → Hbc) : (d.upHb n f).lowHeld = d.lowHeld := (rfl)
@[simp] theorem Dev.upHb_free (d : Dev) (n : Nat) (f : Hbc → Hbc) : (d.upHb n f).free = d.free := (rfl)
@[simp] theorem Dev.upHb_out (d : Dev) (n : Nat) (f : Hbc → Hbc) : (d.upHb n f).out = d.out := (rfl)
@[simp] theorem Dev.upHb_posted (d : Dev) (n : Nat) (f : Hbc → Hbc) : (d.upHb n f).posted = d.posted := (rfl)
@[simp] theorem Dev.upHb_chans (d : Dev) (n : Nat) (f : Hbc → Hbc) : (d.upHb n f).chans = d.chans := (rfl)
@[simp] theorem Dev.upHb_enes (d : Dev) (n : Nat) (f : Hbc → Hbc) : (d.upHb n f).enes = d.enes := (rfl)
@[simp] theorem Dev.upHb_pxes (d : Dev) (n : Nat) (f : Hbc → Hbc) : (d.upHb n f).pxes = d.pxes := (rfl)
@[simp] theorem Dev.upHb_wdp (d : Dev) (n : Nat) (f : Hbc → Hbc) : (d.upHb n f).wdp = d.wdp := (rfl)
@[simp] theorem Dev.upHb_unbound (d : Dev) (n : Nat) (f : Hbc → Hbc) : (d.upHb n f).unbound = d.unbound := (rfl)
@[simp] theorem Dev.upHb_pci (d : Dev) (n : Nat) (f : Hbc → Hbc) : (d.upHb n f).pci = d.pci := (rfl)
@[simp] theorem Dev.upHb_pxeMan (d : Dev) (n : Nat) (f : Hbc → Hbc) : (d.upHb n f).pxeMan = d.pxeMan := (rfl)
@[simp] theorem Dev.upHb_pseMan (d : Dev) (n : Nat) (f : Hbc → Hbc) : (d.upHb n f).pseMan = d.pseMan := (rfl)
@[simp] theorem Dev.upHb_pools (d : Dev) (n : Nat) (f : Hbc → Hbc) : (d.upHb n f).pools = d.pools := (rfl)
@[simp] theorem Dev.upHb_bpmWaits (d : Dev) (n : Nat) (f : Hbc → Hbc) : (d.upHb n f).bpmWaits = d.bpmWaits := (rfl)
@[simp] theorem Dev.upHb_poison (d : Dev) (n : Nat) (f : Hbc → Hbc) : (d.upHb n f).poison = d.poison := (rfl)
@[simp] theorem Dev.upHb_net (d : Dev) (n : Nat) (f : Hbc → Hbc) : (d.upHb n f).net = d.net := (rfl)
@[simp] theorem Dev.upHb_dma (d : Dev) (n : Nat) (f : Hbc → Hbc) : (d.upHb n f).dma = d.dma := (rfl)
@[simp] theorem Dev.upHb_herd (d : Dev) (n : Nat) (f : Hbc → Hbc) : (d.upHb n f).herd = d.herd := (rfl)
@[simp] theorem Dev.upHb_wdgs (d : Dev) (n : Nat) (f : Hbc → Hbc) : (d.upHb n f).wdgs = d.wdgs := (rfl)
@[simp] theorem Dev.upHb_bgs (d : Dev) (n : Nat) (f : Hbc → Hbc) : (d.upHb n f).bgs = d.bgs := (rfl)
@[simp] theorem Dev.upHb_clks (d : Dev) (n : Nat) (f : Hbc → Hbc) : (d.upHb n f).clks = d.clks := (rfl)
@[simp] theorem Dev.upHb_antWaits (d : Dev) (n : Nat) (f : Hbc → Hbc) : (d.upHb n f).antWaits = d.antWaits := (rfl)
@[simp] theorem Dev.upHb_sec (d : Dev) (n : Nat) (f : Hbc → Hbc) : (d.upHb n f).sec = d.sec := (rfl)

/-! upNet. -/

@[simp] theorem Dev.upNet_regs (d : Dev) (f : Net → Net) : (d.upNet f).regs = d.regs := (rfl)
@[simp] theorem Dev.upNet_wpend (d : Dev) (f : Net → Net) : (d.upNet f).wpend = d.wpend := (rfl)
@[simp] theorem Dev.upNet_liveHeld (d : Dev) (f : Net → Net) : (d.upNet f).liveHeld = d.liveHeld := (rfl)
@[simp] theorem Dev.upNet_readHeld (d : Dev) (f : Net → Net) : (d.upNet f).readHeld = d.readHeld := (rfl)
@[simp] theorem Dev.upNet_lowHeld (d : Dev) (f : Net → Net) : (d.upNet f).lowHeld = d.lowHeld := (rfl)
@[simp] theorem Dev.upNet_free (d : Dev) (f : Net → Net) : (d.upNet f).free = d.free := (rfl)
@[simp] theorem Dev.upNet_out (d : Dev) (f : Net → Net) : (d.upNet f).out = d.out := (rfl)
@[simp] theorem Dev.upNet_posted (d : Dev) (f : Net → Net) : (d.upNet f).posted = d.posted := (rfl)
@[simp] theorem Dev.upNet_chans (d : Dev) (f : Net → Net) : (d.upNet f).chans = d.chans := (rfl)
@[simp] theorem Dev.upNet_enes (d : Dev) (f : Net → Net) : (d.upNet f).enes = d.enes := (rfl)
@[simp] theorem Dev.upNet_pxes (d : Dev) (f : Net → Net) : (d.upNet f).pxes = d.pxes := (rfl)
@[simp] theorem Dev.upNet_wdp (d : Dev) (f : Net → Net) : (d.upNet f).wdp = d.wdp := (rfl)
@[simp] theorem Dev.upNet_unbound (d : Dev) (f : Net → Net) : (d.upNet f).unbound = d.unbound := (rfl)
@[simp] theorem Dev.upNet_pci (d : Dev) (f : Net → Net) : (d.upNet f).pci = d.pci := (rfl)
@[simp] theorem Dev.upNet_pxeMan (d : Dev) (f : Net → Net) : (d.upNet f).pxeMan = d.pxeMan := (rfl)
@[simp] theorem Dev.upNet_pseMan (d : Dev) (f : Net → Net) : (d.upNet f).pseMan = d.pseMan := (rfl)
@[simp] theorem Dev.upNet_pools (d : Dev) (f : Net → Net) : (d.upNet f).pools = d.pools := (rfl)
@[simp] theorem Dev.upNet_bpmWaits (d : Dev) (f : Net → Net) : (d.upNet f).bpmWaits = d.bpmWaits := (rfl)
@[simp] theorem Dev.upNet_hbcs (d : Dev) (f : Net → Net) : (d.upNet f).hbcs = d.hbcs := (rfl)
@[simp] theorem Dev.upNet_poison (d : Dev) (f : Net → Net) : (d.upNet f).poison = d.poison := (rfl)
@[simp] theorem Dev.upNet_dma (d : Dev) (f : Net → Net) : (d.upNet f).dma = d.dma := (rfl)
@[simp] theorem Dev.upNet_herd (d : Dev) (f : Net → Net) : (d.upNet f).herd = d.herd := (rfl)
@[simp] theorem Dev.upNet_wdgs (d : Dev) (f : Net → Net) : (d.upNet f).wdgs = d.wdgs := (rfl)
@[simp] theorem Dev.upNet_bgs (d : Dev) (f : Net → Net) : (d.upNet f).bgs = d.bgs := (rfl)
@[simp] theorem Dev.upNet_clks (d : Dev) (f : Net → Net) : (d.upNet f).clks = d.clks := (rfl)
@[simp] theorem Dev.upNet_antWaits (d : Dev) (f : Net → Net) : (d.upNet f).antWaits = d.antWaits := (rfl)
@[simp] theorem Dev.upNet_sec (d : Dev) (f : Net → Net) : (d.upNet f).sec = d.sec := (rfl)

/-! upHerd. -/

@[simp] theorem Dev.upHerd_regs (d : Dev) (f : Herd → Herd) : (d.upHerd f).regs = d.regs := (rfl)
@[simp] theorem Dev.upHerd_wpend (d : Dev) (f : Herd → Herd) : (d.upHerd f).wpend = d.wpend := (rfl)
@[simp] theorem Dev.upHerd_liveHeld (d : Dev) (f : Herd → Herd) : (d.upHerd f).liveHeld = d.liveHeld := (rfl)
@[simp] theorem Dev.upHerd_readHeld (d : Dev) (f : Herd → Herd) : (d.upHerd f).readHeld = d.readHeld := (rfl)
@[simp] theorem Dev.upHerd_lowHeld (d : Dev) (f : Herd → Herd) : (d.upHerd f).lowHeld = d.lowHeld := (rfl)
@[simp] theorem Dev.upHerd_free (d : Dev) (f : Herd → Herd) : (d.upHerd f).free = d.free := (rfl)
@[simp] theorem Dev.upHerd_out (d : Dev) (f : Herd → Herd) : (d.upHerd f).out = d.out := (rfl)
@[simp] theorem Dev.upHerd_posted (d : Dev) (f : Herd → Herd) : (d.upHerd f).posted = d.posted := (rfl)
@[simp] theorem Dev.upHerd_chans (d : Dev) (f : Herd → Herd) : (d.upHerd f).chans = d.chans := (rfl)
@[simp] theorem Dev.upHerd_enes (d : Dev) (f : Herd → Herd) : (d.upHerd f).enes = d.enes := (rfl)
@[simp] theorem Dev.upHerd_pxes (d : Dev) (f : Herd → Herd) : (d.upHerd f).pxes = d.pxes := (rfl)
@[simp] theorem Dev.upHerd_wdp (d : Dev) (f : Herd → Herd) : (d.upHerd f).wdp = d.wdp := (rfl)
@[simp] theorem Dev.upHerd_unbound (d : Dev) (f : Herd → Herd) : (d.upHerd f).unbound = d.unbound := (rfl)
@[simp] theorem Dev.upHerd_pci (d : Dev) (f : Herd → Herd) : (d.upHerd f).pci = d.pci := (rfl)
@[simp] theorem Dev.upHerd_pxeMan (d : Dev) (f : Herd → Herd) : (d.upHerd f).pxeMan = d.pxeMan := (rfl)
@[simp] theorem Dev.upHerd_pseMan (d : Dev) (f : Herd → Herd) : (d.upHerd f).pseMan = d.pseMan := (rfl)
@[simp] theorem Dev.upHerd_pools (d : Dev) (f : Herd → Herd) : (d.upHerd f).pools = d.pools := (rfl)
@[simp] theorem Dev.upHerd_bpmWaits (d : Dev) (f : Herd → Herd) : (d.upHerd f).bpmWaits = d.bpmWaits := (rfl)
@[simp] theorem Dev.upHerd_hbcs (d : Dev) (f : Herd → Herd) : (d.upHerd f).hbcs = d.hbcs := (rfl)
@[simp] theorem Dev.upHerd_poison (d : Dev) (f : Herd → Herd) : (d.upHerd f).poison = d.poison := (rfl)
@[simp] theorem Dev.upHerd_net (d : Dev) (f : Herd → Herd) : (d.upHerd f).net = d.net := (rfl)
@[simp] theorem Dev.upHerd_dma (d : Dev) (f : Herd → Herd) : (d.upHerd f).dma = d.dma := (rfl)
@[simp] theorem Dev.upHerd_wdgs (d : Dev) (f : Herd → Herd) : (d.upHerd f).wdgs = d.wdgs := (rfl)
@[simp] theorem Dev.upHerd_bgs (d : Dev) (f : Herd → Herd) : (d.upHerd f).bgs = d.bgs := (rfl)
@[simp] theorem Dev.upHerd_clks (d : Dev) (f : Herd → Herd) : (d.upHerd f).clks = d.clks := (rfl)
@[simp] theorem Dev.upHerd_antWaits (d : Dev) (f : Herd → Herd) : (d.upHerd f).antWaits = d.antWaits := (rfl)
@[simp] theorem Dev.upHerd_sec (d : Dev) (f : Herd → Herd) : (d.upHerd f).sec = d.sec := (rfl)

/-! upSec. -/

@[simp] theorem Dev.upSec_regs (d : Dev) (f : Sec → Sec) : (d.upSec f).regs = d.regs := (rfl)
@[simp] theorem Dev.upSec_wpend (d : Dev) (f : Sec → Sec) : (d.upSec f).wpend = d.wpend := (rfl)
@[simp] theorem Dev.upSec_liveHeld (d : Dev) (f : Sec → Sec) : (d.upSec f).liveHeld = d.liveHeld := (rfl)
@[simp] theorem Dev.upSec_readHeld (d : Dev) (f : Sec → Sec) : (d.upSec f).readHeld = d.readHeld := (rfl)
@[simp] theorem Dev.upSec_lowHeld (d : Dev) (f : Sec → Sec) : (d.upSec f).lowHeld = d.lowHeld := (rfl)
@[simp] theorem Dev.upSec_free (d : Dev) (f : Sec → Sec) : (d.upSec f).free = d.free := (rfl)
@[simp] theorem Dev.upSec_out (d : Dev) (f : Sec → Sec) : (d.upSec f).out = d.out := (rfl)
@[simp] theorem Dev.upSec_posted (d : Dev) (f : Sec → Sec) : (d.upSec f).posted = d.posted := (rfl)
@[simp] theorem Dev.upSec_chans (d : Dev) (f : Sec → Sec) : (d.upSec f).chans = d.chans := (rfl)
@[simp] theorem Dev.upSec_enes (d : Dev) (f : Sec → Sec) : (d.upSec f).enes = d.enes := (rfl)
@[simp] theorem Dev.upSec_pxes (d : Dev) (f : Sec → Sec) : (d.upSec f).pxes = d.pxes := (rfl)
@[simp] theorem Dev.upSec_wdp (d : Dev) (f : Sec → Sec) : (d.upSec f).wdp = d.wdp := (rfl)
@[simp] theorem Dev.upSec_unbound (d : Dev) (f : Sec → Sec) : (d.upSec f).unbound = d.unbound := (rfl)
@[simp] theorem Dev.upSec_pci (d : Dev) (f : Sec → Sec) : (d.upSec f).pci = d.pci := (rfl)
@[simp] theorem Dev.upSec_pxeMan (d : Dev) (f : Sec → Sec) : (d.upSec f).pxeMan = d.pxeMan := (rfl)
@[simp] theorem Dev.upSec_pseMan (d : Dev) (f : Sec → Sec) : (d.upSec f).pseMan = d.pseMan := (rfl)
@[simp] theorem Dev.upSec_pools (d : Dev) (f : Sec → Sec) : (d.upSec f).pools = d.pools := (rfl)
@[simp] theorem Dev.upSec_bpmWaits (d : Dev) (f : Sec → Sec) : (d.upSec f).bpmWaits = d.bpmWaits := (rfl)
@[simp] theorem Dev.upSec_hbcs (d : Dev) (f : Sec → Sec) : (d.upSec f).hbcs = d.hbcs := (rfl)
@[simp] theorem Dev.upSec_poison (d : Dev) (f : Sec → Sec) : (d.upSec f).poison = d.poison := (rfl)
@[simp] theorem Dev.upSec_net (d : Dev) (f : Sec → Sec) : (d.upSec f).net = d.net := (rfl)
@[simp] theorem Dev.upSec_dma (d : Dev) (f : Sec → Sec) : (d.upSec f).dma = d.dma := (rfl)
@[simp] theorem Dev.upSec_herd (d : Dev) (f : Sec → Sec) : (d.upSec f).herd = d.herd := (rfl)
@[simp] theorem Dev.upSec_wdgs (d : Dev) (f : Sec → Sec) : (d.upSec f).wdgs = d.wdgs := (rfl)
@[simp] theorem Dev.upSec_bgs (d : Dev) (f : Sec → Sec) : (d.upSec f).bgs = d.bgs := (rfl)
@[simp] theorem Dev.upSec_clks (d : Dev) (f : Sec → Sec) : (d.upSec f).clks = d.clks := (rfl)
@[simp] theorem Dev.upSec_antWaits (d : Dev) (f : Sec → Sec) : (d.upSec f).antWaits = d.antWaits := (rfl)

/-! upRing. -/

@[simp] theorem Dev.upRing_regs (d : Dev) (c : Nat) (r : RingId) (f : Ring → Ring) : (d.upRing c r f).regs = d.regs := (rfl)
@[simp] theorem Dev.upRing_wpend (d : Dev) (c : Nat) (r : RingId) (f : Ring → Ring) : (d.upRing c r f).wpend = d.wpend := (rfl)
@[simp] theorem Dev.upRing_liveHeld (d : Dev) (c : Nat) (r : RingId) (f : Ring → Ring) : (d.upRing c r f).liveHeld = d.liveHeld := (rfl)
@[simp] theorem Dev.upRing_readHeld (d : Dev) (c : Nat) (r : RingId) (f : Ring → Ring) : (d.upRing c r f).readHeld = d.readHeld := (rfl)
@[simp] theorem Dev.upRing_lowHeld (d : Dev) (c : Nat) (r : RingId) (f : Ring → Ring) : (d.upRing c r f).lowHeld = d.lowHeld := (rfl)
@[simp] theorem Dev.upRing_free (d : Dev) (c : Nat) (r : RingId) (f : Ring → Ring) : (d.upRing c r f).free = d.free := (rfl)
@[simp] theorem Dev.upRing_out (d : Dev) (c : Nat) (r : RingId) (f : Ring → Ring) : (d.upRing c r f).out = d.out := (rfl)
@[simp] theorem Dev.upRing_posted (d : Dev) (c : Nat) (r : RingId) (f : Ring → Ring) : (d.upRing c r f).posted = d.posted := (rfl)
@[simp] theorem Dev.upRing_chans (d : Dev) (c : Nat) (r : RingId) (f : Ring → Ring) : (d.upRing c r f).chans = d.chans := (rfl)
@[simp] theorem Dev.upRing_enes (d : Dev) (c : Nat) (r : RingId) (f : Ring → Ring) : (d.upRing c r f).enes = d.enes := (rfl)
@[simp] theorem Dev.upRing_pxes (d : Dev) (c : Nat) (r : RingId) (f : Ring → Ring) : (d.upRing c r f).pxes = d.pxes := (rfl)
@[simp] theorem Dev.upRing_wdp (d : Dev) (c : Nat) (r : RingId) (f : Ring → Ring) : (d.upRing c r f).wdp = d.wdp := (rfl)
@[simp] theorem Dev.upRing_unbound (d : Dev) (c : Nat) (r : RingId) (f : Ring → Ring) : (d.upRing c r f).unbound = d.unbound := (rfl)
@[simp] theorem Dev.upRing_pci (d : Dev) (c : Nat) (r : RingId) (f : Ring → Ring) : (d.upRing c r f).pci = d.pci := (rfl)
@[simp] theorem Dev.upRing_pxeMan (d : Dev) (c : Nat) (r : RingId) (f : Ring → Ring) : (d.upRing c r f).pxeMan = d.pxeMan := (rfl)
@[simp] theorem Dev.upRing_pseMan (d : Dev) (c : Nat) (r : RingId) (f : Ring → Ring) : (d.upRing c r f).pseMan = d.pseMan := (rfl)
@[simp] theorem Dev.upRing_pools (d : Dev) (c : Nat) (r : RingId) (f : Ring → Ring) : (d.upRing c r f).pools = d.pools := (rfl)
@[simp] theorem Dev.upRing_bpmWaits (d : Dev) (c : Nat) (r : RingId) (f : Ring → Ring) : (d.upRing c r f).bpmWaits = d.bpmWaits := (rfl)
@[simp] theorem Dev.upRing_hbcs (d : Dev) (c : Nat) (r : RingId) (f : Ring → Ring) : (d.upRing c r f).hbcs = d.hbcs := (rfl)
@[simp] theorem Dev.upRing_poison (d : Dev) (c : Nat) (r : RingId) (f : Ring → Ring) : (d.upRing c r f).poison = d.poison := (rfl)
@[simp] theorem Dev.upRing_net (d : Dev) (c : Nat) (r : RingId) (f : Ring → Ring) : (d.upRing c r f).net = d.net := (rfl)
@[simp] theorem Dev.upRing_herd (d : Dev) (c : Nat) (r : RingId) (f : Ring → Ring) : (d.upRing c r f).herd = d.herd := (rfl)
@[simp] theorem Dev.upRing_wdgs (d : Dev) (c : Nat) (r : RingId) (f : Ring → Ring) : (d.upRing c r f).wdgs = d.wdgs := (rfl)
@[simp] theorem Dev.upRing_bgs (d : Dev) (c : Nat) (r : RingId) (f : Ring → Ring) : (d.upRing c r f).bgs = d.bgs := (rfl)
@[simp] theorem Dev.upRing_clks (d : Dev) (c : Nat) (r : RingId) (f : Ring → Ring) : (d.upRing c r f).clks = d.clks := (rfl)
@[simp] theorem Dev.upRing_antWaits (d : Dev) (c : Nat) (r : RingId) (f : Ring → Ring) : (d.upRing c r f).antWaits = d.antWaits := (rfl)
@[simp] theorem Dev.upRing_sec (d : Dev) (c : Nat) (r : RingId) (f : Ring → Ring) : (d.upRing c r f).sec = d.sec := (rfl)

/-! setCk. -/

@[simp] theorem Dev.setCk_regs (d : Dev) (n : Nat) (x : Clk) : (d.setCk n x).regs = d.regs := (rfl)
@[simp] theorem Dev.setCk_wpend (d : Dev) (n : Nat) (x : Clk) : (d.setCk n x).wpend = d.wpend := (rfl)
@[simp] theorem Dev.setCk_liveHeld (d : Dev) (n : Nat) (x : Clk) : (d.setCk n x).liveHeld = d.liveHeld := (rfl)
@[simp] theorem Dev.setCk_readHeld (d : Dev) (n : Nat) (x : Clk) : (d.setCk n x).readHeld = d.readHeld := (rfl)
@[simp] theorem Dev.setCk_lowHeld (d : Dev) (n : Nat) (x : Clk) : (d.setCk n x).lowHeld = d.lowHeld := (rfl)
@[simp] theorem Dev.setCk_free (d : Dev) (n : Nat) (x : Clk) : (d.setCk n x).free = d.free := (rfl)
@[simp] theorem Dev.setCk_out (d : Dev) (n : Nat) (x : Clk) : (d.setCk n x).out = d.out := (rfl)
@[simp] theorem Dev.setCk_posted (d : Dev) (n : Nat) (x : Clk) : (d.setCk n x).posted = d.posted := (rfl)
@[simp] theorem Dev.setCk_chans (d : Dev) (n : Nat) (x : Clk) : (d.setCk n x).chans = d.chans := (rfl)
@[simp] theorem Dev.setCk_enes (d : Dev) (n : Nat) (x : Clk) : (d.setCk n x).enes = d.enes := (rfl)
@[simp] theorem Dev.setCk_pxes (d : Dev) (n : Nat) (x : Clk) : (d.setCk n x).pxes = d.pxes := (rfl)
@[simp] theorem Dev.setCk_wdp (d : Dev) (n : Nat) (x : Clk) : (d.setCk n x).wdp = d.wdp := (rfl)
@[simp] theorem Dev.setCk_unbound (d : Dev) (n : Nat) (x : Clk) : (d.setCk n x).unbound = d.unbound := (rfl)
@[simp] theorem Dev.setCk_pci (d : Dev) (n : Nat) (x : Clk) : (d.setCk n x).pci = d.pci := (rfl)
@[simp] theorem Dev.setCk_pxeMan (d : Dev) (n : Nat) (x : Clk) : (d.setCk n x).pxeMan = d.pxeMan := (rfl)
@[simp] theorem Dev.setCk_pseMan (d : Dev) (n : Nat) (x : Clk) : (d.setCk n x).pseMan = d.pseMan := (rfl)
@[simp] theorem Dev.setCk_pools (d : Dev) (n : Nat) (x : Clk) : (d.setCk n x).pools = d.pools := (rfl)
@[simp] theorem Dev.setCk_bpmWaits (d : Dev) (n : Nat) (x : Clk) : (d.setCk n x).bpmWaits = d.bpmWaits := (rfl)
@[simp] theorem Dev.setCk_hbcs (d : Dev) (n : Nat) (x : Clk) : (d.setCk n x).hbcs = d.hbcs := (rfl)
@[simp] theorem Dev.setCk_poison (d : Dev) (n : Nat) (x : Clk) : (d.setCk n x).poison = d.poison := (rfl)
@[simp] theorem Dev.setCk_net (d : Dev) (n : Nat) (x : Clk) : (d.setCk n x).net = d.net := (rfl)
@[simp] theorem Dev.setCk_dma (d : Dev) (n : Nat) (x : Clk) : (d.setCk n x).dma = d.dma := (rfl)
@[simp] theorem Dev.setCk_herd (d : Dev) (n : Nat) (x : Clk) : (d.setCk n x).herd = d.herd := (rfl)
@[simp] theorem Dev.setCk_wdgs (d : Dev) (n : Nat) (x : Clk) : (d.setCk n x).wdgs = d.wdgs := (rfl)
@[simp] theorem Dev.setCk_bgs (d : Dev) (n : Nat) (x : Clk) : (d.setCk n x).bgs = d.bgs := (rfl)
@[simp] theorem Dev.setCk_antWaits (d : Dev) (n : Nat) (x : Clk) : (d.setCk n x).antWaits = d.antWaits := (rfl)
@[simp] theorem Dev.setCk_sec (d : Dev) (n : Nat) (x : Clk) : (d.setCk n x).sec = d.sec := (rfl)

/-! setWdt. -/

@[simp] theorem Dev.setWdt_regs (d : Dev) (n : Nat) (x : Wdt) : (d.setWdt n x).regs = d.regs := (rfl)
@[simp] theorem Dev.setWdt_wpend (d : Dev) (n : Nat) (x : Wdt) : (d.setWdt n x).wpend = d.wpend := (rfl)
@[simp] theorem Dev.setWdt_liveHeld (d : Dev) (n : Nat) (x : Wdt) : (d.setWdt n x).liveHeld = d.liveHeld := (rfl)
@[simp] theorem Dev.setWdt_readHeld (d : Dev) (n : Nat) (x : Wdt) : (d.setWdt n x).readHeld = d.readHeld := (rfl)
@[simp] theorem Dev.setWdt_lowHeld (d : Dev) (n : Nat) (x : Wdt) : (d.setWdt n x).lowHeld = d.lowHeld := (rfl)
@[simp] theorem Dev.setWdt_free (d : Dev) (n : Nat) (x : Wdt) : (d.setWdt n x).free = d.free := (rfl)
@[simp] theorem Dev.setWdt_out (d : Dev) (n : Nat) (x : Wdt) : (d.setWdt n x).out = d.out := (rfl)
@[simp] theorem Dev.setWdt_posted (d : Dev) (n : Nat) (x : Wdt) : (d.setWdt n x).posted = d.posted := (rfl)
@[simp] theorem Dev.setWdt_chans (d : Dev) (n : Nat) (x : Wdt) : (d.setWdt n x).chans = d.chans := (rfl)
@[simp] theorem Dev.setWdt_enes (d : Dev) (n : Nat) (x : Wdt) : (d.setWdt n x).enes = d.enes := (rfl)
@[simp] theorem Dev.setWdt_pxes (d : Dev) (n : Nat) (x : Wdt) : (d.setWdt n x).pxes = d.pxes := (rfl)
@[simp] theorem Dev.setWdt_wdp (d : Dev) (n : Nat) (x : Wdt) : (d.setWdt n x).wdp = d.wdp := (rfl)
@[simp] theorem Dev.setWdt_unbound (d : Dev) (n : Nat) (x : Wdt) : (d.setWdt n x).unbound = d.unbound := (rfl)
@[simp] theorem Dev.setWdt_pci (d : Dev) (n : Nat) (x : Wdt) : (d.setWdt n x).pci = d.pci := (rfl)
@[simp] theorem Dev.setWdt_pxeMan (d : Dev) (n : Nat) (x : Wdt) : (d.setWdt n x).pxeMan = d.pxeMan := (rfl)
@[simp] theorem Dev.setWdt_pseMan (d : Dev) (n : Nat) (x : Wdt) : (d.setWdt n x).pseMan = d.pseMan := (rfl)
@[simp] theorem Dev.setWdt_pools (d : Dev) (n : Nat) (x : Wdt) : (d.setWdt n x).pools = d.pools := (rfl)
@[simp] theorem Dev.setWdt_bpmWaits (d : Dev) (n : Nat) (x : Wdt) : (d.setWdt n x).bpmWaits = d.bpmWaits := (rfl)
@[simp] theorem Dev.setWdt_hbcs (d : Dev) (n : Nat) (x : Wdt) : (d.setWdt n x).hbcs = d.hbcs := (rfl)
@[simp] theorem Dev.setWdt_poison (d : Dev) (n : Nat) (x : Wdt) : (d.setWdt n x).poison = d.poison := (rfl)
@[simp] theorem Dev.setWdt_net (d : Dev) (n : Nat) (x : Wdt) : (d.setWdt n x).net = d.net := (rfl)
@[simp] theorem Dev.setWdt_dma (d : Dev) (n : Nat) (x : Wdt) : (d.setWdt n x).dma = d.dma := (rfl)
@[simp] theorem Dev.setWdt_herd (d : Dev) (n : Nat) (x : Wdt) : (d.setWdt n x).herd = d.herd := (rfl)
@[simp] theorem Dev.setWdt_bgs (d : Dev) (n : Nat) (x : Wdt) : (d.setWdt n x).bgs = d.bgs := (rfl)
@[simp] theorem Dev.setWdt_clks (d : Dev) (n : Nat) (x : Wdt) : (d.setWdt n x).clks = d.clks := (rfl)
@[simp] theorem Dev.setWdt_antWaits (d : Dev) (n : Nat) (x : Wdt) : (d.setWdt n x).antWaits = d.antWaits := (rfl)
@[simp] theorem Dev.setWdt_sec (d : Dev) (n : Nat) (x : Wdt) : (d.setWdt n x).sec = d.sec := (rfl)

/-! setPool. -/

@[simp] theorem Dev.setPool_regs (d : Dev) (n : Nat) (x : Pool) : (d.setPool n x).regs = d.regs := (rfl)
@[simp] theorem Dev.setPool_wpend (d : Dev) (n : Nat) (x : Pool) : (d.setPool n x).wpend = d.wpend := (rfl)
@[simp] theorem Dev.setPool_liveHeld (d : Dev) (n : Nat) (x : Pool) : (d.setPool n x).liveHeld = d.liveHeld := (rfl)
@[simp] theorem Dev.setPool_readHeld (d : Dev) (n : Nat) (x : Pool) : (d.setPool n x).readHeld = d.readHeld := (rfl)
@[simp] theorem Dev.setPool_lowHeld (d : Dev) (n : Nat) (x : Pool) : (d.setPool n x).lowHeld = d.lowHeld := (rfl)
@[simp] theorem Dev.setPool_free (d : Dev) (n : Nat) (x : Pool) : (d.setPool n x).free = d.free := (rfl)
@[simp] theorem Dev.setPool_out (d : Dev) (n : Nat) (x : Pool) : (d.setPool n x).out = d.out := (rfl)
@[simp] theorem Dev.setPool_posted (d : Dev) (n : Nat) (x : Pool) : (d.setPool n x).posted = d.posted := (rfl)
@[simp] theorem Dev.setPool_chans (d : Dev) (n : Nat) (x : Pool) : (d.setPool n x).chans = d.chans := (rfl)
@[simp] theorem Dev.setPool_enes (d : Dev) (n : Nat) (x : Pool) : (d.setPool n x).enes = d.enes := (rfl)
@[simp] theorem Dev.setPool_pxes (d : Dev) (n : Nat) (x : Pool) : (d.setPool n x).pxes = d.pxes := (rfl)
@[simp] theorem Dev.setPool_wdp (d : Dev) (n : Nat) (x : Pool) : (d.setPool n x).wdp = d.wdp := (rfl)
@[simp] theorem Dev.setPool_unbound (d : Dev) (n : Nat) (x : Pool) : (d.setPool n x).unbound = d.unbound := (rfl)
@[simp] theorem Dev.setPool_pci (d : Dev) (n : Nat) (x : Pool) : (d.setPool n x).pci = d.pci := (rfl)
@[simp] theorem Dev.setPool_pxeMan (d : Dev) (n : Nat) (x : Pool) : (d.setPool n x).pxeMan = d.pxeMan := (rfl)
@[simp] theorem Dev.setPool_pseMan (d : Dev) (n : Nat) (x : Pool) : (d.setPool n x).pseMan = d.pseMan := (rfl)
@[simp] theorem Dev.setPool_bpmWaits (d : Dev) (n : Nat) (x : Pool) : (d.setPool n x).bpmWaits = d.bpmWaits := (rfl)
@[simp] theorem Dev.setPool_hbcs (d : Dev) (n : Nat) (x : Pool) : (d.setPool n x).hbcs = d.hbcs := (rfl)
@[simp] theorem Dev.setPool_poison (d : Dev) (n : Nat) (x : Pool) : (d.setPool n x).poison = d.poison := (rfl)
@[simp] theorem Dev.setPool_net (d : Dev) (n : Nat) (x : Pool) : (d.setPool n x).net = d.net := (rfl)
@[simp] theorem Dev.setPool_dma (d : Dev) (n : Nat) (x : Pool) : (d.setPool n x).dma = d.dma := (rfl)
@[simp] theorem Dev.setPool_herd (d : Dev) (n : Nat) (x : Pool) : (d.setPool n x).herd = d.herd := (rfl)
@[simp] theorem Dev.setPool_wdgs (d : Dev) (n : Nat) (x : Pool) : (d.setPool n x).wdgs = d.wdgs := (rfl)
@[simp] theorem Dev.setPool_bgs (d : Dev) (n : Nat) (x : Pool) : (d.setPool n x).bgs = d.bgs := (rfl)
@[simp] theorem Dev.setPool_clks (d : Dev) (n : Nat) (x : Pool) : (d.setPool n x).clks = d.clks := (rfl)
@[simp] theorem Dev.setPool_antWaits (d : Dev) (n : Nat) (x : Pool) : (d.setPool n x).antWaits = d.antWaits := (rfl)
@[simp] theorem Dev.setPool_sec (d : Dev) (n : Nat) (x : Pool) : (d.setPool n x).sec = d.sec := (rfl)

/-! upBgs. -/

@[simp] theorem Dev.upBgs_regs (d : Dev) (f : Bgs → Bgs) : (d.upBgs f).regs = d.regs := (rfl)
@[simp] theorem Dev.upBgs_wpend (d : Dev) (f : Bgs → Bgs) : (d.upBgs f).wpend = d.wpend := (rfl)
@[simp] theorem Dev.upBgs_liveHeld (d : Dev) (f : Bgs → Bgs) : (d.upBgs f).liveHeld = d.liveHeld := (rfl)
@[simp] theorem Dev.upBgs_readHeld (d : Dev) (f : Bgs → Bgs) : (d.upBgs f).readHeld = d.readHeld := (rfl)
@[simp] theorem Dev.upBgs_lowHeld (d : Dev) (f : Bgs → Bgs) : (d.upBgs f).lowHeld = d.lowHeld := (rfl)
@[simp] theorem Dev.upBgs_free (d : Dev) (f : Bgs → Bgs) : (d.upBgs f).free = d.free := (rfl)
@[simp] theorem Dev.upBgs_out (d : Dev) (f : Bgs → Bgs) : (d.upBgs f).out = d.out := (rfl)
@[simp] theorem Dev.upBgs_posted (d : Dev) (f : Bgs → Bgs) : (d.upBgs f).posted = d.posted := (rfl)
@[simp] theorem Dev.upBgs_chans (d : Dev) (f : Bgs → Bgs) : (d.upBgs f).chans = d.chans := (rfl)
@[simp] theorem Dev.upBgs_enes (d : Dev) (f : Bgs → Bgs) : (d.upBgs f).enes = d.enes := (rfl)
@[simp] theorem Dev.upBgs_pxes (d : Dev) (f : Bgs → Bgs) : (d.upBgs f).pxes = d.pxes := (rfl)
@[simp] theorem Dev.upBgs_wdp (d : Dev) (f : Bgs → Bgs) : (d.upBgs f).wdp = d.wdp := (rfl)
@[simp] theorem Dev.upBgs_unbound (d : Dev) (f : Bgs → Bgs) : (d.upBgs f).unbound = d.unbound := (rfl)
@[simp] theorem Dev.upBgs_pci (d : Dev) (f : Bgs → Bgs) : (d.upBgs f).pci = d.pci := (rfl)
@[simp] theorem Dev.upBgs_pxeMan (d : Dev) (f : Bgs → Bgs) : (d.upBgs f).pxeMan = d.pxeMan := (rfl)
@[simp] theorem Dev.upBgs_pseMan (d : Dev) (f : Bgs → Bgs) : (d.upBgs f).pseMan = d.pseMan := (rfl)
@[simp] theorem Dev.upBgs_pools (d : Dev) (f : Bgs → Bgs) : (d.upBgs f).pools = d.pools := (rfl)
@[simp] theorem Dev.upBgs_bpmWaits (d : Dev) (f : Bgs → Bgs) : (d.upBgs f).bpmWaits = d.bpmWaits := (rfl)
@[simp] theorem Dev.upBgs_hbcs (d : Dev) (f : Bgs → Bgs) : (d.upBgs f).hbcs = d.hbcs := (rfl)
@[simp] theorem Dev.upBgs_poison (d : Dev) (f : Bgs → Bgs) : (d.upBgs f).poison = d.poison := (rfl)
@[simp] theorem Dev.upBgs_net (d : Dev) (f : Bgs → Bgs) : (d.upBgs f).net = d.net := (rfl)
@[simp] theorem Dev.upBgs_dma (d : Dev) (f : Bgs → Bgs) : (d.upBgs f).dma = d.dma := (rfl)
@[simp] theorem Dev.upBgs_herd (d : Dev) (f : Bgs → Bgs) : (d.upBgs f).herd = d.herd := (rfl)
@[simp] theorem Dev.upBgs_wdgs (d : Dev) (f : Bgs → Bgs) : (d.upBgs f).wdgs = d.wdgs := (rfl)
@[simp] theorem Dev.upBgs_clks (d : Dev) (f : Bgs → Bgs) : (d.upBgs f).clks = d.clks := (rfl)
@[simp] theorem Dev.upBgs_antWaits (d : Dev) (f : Bgs → Bgs) : (d.upBgs f).antWaits = d.antWaits := (rfl)
@[simp] theorem Dev.upBgs_sec (d : Dev) (f : Bgs → Bgs) : (d.upBgs f).sec = d.sec := (rfl)

/-! upAnts. -/

@[simp] theorem Dev.upAnts_regs (d : Dev) (f : List Nat → List Nat) : (d.upAnts f).regs = d.regs := (rfl)
@[simp] theorem Dev.upAnts_wpend (d : Dev) (f : List Nat → List Nat) : (d.upAnts f).wpend = d.wpend := (rfl)
@[simp] theorem Dev.upAnts_liveHeld (d : Dev) (f : List Nat → List Nat) : (d.upAnts f).liveHeld = d.liveHeld := (rfl)
@[simp] theorem Dev.upAnts_readHeld (d : Dev) (f : List Nat → List Nat) : (d.upAnts f).readHeld = d.readHeld := (rfl)
@[simp] theorem Dev.upAnts_lowHeld (d : Dev) (f : List Nat → List Nat) : (d.upAnts f).lowHeld = d.lowHeld := (rfl)
@[simp] theorem Dev.upAnts_free (d : Dev) (f : List Nat → List Nat) : (d.upAnts f).free = d.free := (rfl)
@[simp] theorem Dev.upAnts_out (d : Dev) (f : List Nat → List Nat) : (d.upAnts f).out = d.out := (rfl)
@[simp] theorem Dev.upAnts_posted (d : Dev) (f : List Nat → List Nat) : (d.upAnts f).posted = d.posted := (rfl)
@[simp] theorem Dev.upAnts_chans (d : Dev) (f : List Nat → List Nat) : (d.upAnts f).chans = d.chans := (rfl)
@[simp] theorem Dev.upAnts_enes (d : Dev) (f : List Nat → List Nat) : (d.upAnts f).enes = d.enes := (rfl)
@[simp] theorem Dev.upAnts_pxes (d : Dev) (f : List Nat → List Nat) : (d.upAnts f).pxes = d.pxes := (rfl)
@[simp] theorem Dev.upAnts_wdp (d : Dev) (f : List Nat → List Nat) : (d.upAnts f).wdp = d.wdp := (rfl)
@[simp] theorem Dev.upAnts_unbound (d : Dev) (f : List Nat → List Nat) : (d.upAnts f).unbound = d.unbound := (rfl)
@[simp] theorem Dev.upAnts_pci (d : Dev) (f : List Nat → List Nat) : (d.upAnts f).pci = d.pci := (rfl)
@[simp] theorem Dev.upAnts_pxeMan (d : Dev) (f : List Nat → List Nat) : (d.upAnts f).pxeMan = d.pxeMan := (rfl)
@[simp] theorem Dev.upAnts_pseMan (d : Dev) (f : List Nat → List Nat) : (d.upAnts f).pseMan = d.pseMan := (rfl)
@[simp] theorem Dev.upAnts_pools (d : Dev) (f : List Nat → List Nat) : (d.upAnts f).pools = d.pools := (rfl)
@[simp] theorem Dev.upAnts_bpmWaits (d : Dev) (f : List Nat → List Nat) : (d.upAnts f).bpmWaits = d.bpmWaits := (rfl)
@[simp] theorem Dev.upAnts_hbcs (d : Dev) (f : List Nat → List Nat) : (d.upAnts f).hbcs = d.hbcs := (rfl)
@[simp] theorem Dev.upAnts_poison (d : Dev) (f : List Nat → List Nat) : (d.upAnts f).poison = d.poison := (rfl)
@[simp] theorem Dev.upAnts_net (d : Dev) (f : List Nat → List Nat) : (d.upAnts f).net = d.net := (rfl)
@[simp] theorem Dev.upAnts_dma (d : Dev) (f : List Nat → List Nat) : (d.upAnts f).dma = d.dma := (rfl)
@[simp] theorem Dev.upAnts_herd (d : Dev) (f : List Nat → List Nat) : (d.upAnts f).herd = d.herd := (rfl)
@[simp] theorem Dev.upAnts_wdgs (d : Dev) (f : List Nat → List Nat) : (d.upAnts f).wdgs = d.wdgs := (rfl)
@[simp] theorem Dev.upAnts_bgs (d : Dev) (f : List Nat → List Nat) : (d.upAnts f).bgs = d.bgs := (rfl)
@[simp] theorem Dev.upAnts_clks (d : Dev) (f : List Nat → List Nat) : (d.upAnts f).clks = d.clks := (rfl)
@[simp] theorem Dev.upAnts_sec (d : Dev) (f : List Nat → List Nat) : (d.upAnts f).sec = d.sec := (rfl)

/-! upLink. -/

@[simp] theorem Dev.upLink_regs (d : Dev) (f : PcieLink → PcieLink) : (d.upLink f).regs = d.regs := (rfl)
@[simp] theorem Dev.upLink_wpend (d : Dev) (f : PcieLink → PcieLink) : (d.upLink f).wpend = d.wpend := (rfl)
@[simp] theorem Dev.upLink_liveHeld (d : Dev) (f : PcieLink → PcieLink) : (d.upLink f).liveHeld = d.liveHeld := (rfl)
@[simp] theorem Dev.upLink_readHeld (d : Dev) (f : PcieLink → PcieLink) : (d.upLink f).readHeld = d.readHeld := (rfl)
@[simp] theorem Dev.upLink_lowHeld (d : Dev) (f : PcieLink → PcieLink) : (d.upLink f).lowHeld = d.lowHeld := (rfl)
@[simp] theorem Dev.upLink_free (d : Dev) (f : PcieLink → PcieLink) : (d.upLink f).free = d.free := (rfl)
@[simp] theorem Dev.upLink_out (d : Dev) (f : PcieLink → PcieLink) : (d.upLink f).out = d.out := (rfl)
@[simp] theorem Dev.upLink_posted (d : Dev) (f : PcieLink → PcieLink) : (d.upLink f).posted = d.posted := (rfl)
@[simp] theorem Dev.upLink_chans (d : Dev) (f : PcieLink → PcieLink) : (d.upLink f).chans = d.chans := (rfl)
@[simp] theorem Dev.upLink_enes (d : Dev) (f : PcieLink → PcieLink) : (d.upLink f).enes = d.enes := (rfl)
@[simp] theorem Dev.upLink_pxes (d : Dev) (f : PcieLink → PcieLink) : (d.upLink f).pxes = d.pxes := (rfl)
@[simp] theorem Dev.upLink_wdp (d : Dev) (f : PcieLink → PcieLink) : (d.upLink f).wdp = d.wdp := (rfl)
@[simp] theorem Dev.upLink_unbound (d : Dev) (f : PcieLink → PcieLink) : (d.upLink f).unbound = d.unbound := (rfl)
@[simp] theorem Dev.upLink_pci (d : Dev) (f : PcieLink → PcieLink) : (d.upLink f).pci = d.pci := (rfl)
@[simp] theorem Dev.upLink_pxeMan (d : Dev) (f : PcieLink → PcieLink) : (d.upLink f).pxeMan = d.pxeMan := (rfl)
@[simp] theorem Dev.upLink_pseMan (d : Dev) (f : PcieLink → PcieLink) : (d.upLink f).pseMan = d.pseMan := (rfl)
@[simp] theorem Dev.upLink_pools (d : Dev) (f : PcieLink → PcieLink) : (d.upLink f).pools = d.pools := (rfl)
@[simp] theorem Dev.upLink_bpmWaits (d : Dev) (f : PcieLink → PcieLink) : (d.upLink f).bpmWaits = d.bpmWaits := (rfl)
@[simp] theorem Dev.upLink_hbcs (d : Dev) (f : PcieLink → PcieLink) : (d.upLink f).hbcs = d.hbcs := (rfl)
@[simp] theorem Dev.upLink_poison (d : Dev) (f : PcieLink → PcieLink) : (d.upLink f).poison = d.poison := (rfl)
@[simp] theorem Dev.upLink_net (d : Dev) (f : PcieLink → PcieLink) : (d.upLink f).net = d.net := (rfl)
@[simp] theorem Dev.upLink_herd (d : Dev) (f : PcieLink → PcieLink) : (d.upLink f).herd = d.herd := (rfl)
@[simp] theorem Dev.upLink_wdgs (d : Dev) (f : PcieLink → PcieLink) : (d.upLink f).wdgs = d.wdgs := (rfl)
@[simp] theorem Dev.upLink_bgs (d : Dev) (f : PcieLink → PcieLink) : (d.upLink f).bgs = d.bgs := (rfl)
@[simp] theorem Dev.upLink_clks (d : Dev) (f : PcieLink → PcieLink) : (d.upLink f).clks = d.clks := (rfl)
@[simp] theorem Dev.upLink_antWaits (d : Dev) (f : PcieLink → PcieLink) : (d.upLink f).antWaits = d.antWaits := (rfl)
@[simp] theorem Dev.upLink_sec (d : Dev) (f : PcieLink → PcieLink) : (d.upLink f).sec = d.sec := (rfl)

/-! Interrupts: only registers, the MSI-X pending bits and what leaves the device change. -/

theorem Dev.wr_frame (d : Dev) (f : Field) (v : Nat) : ∃ r, d.wr f v = { d with regs := r } := by
  unfold Dev.wr; split <;> exact ⟨_, rfl⟩

theorem Dev.message_frame (d : Dev) (v : Nat) : ∃ p o, d.message v = { d with pci := p, out := o } := by
  unfold Dev.message; split
  · exact ⟨_, d.out, rfl⟩
  · exact ⟨d.pci, _, rfl⟩

theorem Dev.toCore_frame (d : Dev) (s core : Nat) : ∃ r, (d.toCore s core).1 = { d with regs := r } := by
  unfold Dev.toCore
  split
  · exact ⟨d.regs, rfl⟩
  · exact d.wr_frame (HCC_STS.STATE.on core) 0
  · exact d.wr_frame (strandedBit s) 1

theorem Dev.deliverOnce_frame (d : Dev) (s : Nat) : ∃ r p o, (d.deliverOnce s).1 = { d with regs := r, pci := p, out := o } := by
  unfold Dev.deliverOnce
  simp only
  split
  · obtain ⟨r, h⟩ := d.toCore_frame s (d.routeKind s); exact ⟨r, d.pci, d.out, h⟩
  · split
    · exact ⟨d.regs, d.pci, d.out, rfl⟩
    · obtain ⟨p, x, h⟩ := d.message_frame (d.routeVector s); exact ⟨d.regs, p, x, h⟩

theorem Dev.pendOnce_frame (d : Dev) (s : Nat) : ∃ r p o, (d.pendOnce s).1 = { d with regs := r, pci := p, out := o } := by
  unfold Dev.pendOnce
  simp only
  obtain ⟨r, h⟩ := d.wr_frame (pendBit s) 1
  split
  · obtain ⟨r', p, x, h'⟩ := (d.wr (pendBit s) 1).deliverOnce_frame s
    exact ⟨r', p, x, by rw [h', h]⟩
  · exact ⟨r, d.pci, d.out, h⟩

theorem Dev.strandedEvent_frame (d : Dev) : ∃ r p o, d.strandedEvent = { d with regs := r, pci := p, out := o } := by
  unfold Dev.strandedEvent
  simp only
  obtain ⟨r, h⟩ := d.wr_frame INT0_EVT.STRANDED 1
  split
  · obtain ⟨r', p, x, h'⟩ := (d.wr INT0_EVT.STRANDED 1).pendOnce_frame 559
    exact ⟨r', p, x, by rw [h', h]⟩
  · exact ⟨r, d.pci, d.out, h⟩

theorem Dev.raise_frame (d : Dev) (s : Nat) : ∃ r p o, d.raise s = { d with regs := r, pci := p, out := o } := by
  unfold Dev.raise
  simp only
  obtain ⟨r, p, x, h⟩ := d.pendOnce_frame s
  split
  · obtain ⟨r', p', x', h'⟩ := (d.pendOnce s).1.strandedEvent_frame
    exact ⟨r', p', x', by rw [h', h]⟩
  · exact ⟨r, p, x, h⟩

theorem Dev.deliver_frame (d : Dev) (s : Nat) : ∃ r p o, d.deliver s = { d with regs := r, pci := p, out := o } := by
  unfold Dev.deliver
  simp only
  obtain ⟨r, p, x, h⟩ := d.deliverOnce_frame s
  split
  · obtain ⟨r', p', x', h'⟩ := (d.deliverOnce s).1.strandedEvent_frame
    exact ⟨r', p', x', by rw [h', h]⟩
  · exact ⟨r, p, x, h⟩

theorem Dev.sample_frame (d : Dev) (page : Nat) : ∃ r p o, d.sample page = { d with regs := r, pci := p, out := o } := by
  unfold Dev.sample
  split
  · split
    · exact d.raise_frame _
    · exact ⟨d.regs, d.pci, d.out, rfl⟩
  · exact ⟨d.regs, d.pci, d.out, rfl⟩

/-- An event sets its bit and requests its interrupt: registers, MSI-X pending bits and messages, nothing else. -/
theorem Dev.event_frame (d : Dev) (f : Field) : ∃ r p o, d.event f = { d with regs := r, pci := p, out := o } := by
  unfold Dev.event
  obtain ⟨r, h⟩ := d.wr_frame f 1
  obtain ⟨r', p, x, h'⟩ := (d.wr f 1).sample_frame (keyPage f.base)
  exact ⟨r', p, x, by rw [h', h]⟩

theorem Dev.raisePriv_frame (d : Dev) (core src : Nat) : ∃ r, d.raisePriv core src = { d with regs := r } := by
  unfold Dev.raisePriv
  simp only
  obtain ⟨r, h⟩ := d.wr_frame ⟨0xD01048 + 0x1000 * core, src, 1, false⟩ 1
  split
  · obtain ⟨r', h'⟩ := (d.wr ⟨0xD01048 + 0x1000 * core, src, 1, false⟩ 1).wr_frame (HCC_STS.STATE.on core) 0
    exact ⟨r', by rw [h', h]⟩
  · exact ⟨r, h⟩

/-! event. -/

@[simp] theorem Dev.event_wpend (d : Dev) (f : Field) : (d.event f).wpend = d.wpend := by obtain ⟨r, p, x, h⟩ := d.event_frame f; rw [h]
@[simp] theorem Dev.event_liveHeld (d : Dev) (f : Field) : (d.event f).liveHeld = d.liveHeld := by obtain ⟨r, p, x, h⟩ := d.event_frame f; rw [h]
@[simp] theorem Dev.event_readHeld (d : Dev) (f : Field) : (d.event f).readHeld = d.readHeld := by obtain ⟨r, p, x, h⟩ := d.event_frame f; rw [h]
@[simp] theorem Dev.event_lowHeld (d : Dev) (f : Field) : (d.event f).lowHeld = d.lowHeld := by obtain ⟨r, p, x, h⟩ := d.event_frame f; rw [h]
@[simp] theorem Dev.event_free (d : Dev) (f : Field) : (d.event f).free = d.free := by obtain ⟨r, p, x, h⟩ := d.event_frame f; rw [h]
@[simp] theorem Dev.event_posted (d : Dev) (f : Field) : (d.event f).posted = d.posted := by obtain ⟨r, p, x, h⟩ := d.event_frame f; rw [h]
@[simp] theorem Dev.event_chans (d : Dev) (f : Field) : (d.event f).chans = d.chans := by obtain ⟨r, p, x, h⟩ := d.event_frame f; rw [h]
@[simp] theorem Dev.event_enes (d : Dev) (f : Field) : (d.event f).enes = d.enes := by obtain ⟨r, p, x, h⟩ := d.event_frame f; rw [h]
@[simp] theorem Dev.event_pxes (d : Dev) (f : Field) : (d.event f).pxes = d.pxes := by obtain ⟨r, p, x, h⟩ := d.event_frame f; rw [h]
@[simp] theorem Dev.event_wdp (d : Dev) (f : Field) : (d.event f).wdp = d.wdp := by obtain ⟨r, p, x, h⟩ := d.event_frame f; rw [h]
@[simp] theorem Dev.event_unbound (d : Dev) (f : Field) : (d.event f).unbound = d.unbound := by obtain ⟨r, p, x, h⟩ := d.event_frame f; rw [h]
@[simp] theorem Dev.event_pxeMan (d : Dev) (f : Field) : (d.event f).pxeMan = d.pxeMan := by obtain ⟨r, p, x, h⟩ := d.event_frame f; rw [h]
@[simp] theorem Dev.event_pseMan (d : Dev) (f : Field) : (d.event f).pseMan = d.pseMan := by obtain ⟨r, p, x, h⟩ := d.event_frame f; rw [h]
@[simp] theorem Dev.event_pools (d : Dev) (f : Field) : (d.event f).pools = d.pools := by obtain ⟨r, p, x, h⟩ := d.event_frame f; rw [h]
@[simp] theorem Dev.event_bpmWaits (d : Dev) (f : Field) : (d.event f).bpmWaits = d.bpmWaits := by obtain ⟨r, p, x, h⟩ := d.event_frame f; rw [h]
@[simp] theorem Dev.event_hbcs (d : Dev) (f : Field) : (d.event f).hbcs = d.hbcs := by obtain ⟨r, p, x, h⟩ := d.event_frame f; rw [h]
@[simp] theorem Dev.event_poison (d : Dev) (f : Field) : (d.event f).poison = d.poison := by obtain ⟨r, p, x, h⟩ := d.event_frame f; rw [h]
@[simp] theorem Dev.event_net (d : Dev) (f : Field) : (d.event f).net = d.net := by obtain ⟨r, p, x, h⟩ := d.event_frame f; rw [h]
@[simp] theorem Dev.event_dma (d : Dev) (f : Field) : (d.event f).dma = d.dma := by obtain ⟨r, p, x, h⟩ := d.event_frame f; rw [h]
@[simp] theorem Dev.event_herd (d : Dev) (f : Field) : (d.event f).herd = d.herd := by obtain ⟨r, p, x, h⟩ := d.event_frame f; rw [h]
@[simp] theorem Dev.event_wdgs (d : Dev) (f : Field) : (d.event f).wdgs = d.wdgs := by obtain ⟨r, p, x, h⟩ := d.event_frame f; rw [h]
@[simp] theorem Dev.event_bgs (d : Dev) (f : Field) : (d.event f).bgs = d.bgs := by obtain ⟨r, p, x, h⟩ := d.event_frame f; rw [h]
@[simp] theorem Dev.event_clks (d : Dev) (f : Field) : (d.event f).clks = d.clks := by obtain ⟨r, p, x, h⟩ := d.event_frame f; rw [h]
@[simp] theorem Dev.event_antWaits (d : Dev) (f : Field) : (d.event f).antWaits = d.antWaits := by obtain ⟨r, p, x, h⟩ := d.event_frame f; rw [h]
@[simp] theorem Dev.event_sec (d : Dev) (f : Field) : (d.event f).sec = d.sec := by obtain ⟨r, p, x, h⟩ := d.event_frame f; rw [h]

/-! raise. -/

@[simp] theorem Dev.raise_wpend (d : Dev) (s : Nat) : (d.raise s).wpend = d.wpend := by obtain ⟨r, p, x, h⟩ := d.raise_frame s; rw [h]
@[simp] theorem Dev.raise_liveHeld (d : Dev) (s : Nat) : (d.raise s).liveHeld = d.liveHeld := by obtain ⟨r, p, x, h⟩ := d.raise_frame s; rw [h]
@[simp] theorem Dev.raise_readHeld (d : Dev) (s : Nat) : (d.raise s).readHeld = d.readHeld := by obtain ⟨r, p, x, h⟩ := d.raise_frame s; rw [h]
@[simp] theorem Dev.raise_lowHeld (d : Dev) (s : Nat) : (d.raise s).lowHeld = d.lowHeld := by obtain ⟨r, p, x, h⟩ := d.raise_frame s; rw [h]
@[simp] theorem Dev.raise_free (d : Dev) (s : Nat) : (d.raise s).free = d.free := by obtain ⟨r, p, x, h⟩ := d.raise_frame s; rw [h]
@[simp] theorem Dev.raise_posted (d : Dev) (s : Nat) : (d.raise s).posted = d.posted := by obtain ⟨r, p, x, h⟩ := d.raise_frame s; rw [h]
@[simp] theorem Dev.raise_chans (d : Dev) (s : Nat) : (d.raise s).chans = d.chans := by obtain ⟨r, p, x, h⟩ := d.raise_frame s; rw [h]
@[simp] theorem Dev.raise_enes (d : Dev) (s : Nat) : (d.raise s).enes = d.enes := by obtain ⟨r, p, x, h⟩ := d.raise_frame s; rw [h]
@[simp] theorem Dev.raise_pxes (d : Dev) (s : Nat) : (d.raise s).pxes = d.pxes := by obtain ⟨r, p, x, h⟩ := d.raise_frame s; rw [h]
@[simp] theorem Dev.raise_wdp (d : Dev) (s : Nat) : (d.raise s).wdp = d.wdp := by obtain ⟨r, p, x, h⟩ := d.raise_frame s; rw [h]
@[simp] theorem Dev.raise_unbound (d : Dev) (s : Nat) : (d.raise s).unbound = d.unbound := by obtain ⟨r, p, x, h⟩ := d.raise_frame s; rw [h]
@[simp] theorem Dev.raise_pxeMan (d : Dev) (s : Nat) : (d.raise s).pxeMan = d.pxeMan := by obtain ⟨r, p, x, h⟩ := d.raise_frame s; rw [h]
@[simp] theorem Dev.raise_pseMan (d : Dev) (s : Nat) : (d.raise s).pseMan = d.pseMan := by obtain ⟨r, p, x, h⟩ := d.raise_frame s; rw [h]
@[simp] theorem Dev.raise_pools (d : Dev) (s : Nat) : (d.raise s).pools = d.pools := by obtain ⟨r, p, x, h⟩ := d.raise_frame s; rw [h]
@[simp] theorem Dev.raise_bpmWaits (d : Dev) (s : Nat) : (d.raise s).bpmWaits = d.bpmWaits := by obtain ⟨r, p, x, h⟩ := d.raise_frame s; rw [h]
@[simp] theorem Dev.raise_hbcs (d : Dev) (s : Nat) : (d.raise s).hbcs = d.hbcs := by obtain ⟨r, p, x, h⟩ := d.raise_frame s; rw [h]
@[simp] theorem Dev.raise_poison (d : Dev) (s : Nat) : (d.raise s).poison = d.poison := by obtain ⟨r, p, x, h⟩ := d.raise_frame s; rw [h]
@[simp] theorem Dev.raise_net (d : Dev) (s : Nat) : (d.raise s).net = d.net := by obtain ⟨r, p, x, h⟩ := d.raise_frame s; rw [h]
@[simp] theorem Dev.raise_dma (d : Dev) (s : Nat) : (d.raise s).dma = d.dma := by obtain ⟨r, p, x, h⟩ := d.raise_frame s; rw [h]
@[simp] theorem Dev.raise_herd (d : Dev) (s : Nat) : (d.raise s).herd = d.herd := by obtain ⟨r, p, x, h⟩ := d.raise_frame s; rw [h]
@[simp] theorem Dev.raise_wdgs (d : Dev) (s : Nat) : (d.raise s).wdgs = d.wdgs := by obtain ⟨r, p, x, h⟩ := d.raise_frame s; rw [h]
@[simp] theorem Dev.raise_bgs (d : Dev) (s : Nat) : (d.raise s).bgs = d.bgs := by obtain ⟨r, p, x, h⟩ := d.raise_frame s; rw [h]
@[simp] theorem Dev.raise_clks (d : Dev) (s : Nat) : (d.raise s).clks = d.clks := by obtain ⟨r, p, x, h⟩ := d.raise_frame s; rw [h]
@[simp] theorem Dev.raise_antWaits (d : Dev) (s : Nat) : (d.raise s).antWaits = d.antWaits := by obtain ⟨r, p, x, h⟩ := d.raise_frame s; rw [h]
@[simp] theorem Dev.raise_sec (d : Dev) (s : Nat) : (d.raise s).sec = d.sec := by obtain ⟨r, p, x, h⟩ := d.raise_frame s; rw [h]

/-! sample. -/

@[simp] theorem Dev.sample_wpend (d : Dev) (p : Nat) : (d.sample p).wpend = d.wpend := by obtain ⟨r, q, x, h⟩ := d.sample_frame p; rw [h]
@[simp] theorem Dev.sample_liveHeld (d : Dev) (p : Nat) : (d.sample p).liveHeld = d.liveHeld := by obtain ⟨r, q, x, h⟩ := d.sample_frame p; rw [h]
@[simp] theorem Dev.sample_readHeld (d : Dev) (p : Nat) : (d.sample p).readHeld = d.readHeld := by obtain ⟨r, q, x, h⟩ := d.sample_frame p; rw [h]
@[simp] theorem Dev.sample_lowHeld (d : Dev) (p : Nat) : (d.sample p).lowHeld = d.lowHeld := by obtain ⟨r, q, x, h⟩ := d.sample_frame p; rw [h]
@[simp] theorem Dev.sample_free (d : Dev) (p : Nat) : (d.sample p).free = d.free := by obtain ⟨r, q, x, h⟩ := d.sample_frame p; rw [h]
@[simp] theorem Dev.sample_posted (d : Dev) (p : Nat) : (d.sample p).posted = d.posted := by obtain ⟨r, q, x, h⟩ := d.sample_frame p; rw [h]
@[simp] theorem Dev.sample_chans (d : Dev) (p : Nat) : (d.sample p).chans = d.chans := by obtain ⟨r, q, x, h⟩ := d.sample_frame p; rw [h]
@[simp] theorem Dev.sample_enes (d : Dev) (p : Nat) : (d.sample p).enes = d.enes := by obtain ⟨r, q, x, h⟩ := d.sample_frame p; rw [h]
@[simp] theorem Dev.sample_pxes (d : Dev) (p : Nat) : (d.sample p).pxes = d.pxes := by obtain ⟨r, q, x, h⟩ := d.sample_frame p; rw [h]
@[simp] theorem Dev.sample_wdp (d : Dev) (p : Nat) : (d.sample p).wdp = d.wdp := by obtain ⟨r, q, x, h⟩ := d.sample_frame p; rw [h]
@[simp] theorem Dev.sample_unbound (d : Dev) (p : Nat) : (d.sample p).unbound = d.unbound := by obtain ⟨r, q, x, h⟩ := d.sample_frame p; rw [h]
@[simp] theorem Dev.sample_pxeMan (d : Dev) (p : Nat) : (d.sample p).pxeMan = d.pxeMan := by obtain ⟨r, q, x, h⟩ := d.sample_frame p; rw [h]
@[simp] theorem Dev.sample_pseMan (d : Dev) (p : Nat) : (d.sample p).pseMan = d.pseMan := by obtain ⟨r, q, x, h⟩ := d.sample_frame p; rw [h]
@[simp] theorem Dev.sample_pools (d : Dev) (p : Nat) : (d.sample p).pools = d.pools := by obtain ⟨r, q, x, h⟩ := d.sample_frame p; rw [h]
@[simp] theorem Dev.sample_bpmWaits (d : Dev) (p : Nat) : (d.sample p).bpmWaits = d.bpmWaits := by obtain ⟨r, q, x, h⟩ := d.sample_frame p; rw [h]
@[simp] theorem Dev.sample_hbcs (d : Dev) (p : Nat) : (d.sample p).hbcs = d.hbcs := by obtain ⟨r, q, x, h⟩ := d.sample_frame p; rw [h]
@[simp] theorem Dev.sample_poison (d : Dev) (p : Nat) : (d.sample p).poison = d.poison := by obtain ⟨r, q, x, h⟩ := d.sample_frame p; rw [h]
@[simp] theorem Dev.sample_net (d : Dev) (p : Nat) : (d.sample p).net = d.net := by obtain ⟨r, q, x, h⟩ := d.sample_frame p; rw [h]
@[simp] theorem Dev.sample_dma (d : Dev) (p : Nat) : (d.sample p).dma = d.dma := by obtain ⟨r, q, x, h⟩ := d.sample_frame p; rw [h]
@[simp] theorem Dev.sample_herd (d : Dev) (p : Nat) : (d.sample p).herd = d.herd := by obtain ⟨r, q, x, h⟩ := d.sample_frame p; rw [h]
@[simp] theorem Dev.sample_wdgs (d : Dev) (p : Nat) : (d.sample p).wdgs = d.wdgs := by obtain ⟨r, q, x, h⟩ := d.sample_frame p; rw [h]
@[simp] theorem Dev.sample_bgs (d : Dev) (p : Nat) : (d.sample p).bgs = d.bgs := by obtain ⟨r, q, x, h⟩ := d.sample_frame p; rw [h]
@[simp] theorem Dev.sample_clks (d : Dev) (p : Nat) : (d.sample p).clks = d.clks := by obtain ⟨r, q, x, h⟩ := d.sample_frame p; rw [h]
@[simp] theorem Dev.sample_antWaits (d : Dev) (p : Nat) : (d.sample p).antWaits = d.antWaits := by obtain ⟨r, q, x, h⟩ := d.sample_frame p; rw [h]
@[simp] theorem Dev.sample_sec (d : Dev) (p : Nat) : (d.sample p).sec = d.sec := by obtain ⟨r, q, x, h⟩ := d.sample_frame p; rw [h]

/-! deliver. -/

@[simp] theorem Dev.deliver_wpend (d : Dev) (s : Nat) : (d.deliver s).wpend = d.wpend := by obtain ⟨r, p, x, h⟩ := d.deliver_frame s; rw [h]
@[simp] theorem Dev.deliver_liveHeld (d : Dev) (s : Nat) : (d.deliver s).liveHeld = d.liveHeld := by obtain ⟨r, p, x, h⟩ := d.deliver_frame s; rw [h]
@[simp] theorem Dev.deliver_readHeld (d : Dev) (s : Nat) : (d.deliver s).readHeld = d.readHeld := by obtain ⟨r, p, x, h⟩ := d.deliver_frame s; rw [h]
@[simp] theorem Dev.deliver_lowHeld (d : Dev) (s : Nat) : (d.deliver s).lowHeld = d.lowHeld := by obtain ⟨r, p, x, h⟩ := d.deliver_frame s; rw [h]
@[simp] theorem Dev.deliver_free (d : Dev) (s : Nat) : (d.deliver s).free = d.free := by obtain ⟨r, p, x, h⟩ := d.deliver_frame s; rw [h]
@[simp] theorem Dev.deliver_posted (d : Dev) (s : Nat) : (d.deliver s).posted = d.posted := by obtain ⟨r, p, x, h⟩ := d.deliver_frame s; rw [h]
@[simp] theorem Dev.deliver_chans (d : Dev) (s : Nat) : (d.deliver s).chans = d.chans := by obtain ⟨r, p, x, h⟩ := d.deliver_frame s; rw [h]
@[simp] theorem Dev.deliver_enes (d : Dev) (s : Nat) : (d.deliver s).enes = d.enes := by obtain ⟨r, p, x, h⟩ := d.deliver_frame s; rw [h]
@[simp] theorem Dev.deliver_pxes (d : Dev) (s : Nat) : (d.deliver s).pxes = d.pxes := by obtain ⟨r, p, x, h⟩ := d.deliver_frame s; rw [h]
@[simp] theorem Dev.deliver_wdp (d : Dev) (s : Nat) : (d.deliver s).wdp = d.wdp := by obtain ⟨r, p, x, h⟩ := d.deliver_frame s; rw [h]
@[simp] theorem Dev.deliver_unbound (d : Dev) (s : Nat) : (d.deliver s).unbound = d.unbound := by obtain ⟨r, p, x, h⟩ := d.deliver_frame s; rw [h]
@[simp] theorem Dev.deliver_pxeMan (d : Dev) (s : Nat) : (d.deliver s).pxeMan = d.pxeMan := by obtain ⟨r, p, x, h⟩ := d.deliver_frame s; rw [h]
@[simp] theorem Dev.deliver_pseMan (d : Dev) (s : Nat) : (d.deliver s).pseMan = d.pseMan := by obtain ⟨r, p, x, h⟩ := d.deliver_frame s; rw [h]
@[simp] theorem Dev.deliver_pools (d : Dev) (s : Nat) : (d.deliver s).pools = d.pools := by obtain ⟨r, p, x, h⟩ := d.deliver_frame s; rw [h]
@[simp] theorem Dev.deliver_bpmWaits (d : Dev) (s : Nat) : (d.deliver s).bpmWaits = d.bpmWaits := by obtain ⟨r, p, x, h⟩ := d.deliver_frame s; rw [h]
@[simp] theorem Dev.deliver_hbcs (d : Dev) (s : Nat) : (d.deliver s).hbcs = d.hbcs := by obtain ⟨r, p, x, h⟩ := d.deliver_frame s; rw [h]
@[simp] theorem Dev.deliver_poison (d : Dev) (s : Nat) : (d.deliver s).poison = d.poison := by obtain ⟨r, p, x, h⟩ := d.deliver_frame s; rw [h]
@[simp] theorem Dev.deliver_net (d : Dev) (s : Nat) : (d.deliver s).net = d.net := by obtain ⟨r, p, x, h⟩ := d.deliver_frame s; rw [h]
@[simp] theorem Dev.deliver_dma (d : Dev) (s : Nat) : (d.deliver s).dma = d.dma := by obtain ⟨r, p, x, h⟩ := d.deliver_frame s; rw [h]
@[simp] theorem Dev.deliver_herd (d : Dev) (s : Nat) : (d.deliver s).herd = d.herd := by obtain ⟨r, p, x, h⟩ := d.deliver_frame s; rw [h]
@[simp] theorem Dev.deliver_wdgs (d : Dev) (s : Nat) : (d.deliver s).wdgs = d.wdgs := by obtain ⟨r, p, x, h⟩ := d.deliver_frame s; rw [h]
@[simp] theorem Dev.deliver_bgs (d : Dev) (s : Nat) : (d.deliver s).bgs = d.bgs := by obtain ⟨r, p, x, h⟩ := d.deliver_frame s; rw [h]
@[simp] theorem Dev.deliver_clks (d : Dev) (s : Nat) : (d.deliver s).clks = d.clks := by obtain ⟨r, p, x, h⟩ := d.deliver_frame s; rw [h]
@[simp] theorem Dev.deliver_antWaits (d : Dev) (s : Nat) : (d.deliver s).antWaits = d.antWaits := by obtain ⟨r, p, x, h⟩ := d.deliver_frame s; rw [h]
@[simp] theorem Dev.deliver_sec (d : Dev) (s : Nat) : (d.deliver s).sec = d.sec := by obtain ⟨r, p, x, h⟩ := d.deliver_frame s; rw [h]

/-! raisePriv. -/

@[simp] theorem Dev.raisePriv_wpend (d : Dev) (core src : Nat) : (d.raisePriv core src).wpend = d.wpend := by obtain ⟨r, h⟩ := d.raisePriv_frame core src; rw [h]
@[simp] theorem Dev.raisePriv_liveHeld (d : Dev) (core src : Nat) : (d.raisePriv core src).liveHeld = d.liveHeld := by obtain ⟨r, h⟩ := d.raisePriv_frame core src; rw [h]
@[simp] theorem Dev.raisePriv_readHeld (d : Dev) (core src : Nat) : (d.raisePriv core src).readHeld = d.readHeld := by obtain ⟨r, h⟩ := d.raisePriv_frame core src; rw [h]
@[simp] theorem Dev.raisePriv_lowHeld (d : Dev) (core src : Nat) : (d.raisePriv core src).lowHeld = d.lowHeld := by obtain ⟨r, h⟩ := d.raisePriv_frame core src; rw [h]
@[simp] theorem Dev.raisePriv_free (d : Dev) (core src : Nat) : (d.raisePriv core src).free = d.free := by obtain ⟨r, h⟩ := d.raisePriv_frame core src; rw [h]
@[simp] theorem Dev.raisePriv_out (d : Dev) (core src : Nat) : (d.raisePriv core src).out = d.out := by obtain ⟨r, h⟩ := d.raisePriv_frame core src; rw [h]
@[simp] theorem Dev.raisePriv_posted (d : Dev) (core src : Nat) : (d.raisePriv core src).posted = d.posted := by obtain ⟨r, h⟩ := d.raisePriv_frame core src; rw [h]
@[simp] theorem Dev.raisePriv_chans (d : Dev) (core src : Nat) : (d.raisePriv core src).chans = d.chans := by obtain ⟨r, h⟩ := d.raisePriv_frame core src; rw [h]
@[simp] theorem Dev.raisePriv_enes (d : Dev) (core src : Nat) : (d.raisePriv core src).enes = d.enes := by obtain ⟨r, h⟩ := d.raisePriv_frame core src; rw [h]
@[simp] theorem Dev.raisePriv_pxes (d : Dev) (core src : Nat) : (d.raisePriv core src).pxes = d.pxes := by obtain ⟨r, h⟩ := d.raisePriv_frame core src; rw [h]
@[simp] theorem Dev.raisePriv_wdp (d : Dev) (core src : Nat) : (d.raisePriv core src).wdp = d.wdp := by obtain ⟨r, h⟩ := d.raisePriv_frame core src; rw [h]
@[simp] theorem Dev.raisePriv_unbound (d : Dev) (core src : Nat) : (d.raisePriv core src).unbound = d.unbound := by obtain ⟨r, h⟩ := d.raisePriv_frame core src; rw [h]
@[simp] theorem Dev.raisePriv_pci (d : Dev) (core src : Nat) : (d.raisePriv core src).pci = d.pci := by obtain ⟨r, h⟩ := d.raisePriv_frame core src; rw [h]
@[simp] theorem Dev.raisePriv_pxeMan (d : Dev) (core src : Nat) : (d.raisePriv core src).pxeMan = d.pxeMan := by obtain ⟨r, h⟩ := d.raisePriv_frame core src; rw [h]
@[simp] theorem Dev.raisePriv_pseMan (d : Dev) (core src : Nat) : (d.raisePriv core src).pseMan = d.pseMan := by obtain ⟨r, h⟩ := d.raisePriv_frame core src; rw [h]
@[simp] theorem Dev.raisePriv_pools (d : Dev) (core src : Nat) : (d.raisePriv core src).pools = d.pools := by obtain ⟨r, h⟩ := d.raisePriv_frame core src; rw [h]
@[simp] theorem Dev.raisePriv_bpmWaits (d : Dev) (core src : Nat) : (d.raisePriv core src).bpmWaits = d.bpmWaits := by obtain ⟨r, h⟩ := d.raisePriv_frame core src; rw [h]
@[simp] theorem Dev.raisePriv_hbcs (d : Dev) (core src : Nat) : (d.raisePriv core src).hbcs = d.hbcs := by obtain ⟨r, h⟩ := d.raisePriv_frame core src; rw [h]
@[simp] theorem Dev.raisePriv_poison (d : Dev) (core src : Nat) : (d.raisePriv core src).poison = d.poison := by obtain ⟨r, h⟩ := d.raisePriv_frame core src; rw [h]
@[simp] theorem Dev.raisePriv_net (d : Dev) (core src : Nat) : (d.raisePriv core src).net = d.net := by obtain ⟨r, h⟩ := d.raisePriv_frame core src; rw [h]
@[simp] theorem Dev.raisePriv_dma (d : Dev) (core src : Nat) : (d.raisePriv core src).dma = d.dma := by obtain ⟨r, h⟩ := d.raisePriv_frame core src; rw [h]
@[simp] theorem Dev.raisePriv_herd (d : Dev) (core src : Nat) : (d.raisePriv core src).herd = d.herd := by obtain ⟨r, h⟩ := d.raisePriv_frame core src; rw [h]
@[simp] theorem Dev.raisePriv_wdgs (d : Dev) (core src : Nat) : (d.raisePriv core src).wdgs = d.wdgs := by obtain ⟨r, h⟩ := d.raisePriv_frame core src; rw [h]
@[simp] theorem Dev.raisePriv_bgs (d : Dev) (core src : Nat) : (d.raisePriv core src).bgs = d.bgs := by obtain ⟨r, h⟩ := d.raisePriv_frame core src; rw [h]
@[simp] theorem Dev.raisePriv_clks (d : Dev) (core src : Nat) : (d.raisePriv core src).clks = d.clks := by obtain ⟨r, h⟩ := d.raisePriv_frame core src; rw [h]
@[simp] theorem Dev.raisePriv_antWaits (d : Dev) (core src : Nat) : (d.raisePriv core src).antWaits = d.antWaits := by obtain ⟨r, h⟩ := d.raisePriv_frame core src; rw [h]
@[simp] theorem Dev.raisePriv_sec (d : Dev) (core src : Nat) : (d.raisePriv core src).sec = d.sec := by obtain ⟨r, h⟩ := d.raisePriv_frame core src; rw [h]

end Sys2Proof.Machine
end

