-- ==== Sys2Proof/Laws/Store.lean ====
section
/-! SUPPORT. Laws of the sparse stores: a read after a write, writes to other keys, and the canonical form. -/

namespace Sys2Proof.Machine

variable {α : Type}

theorem storeFind_ins (k j : Nat) (v : α) (m : List (Nat × α)) :
    storeFind (storeIns k v m) j = if k = j then some v else storeFind m j := by
  induction m with
  | nil => simp only [storeIns, storeFind]
  | cons e r ih =>
    obtain ⟨i, x⟩ := e
    simp only [storeIns]
    split
    · simp only [storeFind]
    · split
      · subst_vars; simp only [storeFind]; split <;> rfl
      · simp only [storeFind, ih]
        split <;> split <;> simp_all

theorem storeFind_filter (p : Nat → Bool) (j : Nat) (m : List (Nat × α)) :
    storeFind (m.filter (fun e => p e.1)) j = if p j then storeFind m j else none := by
  induction m with
  | nil => simp [storeFind]
  | cons e r ih =>
    obtain ⟨i, x⟩ := e
    simp only [List.filter_cons]
    split
    · simp only [storeFind, ih]; split <;> simp_all
    · simp only [storeFind, ih]
      by_cases h : i = j
      · subst h; simp_all
      · simp [h]

theorem storeFind_del (k j : Nat) (m : List (Nat × α)) : storeFind (storeDel k m) j = if k = j then none else storeFind m j := by
  rw [storeDel, storeFind_filter (fun i => i != k)]
  by_cases h : k = j
  · subst h; simp
  · simp [h, Ne.symm h]

variable [DecidableEq α]

theorem storeGet_set (d : Nat → α) (m : List (Nat × α)) (k j : Nat) (v : α) :
    storeGet d (storeSet d m k v) j = if k = j then v else storeGet d m j := by
  unfold storeGet storeSet
  split
  · rw [storeFind_del]; split
    · subst_vars; rfl
    · rfl
  · rw [storeFind_ins]; split <;> rfl

@[simp] theorem storeGet_set_self (d : Nat → α) (m : List (Nat × α)) (k : Nat) (v : α) :
    storeGet d (storeSet d m k v) k = v := by simp [storeGet_set]

theorem storeGet_set_ne (d : Nat → α) (m : List (Nat × α)) {k j : Nat} (v : α) (h : k ≠ j) :
    storeGet d (storeSet d m k v) j = storeGet d m j := by simp [storeGet_set, h]

omit [DecidableEq α] in
theorem storeGet_drop (d : Nat → α) (p : Nat → Bool) (m : List (Nat × α)) (j : Nat) :
    storeGet d (storeDrop p m) j = if p j then d j else storeGet d m j := by
  unfold storeGet storeDrop
  rw [storeFind_filter (fun i => !p i)]
  cases p j <;> simp

omit [DecidableEq α] in
theorem mem_storeIns {k : Nat} {v : α} {m : List (Nat × α)} {e : Nat × α} (h : e ∈ storeIns k v m) : e = (k, v) ∨ e ∈ m := by
  induction m with
  | nil => simpa [storeIns] using h
  | cons x r ih =>
    obtain ⟨i, y⟩ := x
    simp only [storeIns] at h
    split at h
    · simpa using h
    · split at h
      · rcases List.mem_cons.1 h with h | h <;> simp [h]
      · rcases List.mem_cons.1 h with h | h
        · simp [h]
        · rcases ih h with h | h <;> simp [h]

omit [DecidableEq α] in
theorem storeIns_sorted {k : Nat} {v : α} {m : List (Nat × α)} (h : m.Pairwise (fun a b => a.1 < b.1)) :
    (storeIns k v m).Pairwise (fun a b => a.1 < b.1) := by
  induction m with
  | nil => simp [storeIns]
  | cons x r ih =>
    obtain ⟨i, y⟩ := x
    rw [List.pairwise_cons] at h
    simp only [storeIns]
    split
    · rename_i hk
      refine List.pairwise_cons.2 ⟨?_, List.pairwise_cons.2 h⟩
      intro e he
      rcases List.mem_cons.1 he with rfl | he
      · exact hk
      · exact Nat.lt_trans hk (h.1 e he)
    · split
      · subst_vars; exact List.pairwise_cons.2 h
      · refine List.pairwise_cons.2 ⟨?_, ih h.2⟩
        intro e he
        rcases mem_storeIns he with rfl | he
        · show i < k
          omega
        · exact h.1 e he

/-- A write keeps the canonical form. -/
theorem storeSet_wf {d : Nat → α} {m : List (Nat × α)} (k : Nat) (v : α) (h : storeWf d m) : storeWf d (storeSet d m k v) := by
  unfold storeSet
  split
  · exact ⟨h.1.filter _, fun e he => h.2 e (List.mem_filter.1 he).1⟩
  · refine ⟨storeIns_sorted h.1, fun e he => ?_⟩
    rcases mem_storeIns he with rfl | he
    · assumption
    · exact h.2 e he

omit [DecidableEq α] in
/-- Dropping keys keeps the canonical form. -/
theorem storeDrop_wf {d : Nat → α} {m : List (Nat × α)} (p : Nat → Bool) (h : storeWf d m) : storeWf d (storeDrop p m) :=
  ⟨h.1.filter _, fun e he => h.2 e (List.mem_filter.1 he).1⟩

omit [DecidableEq α] in
/-- Two canonical stores that read alike everywhere are the same data. -/
theorem storeWf_ext {d : Nat → α} {m n : List (Nat × α)} (hm : storeWf d m) (hn : storeWf d n)
    (h : ∀ k, storeGet d m k = storeGet d n k) : m = n := by
  have low : ∀ (l : List (Nat × α)) (k : Nat), (∀ e ∈ l, k < e.1) → storeFind l k = none := by
    intro l k hl
    induction l with
    | nil => rfl
    | cons e r ih =>
      have := hl e (by simp)
      simp only [storeFind]
      rw [if_neg (by omega)]
      exact ih (fun x hx => hl x (by simp [hx]))
  induction m generalizing n with
  | nil =>
    cases n with
    | nil => rfl
    | cons e r =>
      have := h e.1
      have h2 := hn.2 e (by simp)
      simp [storeGet, storeFind] at this
      exact absurd this.symm h2
  | cons e r ih =>
    cases n with
    | nil =>
      have := h e.1
      have h2 := hm.2 e (by simp)
      simp [storeGet, storeFind] at this
      exact absurd this h2
    | cons f q =>
      have hm' : storeWf d r := ⟨(List.pairwise_cons.1 hm.1).2, fun x hx => hm.2 x (by simp [hx])⟩
      have hn' : storeWf d q := ⟨(List.pairwise_cons.1 hn.1).2, fun x hx => hn.2 x (by simp [hx])⟩
      have hr := (List.pairwise_cons.1 hm.1).1
      have hq := (List.pairwise_cons.1 hn.1).1
      have key : e.1 = f.1 := by
        rcases Nat.lt_trichotomy e.1 f.1 with hlt | heq | hgt
        · exfalso
          have h1 := h e.1
          have h2 := hm.2 e (by simp)
          have : storeFind (f :: q) e.1 = none := low _ _ (by
            intro x hx; rcases List.mem_cons.1 hx with rfl | hx
            · exact hlt
            · exact Nat.lt_trans hlt (hq x hx))
          unfold storeGet at h1; rw [this] at h1; simp [storeFind] at h1
          exact h2 h1
        · exact heq
        · exfalso
          have h1 := h f.1
          have h2 := hn.2 f (by simp)
          have : storeFind (e :: r) f.1 = none := low _ _ (by
            intro x hx; rcases List.mem_cons.1 hx with rfl | hx
            · exact hgt
            · exact Nat.lt_trans hgt (hr x hx))
          unfold storeGet at h1; rw [this] at h1; simp [storeFind] at h1
          exact h2 h1.symm
      have val : e.2 = f.2 := by
        have h1 := h e.1
        simp [storeGet, storeFind, key] at h1
        exact h1
      have hef : e = f := Prod.ext key val
      subst hef
      congr 1
      refine ih hm' hn' (fun k => ?_)
      by_cases hk : e.1 = k
      · subst hk
        simp [storeGet, low r e.1 hr, low q e.1 hq]
      · have := h k
        simpa [storeGet, storeFind, hk] using this

end Sys2Proof.Machine
end

