-- ==== Sys2Proof/Laws/Ops.lean ====
section
/-! SUPPORT. Laws of the shared operations: register fields, events and interrupts, the memories, and what a command's outcome is. -/

namespace Sys2Proof.Machine

/-! Register words and fields. -/

theorem Dev.word_setWord (d : Dev) (k j : Nat) (w : Word) : (d.setWord k w).word j = if k = j then w else d.word j :=
  storeGet_set regReset d.regs k j w

@[simp] theorem Dev.word_setWord_self (d : Dev) (k : Nat) (w : Word) : (d.setWord k w).word k = w := by simp [Dev.word_setWord]

theorem Dev.word_setWord_ne (d : Dev) {k j : Nat} (w : Word) (h : k ≠ j) : (d.setWord k w).word j = d.word j := by
  simp [Dev.word_setWord, h]

/-- The word of a register depends on the register store alone. -/
theorem Dev.word_congr {d e : Dev} (h : d.regs = e.regs) (k : Nat) : d.word k = e.word k := by unfold Dev.word; rw [h]

theorem Dev.rd_congr {d e : Dev} (h : d.regs = e.regs) (f : Field) : d.rd f = e.rd f := by
  unfold Dev.rd Dev.pair; rw [Dev.word_congr h, Dev.word_congr h]

theorem Dev.wr_narrow (d : Dev) (f : Field) (v : Nat) (h : f.wide = false) :
    d.wr f v = d.setWord f.base (bitsPut (d.word f.base) f.lsb f.width v) := by unfold Dev.wr; simp [h]

/-- A write of a field touches its word, and of a wide field the word after it, and no other. -/
theorem Dev.word_wr_ne (d : Dev) (f : Field) (v : Nat) {k : Nat} (h : f.base ≠ k) (h' : f.wide = true → f.base + 4 ≠ k) :
    (d.wr f v).word k = d.word k := by
  unfold Dev.wr
  split
  · rename_i hw
    simp only
    rw [Dev.word_setWord_ne _ _ (h' hw), Dev.word_setWord_ne _ _ h]
  · exact Dev.word_setWord_ne _ _ h

/-- A field reads what was written, modulo 2^width. -/
theorem Dev.rd_wr_self (d : Dev) (f : Field) (v : Nat) (hw : f.wide = false) (h : f.lsb + f.width ≤ 32) :
    (d.wr f v).rd f = v % 2 ^ f.width := by
  rw [Dev.wr_narrow _ _ _ hw]; unfold Dev.rd; simp [hw, h]

/-- A field's value fits its width. -/
theorem Dev.rd_lt (d : Dev) (f : Field) : d.rd f < 2 ^ f.width := by
  unfold Dev.rd; split
  · exact Nat.mod_lt _ (by positivity)
  · exact bitsOf_lt _ _ _

/-- A field in another word keeps its value. -/
theorem Dev.rd_wr_word (d : Dev) (f g : Field) (v : Nat) (hf : f.wide = false) (hg : g.wide = false) (h : f.base ≠ g.base) :
    (d.wr f v).rd g = d.rd g := by
  unfold Dev.rd; simp only [hg, Bool.false_eq_true, if_false]
  rw [Dev.word_wr_ne _ _ _ h (by simp [hf])]

/-- A field beside it in the same word keeps its value. -/
theorem Dev.rd_wr_beside (d : Dev) (f g : Field) (v : Nat) (hf : f.wide = false) (hg : g.wide = false) (h : f.base = g.base)
    (hl : f.lsb + f.width ≤ 32) (hd : f.lsb + f.width ≤ g.lsb ∨ g.lsb + g.width ≤ f.lsb) : (d.wr f v).rd g = d.rd g := by
  rw [Dev.wr_narrow _ _ _ hf]; unfold Dev.rd; simp only [hg, Bool.false_eq_true, if_false]
  rw [← h, Dev.word_setWord_self, bitsOf_bitsPut_ne _ _ _ _ _ _ hl hd]

/-- A one-bit field set to 1 is 1. -/
theorem Dev.bit_wr_one (d : Dev) (f : Field) (hw : f.wide = false) (h1 : f.width = 1) (h : f.lsb + f.width ≤ 32) :
    (d.wr f 1).bit f = true := by unfold Dev.bit; rw [Dev.rd_wr_self _ _ _ hw h, h1]; rfl

/-- A one-bit field set to 0 is 0. -/
theorem Dev.bit_wr_zero (d : Dev) (f : Field) (hw : f.wide = false) (h : f.lsb + f.width ≤ 32) : (d.wr f 0).bit f = false := by
  unfold Dev.bit; rw [Dev.rd_wr_self _ _ _ hw h]; simp

@[simp] theorem Dev.word_send (d : Dev) (o : Output) (k : Nat) : (d.send o).word k = d.word k := (rfl)
@[simp] theorem Dev.word_store (d : Dev) (m : MemId) (a k : Nat) (bs : List Byte) : (d.store m a bs).word k = d.word k := (rfl)
@[simp] theorem Dev.word_upCh (d : Dev) (c k : Nat) (f : Chan → Chan) : (d.upCh c f).word k = d.word k := (rfl)
@[simp] theorem Dev.word_upPx (d : Dev) (e k : Nat) (f : Pxe → Pxe) : (d.upPx e f).word k = d.word k := (rfl)
@[simp] theorem Dev.word_upEn (d : Dev) (e k : Nat) (f : Ene → Ene) : (d.upEn e f).word k = d.word k := (rfl)
@[simp] theorem Dev.word_upNet (d : Dev) (k : Nat) (f : Net → Net) : (d.upNet f).word k = d.word k := (rfl)
@[simp] theorem Dev.word_upSec (d : Dev) (k : Nat) (f : Sec → Sec) : (d.upSec f).word k = d.word k := (rfl)

/-! Interrupts: which words an event can touch. -/

theorem pageFind_inst {a : Nat} {l : List (Nat × Nat × Pg)} {p : Pg} {i : Nat} (h : pageFind a l = some (p, i)) :
    ∃ e ∈ l, i < e.2.1 := by
  induction l with
  | nil => simp [pageFind] at h
  | cons e r ih =>
    obtain ⟨b, n, q⟩ := e
    simp only [pageFind] at h
    split at h
    · rename_i hb
      simp only [Option.some.injEq, Prod.mk.injEq] at h
      refine ⟨(b, n, q), by simp, ?_⟩
      show i < n
      rw [← h.2]; exact Nat.div_lt_of_lt_mul (by omega)
    · obtain ⟨e, he, hi⟩ := ih h
      exact ⟨e, by simp [he], hi⟩

/-- A page has at most 256 instances. -/
theorem pageOf_inst {a : Nat} {p : Pg} {i : Nat} (h : pageOf a = some (p, i)) : i < 256 := by
  obtain ⟨e, he, hi⟩ := pageFind_inst h
  have : ∀ e ∈ pageMap, e.2.1 ≤ 256 := by decide
  have := this e he
  omega

theorem pageSource_lt {page s : Nat} (h : pageSource page = some s) : s < 1024 := by
  unfold pageSource at h
  cases hp : pageOf page with
  | none => rw [hp] at h; simp at h
  | some e =>
    obtain ⟨p, i⟩ := e
    have hi := pageOf_inst hp
    rw [hp] at h
    cases p <;> simp only [Option.some.injEq, reduceCtorEq] at h <;> omega

theorem Dev.routeKind_lt (d : Dev) (s : Nat) : d.routeKind s ≤ 5 := by unfold Dev.routeKind; simp only; split <;> omega

theorem Dev.message_word (d : Dev) (v k : Nat) : (d.message v).word k = d.word k := by
  obtain ⟨p, o, h⟩ := d.message_frame v; rw [h]; rfl

theorem Dev.toCore_word (d : Dev) (s core k : Nat) (hs : s < 1024) (hc : core < 4) (hk : ¬ evtWord k) :
    (d.toCore s core).1.word k = d.word k := by
  unfold evtWord at hk
  unfold Dev.toCore
  split
  · rfl
  · refine Dev.word_wr_ne _ _ _ ?_ (by simp [HCC_STS.STATE, Field.on])
    simp only [HCC_STS.STATE, Field.on]; omega
  · refine Dev.word_wr_ne _ _ _ ?_ (by simp [strandedBit])
    simp only [strandedBit]; omega

theorem Dev.deliverOnce_word (d : Dev) (s k : Nat) (hs : s < 1024) (hk : ¬ evtWord k) : (d.deliverOnce s).1.word k = d.word k := by
  unfold Dev.deliverOnce
  simp only
  split
  · exact Dev.toCore_word _ _ _ _ hs (by omega) hk
  · split
    · rfl
    · exact Dev.message_word _ _ _

theorem Dev.pendOnce_word (d : Dev) (s k : Nat) (hs : s < 1024) (hk : ¬ evtWord k) : (d.pendOnce s).1.word k = d.word k := by
  have h1 : (d.wr (pendBit s) 1).word k = d.word k := by
    refine Dev.word_wr_ne _ _ _ ?_ (by simp [pendBit])
    unfold evtWord at hk; simp only [pendBit]; omega
  unfold Dev.pendOnce
  simp only
  split
  · rw [Dev.deliverOnce_word _ _ _ hs hk, h1]
  · exact h1

theorem Dev.strandedEvent_word (d : Dev) (k : Nat) (hk : ¬ evtWord k) : d.strandedEvent.word k = d.word k := by
  have h1 : (d.wr INT0_EVT.STRANDED 1).word k = d.word k := by
    refine Dev.word_wr_ne _ _ _ ?_ (by simp [INT0_EVT.STRANDED])
    unfold evtWord at hk; simp only [INT0_EVT.STRANDED]; omega
  unfold Dev.strandedEvent
  simp only
  split
  · rw [Dev.pendOnce_word _ _ _ (by omega) hk, h1]
  · exact h1

theorem Dev.raise_word (d : Dev) (s k : Nat) (hs : s < 1024) (hk : ¬ evtWord k) : (d.raise s).word k = d.word k := by
  unfold Dev.raise
  simp only
  split
  · rw [Dev.strandedEvent_word _ _ hk, Dev.pendOnce_word _ _ _ hs hk]
  · exact Dev.pendOnce_word _ _ _ hs hk

theorem Dev.deliver_word (d : Dev) (s k : Nat) (hs : s < 1024) (hk : ¬ evtWord k) : (d.deliver s).word k = d.word k := by
  unfold Dev.deliver
  simp only
  split
  · rw [Dev.strandedEvent_word _ _ hk, Dev.deliverOnce_word _ _ _ hs hk]
  · exact Dev.deliverOnce_word _ _ _ hs hk

theorem Dev.sample_word (d : Dev) (page k : Nat) (hk : ¬ evtWord k) : (d.sample page).word k = d.word k := by
  unfold Dev.sample
  split
  · rename_i s hs
    split
    · exact Dev.raise_word _ _ _ (pageSource_lt hs) hk
    · rfl
  · rfl

/-- An event touches its own word and those of `evtWord`, no other. -/
theorem Dev.event_word (d : Dev) (f : Field) (k : Nat) (hf : f.wide = false) (h : f.base ≠ k) (hk : ¬ evtWord k) :
    (d.event f).word k = d.word k := by
  unfold Dev.event
  rw [Dev.sample_word _ _ _ hk, Dev.word_wr_ne _ _ _ h (by simp [hf])]

theorem Dev.event_word_self (d : Dev) (f : Field) (hk : ¬ evtWord f.base) : (d.event f).word f.base = (d.wr f 1).word f.base := by
  unfold Dev.event; rw [Dev.sample_word _ _ _ hk]

/-- An event's own bit reads 1. -/
theorem Dev.event_bit (d : Dev) (f : Field) (hf : f.wide = false) (h1 : f.width = 1) (hl : f.lsb + f.width ≤ 32) (hk : ¬ evtWord f.base) :
    (d.event f).bit f = true := by
  have : (d.event f).bit f = (d.wr f 1).bit f := by
    unfold Dev.bit Dev.rd; simp only [hf, Bool.false_eq_true, if_false]; rw [Dev.event_word_self _ _ hk]
  rw [this]; exact Dev.bit_wr_one _ _ hf h1 hl

/-- A field of another word keeps its value through an event. -/
theorem Dev.event_rd (d : Dev) (f g : Field) (hf : f.wide = false) (hg : g.wide = false) (h : f.base ≠ g.base) (hk : ¬ evtWord g.base) :
    (d.event f).rd g = d.rd g := by
  unfold Dev.rd; simp only [hg, Bool.false_eq_true, if_false]; rw [Dev.event_word _ _ _ hf h hk]

/-! The memories. -/

theorem memOpTo_wf {m : MemId} {cells : List Host.Cell} (o : MemOp) (h : memWf m cells) : memWf m (memOpTo m cells o) := by
  cases o with
  | bytes k a bs =>
    simp only [memOpTo]
    split
    · have : ∀ (l : List (Nat × Byte)) (c : List Host.Cell), memWf m c →
          memWf m (l.foldl (fun c e => storeSet (memDefault m) c (a + e.1) e.2) c) := by
        intro l
        induction l with
        | nil => intro c hc; exact hc
        | cons e r ih => intro c hc; exact ih _ (storeSet_wf _ _ hc)
      exact this _ _ h
    · exact h
  | clear k a n =>
    simp only [memOpTo]
    split
    · exact storeDrop_wf _ h
    · exact h

/-- What a byte reads as after a run of bytes is written. -/
theorem foldl_storeSet_get (m : MemId) (a x : Nat) (bs : List Byte) (c : List Host.Cell) :
    storeGet (memDefault m) (((List.range bs.length).zip bs).foldl (fun c e => storeSet (memDefault m) c (a + e.1) e.2) c) x =
      if h : a ≤ x ∧ x < a + bs.length then bs[x - a] else storeGet (memDefault m) c x := by
  induction bs using List.reverseRecOn with
  | nil => simp
  | append_singleton bs b ih =>
    have hz : (List.range (bs ++ [b]).length).zip (bs ++ [b]) = (List.range bs.length).zip bs ++ [(bs.length, b)] := by
      rw [List.length_append, List.length_singleton, List.range_succ, List.zip_append (by simp)]; rfl
    rw [hz, List.foldl_append]
    simp only [List.foldl_cons, List.foldl_nil]
    rw [storeGet_set, ih]
    by_cases hx : a + bs.length = x
    · subst hx; simp
    · rw [if_neg hx]
      by_cases h : a ≤ x ∧ x < a + bs.length
      · rw [dif_pos h, dif_pos (by simp; omega), List.getElem_append_left]
      · rw [dif_neg h, dif_neg (by simp; omega)]

/-- A write of `bs` at `a` stores its bytes there and no byte elsewhere. -/
theorem memOpTo_bytes_get (m : MemId) (a x : Nat) (bs : List Byte) (c : List Host.Cell) :
    storeGet (memDefault m) (memOpTo m c (.bytes m a bs)) x =
      if h : a ≤ x ∧ x < a + bs.length then bs[x - a] else storeGet (memDefault m) c x := by
  simp only [memOpTo, if_true]; exact foldl_storeSet_get m a x bs c

theorem Mem.apply_one (mem : Mem) (o : MemOp) :
    mem.apply [o] = { hbm := memOpTo .hbm mem.hbm o, sram := memOpTo .sram mem.sram o, nor := memOpTo .nor mem.nor o } := by simp [Mem.apply]

theorem memOps_wf {m : MemId} {cells : List Host.Cell} (ops : List MemOp) (h : memWf m cells) : memWf m (ops.foldl (memOpTo m) cells) := by
  induction ops generalizing cells with
  | nil => exact h
  | cons o r ih => exact ih (memOpTo_wf o h)

/-- Posted writes keep the memories in canonical form. -/
theorem Mem.apply_wf {mem : Mem} (ops : List MemOp) (h : mem.wf) : (mem.apply ops).wf :=
  ⟨memOps_wf ops h.1, memOps_wf ops h.2.1, memOps_wf ops h.2.2⟩

@[simp] theorem Mem.apply_nil (mem : Mem) : mem.apply [] = mem := rfl

theorem State.act_wf {s : State} (f : Env → Dev → Dev) (h : s.mem.wf) : (s.act f).mem.wf := Mem.apply_wf _ h

/-! Outcomes. -/

/-- A command whose effect posts nothing to the memories changes the device alone. -/
theorem State.act_quiet (s : State) (f : Env → Dev → Dev) (h : (f ⟨s.now, s.mem⟩ s.dev).posted = []) :
    s.act f = { s with dev := f ⟨s.now, s.mem⟩ s.dev } := by
  unfold State.act
  simp only [h, Mem.apply_nil]
  congr 1
  have : (f ⟨s.now, s.mem⟩ s.dev).poison.filter (fun a => !([] : List MemOp).any (memOpHeals a)) = (f ⟨s.now, s.mem⟩ s.dev).poison := by
    simp
  rw [this, ← h]

/-- Outside a reset a command acts. -/
theorem State.run_on (s : State) (f : Env → Dev → Dev) (h : s.dev.sec.rst = 0) : s.run f = .next (s.act f) := by simp [State.run, h]

/-- Outside a reset, a command that posts nothing to the memories leaves all but the device as it was. -/
theorem State.run_quiet (s : State) (f : Env → Dev → Dev) (h : s.dev.sec.rst = 0) (hp : (f ⟨s.now, s.mem⟩ s.dev).posted = []) :
    s.run f = .next { s with dev := f ⟨s.now, s.mem⟩ s.dev } := by rw [s.run_on f h, s.act_quiet f hp]

/-- In a reset it does nothing. -/
theorem State.run_off (s : State) (f : Env → Dev → Dev) (h : s.dev.sec.rst ≠ 0) : s.run f = .next s := by simp [State.run, h]

end Sys2Proof.Machine
end

