-- ==== Sys2Proof/Laws/Outcome.lean ====
section
/-! SUPPORT. What a command answers out of a reset: the device its effect gives, with what that posted to the memories carried out. -/

namespace Sys2Proof.Machine

theorem State.act_eq_after (s : State) (f : Env → Dev → Dev) : s.act f = s.after (f s.env s.dev) := (rfl)

/-- Out of reset a command answers its effect on the device. -/
theorem State.Ready.run {s : State} {d : Dev} (h : s.Ready d) (f : Env → Dev → Dev) : s.run f = .next (s.after (f s.env d)) := by
  obtain ⟨rfl, hr, _⟩ := h
  simp [State.run, hr, State.act_eq_after]

/-- And so does a read. -/
theorem State.Ready.runRead {s : State} {d : Dev} (h : s.Ready d) (n : Nat) (f : Env → Dev → Dev) :
    s.runRead n f = .next (s.after (f s.env d)) := by
  have hr := h.rst
  rw [← h.dev] at hr
  simp only [State.runRead, hr, if_false, OfNat.zero_ne_ofNat]
  exact h.run f

/-- And so does a command that a device reset leaves alone. -/
theorem State.Ready.runLink {s : State} {d : Dev} (h : s.Ready d) (f : Env → Dev → Dev) :
    s.runLink f = .next (s.after (f s.env d)) := by
  have hr := h.rst
  rw [← h.dev] at hr
  unfold State.runLink
  rw [if_neg (by omega), State.act_eq_after, h.dev]

/-- A device that posts nothing to the memories leaves them. -/
@[simp] theorem State.after_quiet (s : State) {d : Dev} (h : d.posted = []) : s.after d = s.withDev d := by
  rw [← State.act_eq_after s (fun _ _ => d), State.act_quiet _ _ h]; rfl

theorem State.Ready.withDev_self {s : State} {d : Dev} (h : s.Ready d) : s.withDev d = s := by
  obtain ⟨rfl, _, _⟩ := h; rfl

theorem State.Ready.after_self {s : State} {d : Dev} (h : s.Ready d) : s.after d = s := by
  rw [State.after_quiet _ h.posted, h.withDev_self]

@[simp] theorem State.withDev_dev (s : State) (d : Dev) : (s.withDev d).dev = d := (rfl)
@[simp] theorem State.withDev_mem (s : State) (d : Dev) : (s.withDev d).mem = s.mem := (rfl)
@[simp] theorem State.withDev_time (s : State) (d : Dev) : (s.withDev d).time = s.time := (rfl)
@[simp] theorem State.withDev_pending (s : State) (d : Dev) : (s.withDev d).pending = s.pending := (rfl)
@[simp] theorem State.after_time (s : State) (d : Dev) : (s.after d).time = s.time := (rfl)
@[simp] theorem State.after_pending (s : State) (d : Dev) : (s.after d).pending = s.pending := (rfl)
@[simp] theorem State.after_posted (s : State) (d : Dev) : (s.after d).dev.posted = [] := (rfl)
@[simp] theorem State.env_now (s : State) : s.env.now = s.now := (rfl)
@[simp] theorem State.env_mem (s : State) : s.env.mem = s.mem := (rfl)

end Sys2Proof.Machine
end

