-- ==== Sys2Proof/Laws/Exec.lean ====
section
/-! SUPPORT. What a command can do to the machine as a whole, said once: leave it as it is, act on the device with the memory writes that
posts, or, of six commands, something beside. -/

namespace Sys2Proof.Machine

/-- The commands that do more than act on the device, or that may stop. -/
def Special : Instr → Prop
  | .timeLoad | .timeStep | .synthesiserRelock _ | .porstAssert | .deviceReset _ _ | .refclkLoss _ => True
  | _ => False

/-- A command that leaves the machine as it is, or acts on its device. -/
def Acts (o : Host.Outcome State Fault Refusal) (s : State) : Prop := o = .next s ∨ ∃ f, o = .next (s.act f)

theorem acts_run (s : State) (f : Env → Dev → Dev) : Acts (s.run f) s := by
  unfold State.run; split
  · exact .inr ⟨f, rfl⟩
  · exact .inl rfl

theorem acts_runRead (s : State) (n : Nat) (f : Env → Dev → Dev) : Acts (s.runRead n f) s := by
  unfold State.runRead; split
  · exact .inr ⟨_, rfl⟩
  · exact acts_run s f

theorem acts_runLink (s : State) (f : Env → Dev → Dev) : Acts (s.runLink f) s := by
  unfold State.runLink; split
  · exact .inl rfl
  · exact .inr ⟨f, rfl⟩

theorem acts_next (s : State) (f : Env → Dev → Dev) : Acts (.next (s.act f)) s := .inr ⟨f, rfl⟩

theorem acts_holeAccess (w : Bool) (off : Nat) (s : State) : Acts (execHoleAccess w off s) s := by
  unfold execHoleAccess; split
  · exact acts_run _ _
  · exact acts_runRead _ _ _

theorem acts_oversizeHostAccess (w : Bool) (off : Nat) (s : State) : Acts (execOversizeHostAccess w off s) s := by
  unfold execOversizeHostAccess; split
  · exact acts_run _ _
  · exact acts_runRead _ _ _

theorem acts_porstRelease (g : Fin 16) (s : State) : Acts (execPorstRelease g s) s := by
  unfold execPorstRelease; split
  · exact .inr ⟨_, rfl⟩
  · exact .inl rfl

theorem acts_deviceResetRelease (s : State) : Acts (execDeviceResetRelease s) s := by
  unfold execDeviceResetRelease; split
  · exact .inr ⟨_, rfl⟩
  · exact .inl rfl

/-- Every other command leaves the machine as it is or acts on its device. -/
theorem exec_acts (c : Instr) (s : State) (h : ¬ Special c) : Acts (exec c s) s := by
  cases c
  case timeLoad | timeStep | synthesiserRelock | porstAssert | deviceReset | refclkLoss => exact absurd trivial h
  case holeAccess => exact acts_holeAccess _ _ _
  case oversizeHostAccess => exact acts_oversizeHostAccess _ _ _
  case porstRelease => exact acts_porstRelease _ _
  case deviceResetRelease => exact acts_deviceResetRelease _
  case perstAssert | perstRelease | extest => exact acts_next _ _
  case flr | pcieLinkUp | pcieConfigWrite => exact acts_runLink _ _
  case reg64LowRead | uartRxRead => exact acts_runRead _ _ _
  all_goals exact acts_run _ _

/-- A device reset is taken whole or not at all. -/
theorem exec_deviceReset_cases (rq : Requester) (key : Fin 65536) (s : State) : exec (.deviceReset rq key) s = .next s ∨
    ∃ cause, exec (.deviceReset rq key) s = .next { s with time := 0, dev := s.dev.deviceReset cause } := by
  have h : ∀ cause, (if s.dev.sec.rst ≠ 0 ∨ key.val ≠ 0xD0E5 ∨ cause = 0 then Host.Outcome.next s
      else .next { s with time := 0, dev := s.dev.deviceReset cause } : Host.Outcome State Fault Refusal) = .next s ∨
      ∃ c, (if s.dev.sec.rst ≠ 0 ∨ key.val ≠ 0xD0E5 ∨ cause = 0 then Host.Outcome.next s
        else .next { s with time := 0, dev := s.dev.deviceReset cause } : Host.Outcome State Fault Refusal) =
          .next { s with time := 0, dev := s.dev.deviceReset c } := by
    intro cause
    by_cases hc : s.dev.sec.rst ≠ 0 ∨ key.val ≠ 0xD0E5 ∨ cause = 0
    · rw [if_pos hc]; exact .inl rfl
    · rw [if_neg hc]; exact .inr ⟨cause, rfl⟩
  exact h _

/-! Resets of the device leave no write posted. -/

@[simp] theorem Dev.afterReset_posted (d : Dev) (rst : Nat) : (d.afterReset rst).posted = [] := by
  simp only [Dev.afterReset, Dev.releasePins]
  split <;> split <;> rfl

@[simp] theorem Dev.deviceReset_posted (d : Dev) (cause : Nat) : (d.deviceReset cause).posted = [] := by
  simp [Dev.deviceReset]

end Sys2Proof.Machine
end

