-- ==== Sys2Proof/Laws/Posted.lean ====
section
/-! SUPPORT. The shared operations that write no memory: they leave what is posted to the memories as it is. -/

namespace Sys2Proof.Machine

@[simp] theorem Dev.recordAccess_posted (d : Dev) (a b : Bool) (o : Nat) : (d.recordAccess a b o).posted = d.posted := by
  simp only [Dev.recordAccess]; split <;> split <;> split <;> simp
@[simp] theorem Dev.ignored_posted (d : Dev) (a b : Nat) : (d.ignored a b).posted = d.posted := by
  simp only [Dev.ignored]; split <;> simp

theorem foldl_posted {α : Type} (l : List α) (f : Dev → α → Dev) (h : ∀ d a, (f d a).posted = d.posted) (d : Dev) :
    (l.foldl f d).posted = d.posted := by
  induction l generalizing d with
  | nil => rfl
  | cons a r ih => rw [List.foldl_cons, ih, h]

@[simp] theorem Dev.pend_posted (d : Dev) (f : Field) (v : Nat) :
    (d.pend f v).posted = d.posted := (rfl)
@[simp] theorem Dev.resetPage_posted (d : Dev) (page : Nat) :
    (d.resetPage page).posted = d.posted := (rfl)
@[simp] theorem Dev.message_posted (d : Dev) (v : Nat) :
    (d.message v).posted = d.posted := by unfold Dev.message; split <;> simp
@[simp] theorem Dev.sampleSource_posted (d : Dev) (s : Nat) :
    (d.sampleSource s).posted = d.posted := by unfold Dev.sampleSource; split <;> simp
@[simp] theorem Dev.setCh_posted (d : Dev) (c : Nat) (x : Chan) :
    (d.setCh c x).posted = d.posted := (rfl)
@[simp] theorem Dev.setPx_posted (d : Dev) (e : Nat) (x : Pxe) :
    (d.setPx e x).posted = d.posted := (rfl)
@[simp] theorem Dev.setEn_posted (d : Dev) (e : Nat) (x : Ene) :
    (d.setEn e x).posted = d.posted := (rfl)
@[simp] theorem Dev.quarantine_posted (d : Dev) (e : Nat) :
    (d.quarantine e).posted = d.posted := by unfold Dev.quarantine; simp
@[simp] theorem Dev.antResume_posted (d : Dev) (dom : Nat) :
    (d.antResume dom).posted = d.posted := by unfold Dev.antResume; split <;> simp
@[simp] theorem Dev.setJobs_posted (d : Dev) (l : List Job) :
    (d.setJobs l).posted = d.posted := (rfl)
@[simp] theorem Dev.addJob_posted (d : Dev) (j : Job) :
    (d.addJob j).posted = d.posted := by unfold Dev.addJob; split <;> simp
@[simp] theorem Dev.dropJob_posted (d : Dev) (j : Job) :
    (d.dropJob j).posted = d.posted := (rfl)
@[simp] theorem Dev.bind_posted (d : Dev) (c e : Nat) (move : Bool) :
    (d.bind c e move).posted = d.posted := by unfold Dev.bind; split <;> simp
@[simp] theorem Dev.addEntropy_posted (d : Dev) (j : EntJob) :
    (d.addEntropy j).posted = d.posted := by simp only [Dev.addEntropy]; repeat' split <;> simp [*]
@[simp] theorem Dev.cancelMoves_posted (d : Dev) (p : Nat → Nat → Bool) : (d.cancelMoves p).posted = d.posted := by
  unfold Dev.cancelMoves Dev.forEach
  refine foldl_posted _ _ (fun d e => ?_) d
  dsimp only; split <;> simp
@[simp] theorem Dev.unbind_posted (d : Dev) (c : Nat) :
    (d.unbind c).posted = d.posted := by unfold Dev.unbind; simp
@[simp] theorem Dev.assignGen_posted (d : Dev) (c g : Nat) :
    (d.assignGen c g).posted = d.posted := by unfold Dev.assignGen; split <;> simp
@[simp] theorem Dev.takeGen_posted (d : Dev) (c : Nat) :
    (d.takeGen c).posted = d.posted := by simp only [Dev.takeGen]; repeat' split <;> simp [*]
@[simp] theorem Dev.release_posted (d : Dev) (c : Nat) :
    (d.release c).posted = d.posted := by unfold Dev.release; simp
@[simp] theorem Dev.upPic_posted (d : Dev) (c o : Nat) (f : Pic → Pic) :
    (d.upPic c o f).posted = d.posted := (rfl)
@[simp] theorem Dev.upSlice_posted (d : Dev) (c o s : Nat) (f : Slice → Slice) :
    (d.upSlice c o s f).posted = d.posted := (rfl)
@[simp] theorem Dev.upSrc_posted (d : Dev) (l idx : Nat) (f : SrcPic → SrcPic) :
    (d.upSrc l idx f).posted = d.posted := (rfl)
@[simp] theorem Dev.srcOpen_posted (d : Dev) (l : Nat) (ts : Option Nat) :
    (d.srcOpen l ts).posted = d.posted := by unfold Dev.srcOpen; split <;> simp
@[simp] theorem Dev.srcDiscard_posted (d : Dev) (l idx : Nat) :
    (d.srcDiscard l idx).posted = d.posted := (rfl)
@[simp] theorem Dev.flagWord_posted (d : Dev) (w : Nat) (s : Slice) :
    (d.flagWord w s).posted = d.posted := by unfold Dev.flagWord; split <;> simp
@[simp] theorem Dev.picStatus_posted (d : Dev) (c : Nat) (p : Pic) :
    (d.picStatus c p).posted = d.posted := (rfl)
@[simp] theorem Dev.upDec_posted (d : Dev) (c : Nat) (f : Dec → Dec) :
    (d.upDec c f).posted = d.posted := (rfl)
@[simp] theorem Dev.sinkDisc_posted (d : Dev) (o : Nat) :
    (d.sinkDisc o).posted = d.posted := by unfold Dev.sinkDisc; simp
@[simp] theorem Dev.pktDisc_posted (d : Dev) (c : Nat) :
    (d.pktDisc c).posted = d.posted := by unfold Dev.pktDisc; simp
@[simp] theorem Dev.outAdvance_posted (d : Dev) (c : Nat) :
    (d.outAdvance c).posted = d.posted := by simp only [Dev.outAdvance]; repeat' split <;> simp [*]
@[simp] theorem Dev.upDpb_posted (d : Dev) (c : Nat) (au : Nat × Nat) (f : DecPic → DecPic) :
    (d.upDpb c au f).posted = d.posted := (rfl)
@[simp] theorem Dev.trimDpb_posted (d : Dev) (c : Nat) :
    (d.trimDpb c).posted = d.posted := (rfl)
@[simp] theorem Dev.flush_posted (d : Dev) (c au : Nat) :
    (d.flush c au).posted = d.posted := (rfl)
@[simp] theorem Dev.refFill_posted (d : Dev) (e : Env) (c : Nat) (f : Surf) :
    (d.refFill e c f).posted = d.posted := (rfl)
@[simp] theorem Dev.upEth_posted (d : Dev) (p : Nat) (f : Eth → Eth) :
    (d.upEth p f).posted = d.posted := (rfl)
@[simp] theorem Dev.upIn_posted (d : Dev) (i : Nat) (f : SwIn → SwIn) :
    (d.upIn i f).posted = d.posted := (rfl)
@[simp] theorem Dev.upOut_posted (d : Dev) (o : Nat) (f : SwOut → SwOut) :
    (d.upOut o f).posted = d.posted := (rfl)
@[simp] theorem Dev.upRepl_posted (d : Dev) (i : Nat) (f : Repl → Repl) :
    (d.upRepl i f).posted = d.posted := (rfl)
@[simp] theorem Dev.setReplList_posted (d : Dev) (c p : Nat) (l : List Nat) :
    (d.setReplList c p l).posted = d.posted := (rfl)
@[simp] theorem Dev.upQ_posted (d : Dev) (q : Nat) (f : EgsQ → EgsQ) :
    (d.upQ q f).posted = d.posted := (rfl)
@[simp] theorem Dev.upPort_posted (d : Dev) (p : Nat) (f : EgsPort → EgsPort) :
    (d.upPort p f).posted = d.posted := (rfl)
@[simp] theorem Dev.setPunt_posted (d : Dev) (q : Nat) (l : List SinkFrame) :
    (d.setPunt q l).posted = d.posted := (rfl)
@[simp] theorem Dev.setHostq_posted (d : Dev) (q : Nat) (l : List SinkFrame) :
    (d.setHostq q l).posted = d.posted := (rfl)
@[simp] theorem Dev.takeSink_posted (d : Dev) (o : Nat) :
    (d.takeSink o).posted = d.posted := (rfl)
@[simp] theorem Dev.toSwitch_posted (d : Dev) (i : Nat) (p : SwPkt) :
    (d.toSwitch i p).posted = d.posted := (rfl)
@[simp] theorem Dev.countMiss_posted (d : Dev) (l : Nat) :
    (d.countMiss l).posted = d.posted := (rfl)
@[simp] theorem Dev.setHb_posted (d : Dev) (n : Nat) (x : Hbc) :
    (d.setHb n x).posted = d.posted := (rfl)
@[simp] theorem Dev.addPoison_posted (d : Dev) (ws : List Nat) :
    (d.addPoison ws).posted = d.posted := (rfl)
@[simp] theorem Dev.loseBuffer_posted (d : Dev) (p i : Nat) :
    (d.loseBuffer p i).posted = d.posted := by simp only [Dev.loseBuffer]; repeat' split <;> simp [*]
@[simp] theorem Dev.hbmCe_posted (d : Dev) (n : Nat) (q : BankEntry) :
    (d.hbmCe n q).posted = d.posted := by unfold Dev.hbmCe; split <;> simp
@[simp] theorem Dev.hbmUe_posted (d : Dev) (n : Nat) (q : BankEntry) :
    (d.hbmUe n q).posted = d.posted := by unfold Dev.hbmUe; split <;> simp

@[simp] theorem Dev.hbmMoved_posted (d : Dev) (w : Bool) (a n : Nat) : (d.hbmMoved w a n).posted = d.posted := by
  unfold Dev.hbmMoved
  split
  · rfl
  · exact foldl_posted _ _ (fun d _ => by simp) d

@[simp] theorem Dev.hbmReads_posted (d : Dev) (r a n : Nat) : (d.hbmReads r a n).posted = d.posted :=
  (foldl_posted _ _ (fun d _ => by simp) _).trans (Dev.hbmMoved_posted d false a n)
@[simp] theorem Dev.refRate_posted (d : Dev) (n : Nat) :
    (d.refRate n).posted = d.posted := by simp only [Dev.refRate]; repeat' split <;> simp [*]
@[simp] theorem Dev.macDiscard_posted (d : Dev) (p : Nat) :
    (d.macDiscard p).posted = d.posted := (rfl)
@[simp] theorem Dev.pauseIn_posted (d : Dev) (p quanta : Nat) :
    (d.pauseIn p quanta).posted = d.posted := by unfold Dev.pauseIn; split <;> simp
@[simp] theorem Dev.pfcIn_posted (d : Dev) (p mask : Nat) (quanta : List Nat) :
    (d.pfcIn p mask quanta).posted = d.posted := by unfold Dev.pfcIn; split <;> simp
@[simp] theorem Dev.refreshBank_posted (d : Dev) (n k : Nat) : (d.refreshBank n k).posted = d.posted := by
  simp only [Dev.refreshBank, Dev.refRate_posted, Dev.upHb_posted]; split <;> simp
@[simp] theorem Dev.countFec_posted (d : Dev) (p : Nat) (l : RxLine) : (d.countFec p l).posted = d.posted := by
  unfold Dev.countFec; split <;> simp
@[simp] theorem Dev.ctlIn_posted (d : Dev) (p : Nat) : (d.ctlIn p).posted = d.posted := by simp [Dev.ctlIn]
@[simp] theorem Dev.signalFault_posted (d old : Dev) (p : Nat) : (d.signalFault old p).posted = d.posted := by
  unfold Dev.signalFault; split <;> simp
@[simp] theorem Dev.putPause_posted (d : Dev) (p q k : Nat) : (d.putPause p q k).posted = d.posted := by
  simp only [Dev.putPause]; repeat' split
  all_goals simp
@[simp] theorem Dev.sendPause_posted (d : Dev) (p q k : Nat) : (d.sendPause p q k).posted = d.posted := by
  simp only [Dev.sendPause]; split
  · rfl
  · split <;> simp only [Dev.event_posted, Dev.count_posted, Dev.putPause_posted]
@[simp] theorem Dev.pauseControl_posted (d : Dev) (p fill : Nat) : (d.pauseControl p fill).posted = d.posted := by
  simp only [Dev.pauseControl]; split
  · simp only [Dev.sendPause_posted, Dev.wr_posted]
  · split <;> simp only [Dev.sendPause_posted, Dev.wr_posted]
@[simp] theorem Dev.pfcControl_posted (d : Dev) (p fill : Nat) : (d.pfcControl p fill).posted = d.posted := by
  have k : ∀ (e : Dev) (b : Bool) (q m : Nat), (if b = true then e else e.sendPause p q m).posted = e.posted := by
    intro e b q m; split <;> simp
  simp only [Dev.pfcControl, k, Dev.wr_posted, Dev.upEth_posted]
@[simp] theorem Dev.flowControl_posted (d : Dev) (p : Nat) : (d.flowControl p).posted = d.posted := by
  simp only [Dev.flowControl]; split
  · simp only [Dev.wr_posted]
  · split <;> simp only [Dev.pauseControl_posted, Dev.pfcControl_posted, Dev.wr_posted]
@[simp] theorem Dev.countMal_posted (d : Dev) (reason : Nat) :
    (d.countMal reason).posted = d.posted := (rfl)
@[simp] theorem Dev.showTxts_posted (d : Dev) (p : Nat) :
    (d.showTxts p).posted = d.posted := (rfl)
@[simp] theorem Dev.captureTx_posted (d : Dev) (p tag time : Nat) :
    (d.captureTx p tag time).posted = d.posted := by unfold Dev.captureTx; split <;> simp
@[simp] theorem Dev.upPse_posted (d : Dev) (e : Nat) (f : Pse → Pse) :
    (d.upPse e f).posted = d.posted := (rfl)
@[simp] theorem Dev.setPseService_posted (d : Dev) (e v : Nat) :
    (d.setPseService e v).posted = d.posted := (rfl)
@[simp] theorem Dev.upCls_posted (d : Dev) (f : Cls → Cls) :
    (d.upCls f).posted = d.posted := (rfl)
@[simp] theorem Dev.setCacheSet_posted (d : Dev) (b : Nat) (l : List (Nat × List Byte)) :
    (d.setCacheSet b l).posted = d.posted := (rfl)
@[simp] theorem Dev.plainAct_posted (d : Dev) (port act queue : Nat) (hdr : List Byte) (f : RxFrame) :
    (d.plainAct port act queue hdr f).posted = d.posted := by unfold Dev.plainAct; split <;> simp
@[simp] theorem Dev.malformed_posted (d : Dev) (port reason : Nat) (x : Parsed) :
    (d.malformed port reason x).posted = d.posted := by unfold Dev.malformed; simp
@[simp] theorem Dev.clsCommand_posted (d : Dev) (op : Nat) :
    (d.clsCommand op).posted = d.posted := by unfold Dev.clsCommand; split <;> simp
@[simp] theorem Dev.setClsData_posted (d : Dev) (bs : List Byte) :
    (d.setClsData bs).posted = d.posted := (rfl)
@[simp] theorem Dev.occupancy_posted (d : Dev) (n : Int) :
    (d.occupancy n).posted = d.posted := (rfl)
@[simp] theorem Dev.puntDrop_posted (d : Dev) (q : Nat) :
    (d.puntDrop q).posted = d.posted := by unfold Dev.puntDrop; simp
@[simp] theorem Dev.upOutSlice_posted (d : Dev) (c : Nat) (o : SliceOut) (n : Nat) :
    (d.upOutSlice c o n).posted = d.posted := (rfl)
@[simp] theorem Dev.applyRole_posted (d : Dev) (c : Nat) :
    (d.applyRole c).posted = d.posted := by unfold Dev.applyRole; split <;> simp
@[simp] theorem Dev.dmaEvent_posted (d : Dev) (c : Nat) :
    (d.dmaEvent c).posted = d.posted := by unfold Dev.dmaEvent; simp
@[simp] theorem Dev.issueFetch_posted (d : Dev) (c : Nat) (r : RingId) (again : Bool) :
    (d.issueFetch c r again).posted = d.posted := (rfl)
@[simp] theorem Dev.enableRing_posted (d : Dev) (c : Nat) (r : RingId) :
    (d.enableRing c r).posted = d.posted := by unfold Dev.enableRing; split <;> simp
@[simp] theorem Dev.cutRing_posted (d : Dev) (c : Nat) (r : RingId) :
    (d.cutRing c r).posted = d.posted := by unfold Dev.cutRing; split <;> rfl
@[simp] theorem Dev.pickIndex_posted (d : Dev) (q : Pool) :
    (d.pickIndex q).2.2.posted = d.posted := (rfl)
@[simp] theorem Dev.spill_posted (d : Dev) (p n : Nat) :
    (d.spill p n).posted = d.posted := by
  induction n generalizing d with
  | zero => rfl
  | succ n ih => simp [Dev.spill, ih]
@[simp] theorem Dev.pushFree_posted (d : Dev) (p i : Nat) :
    (d.pushFree p i).posted = d.posted := by simp only [Dev.pushFree]; repeat' split <;> simp
@[simp] theorem Dev.freeBuffer_posted (d : Dev) (req p g a : Nat) :
    (d.free_ req p g a).posted = d.posted := by
  simp only [Dev.free_]; split
  · simp
  · split <;> simp
@[simp] theorem Dev.requestFree_posted (d : Dev) (req p g a : Nat) :
    (d.requestBpm (.free req p g a)).posted = d.posted := by unfold Dev.requestBpm Dev.serveBpm; split <;> simp
@[simp] theorem Dev.popHost_posted (d : Dev) (q : Nat) :
    (d.popHost q).posted = d.posted := by unfold Dev.popHost; split <;> simp
@[simp] theorem Dev.dropHost_posted (d : Dev) (q : Nat) :
    (d.dropHost q).posted = d.posted := by
  unfold Dev.dropHost Dev.forEach; split
  · rfl
  · exact foldl_posted _ _ (fun d _ => by simp) d
@[simp] theorem Dev.stopRing_posted (d : Dev) (c : Nat) (r : RingId) :
    (d.stopRing c r).posted = d.posted := by unfold Dev.stopRing; simp
@[simp] theorem Dev.disableRing_posted (d : Dev) (c : Nat) (r : RingId) :
    (d.disableRing c r).posted = d.posted := by unfold Dev.disableRing; split <;> simp
@[simp] theorem Dev.pciReset_posted (d : Dev) :
    (d.pciReset ).posted = d.posted := by
  unfold Dev.pciReset Dev.forEach
  refine (Dev.wr_posted _ _ _).trans ?_
  refine (foldl_posted _ _ (fun d e => by simp) _).trans rfl
@[simp] theorem Dev.pcieDown_posted (d : Dev) :
    (d.pcieDown ).posted = d.posted := (rfl)
@[simp] theorem Dev.configReset_posted (d : Dev) :
    (d.configReset ).posted = d.posted := (rfl)
@[simp] theorem Dev.setMsix_posted (d : Dev) (k v : Nat) :
    (d.setMsix k v).posted = d.posted := (rfl)
@[simp] theorem Dev.poisonedWrite_posted (d : Dev) :
    (d.poisonedWrite ).posted = d.posted := by unfold Dev.poisonedWrite; simp
@[simp] theorem Dev.setBank_posted (d : Dev) (e bank : Nat) (valid : Bool) (gen : Nat) :
    (d.setBank e bank valid gen).posted = d.posted := by unfold Dev.setBank; simp
@[simp] theorem Dev.ucResult_posted (d : Dev) (e bank result : Nat) :
    (d.ucResult e bank result).posted = d.posted := by unfold Dev.ucResult; simp
@[simp] theorem Dev.moveQueue_posted (d : Dev) (c f e : Nat) :
    (d.moveQueue c f e).posted = d.posted := (rfl)
@[simp] theorem Dev.overCheck_posted (d : Dev) (e : Nat) :
    (d.overCheck e).posted = d.posted := by unfold Dev.overCheck; split <;> simp
@[simp] theorem Dev.entropyDone_posted (d : Dev) (e bins cycles : Nat) :
    (d.entropyDone e bins cycles).posted = d.posted := (rfl)
@[simp] theorem Dev.applyTrims_posted (d : Dev) :
    (d.applyTrims ).posted = d.posted := by simp only [Dev.applyTrims, Dev.forEach]; repeat' split <;> simp [*, foldl_posted]
@[simp] theorem Dev.takeSensors_posted (d : Dev) (temps rails : List (Fin 65536)) :
    (d.takeSensors temps rails).posted = d.posted := by simp only [Dev.takeSensors, Dev.forEach]; repeat' split <;> simp [*, foldl_posted]
@[simp] theorem Dev.setPlan_posted (d : Dev) (dom : Nat) (p : Plan) :
    (d.setPlan dom p).posted = d.posted := (rfl)
@[simp] theorem Dev.writePlan_posted (d : Dev) :
    (d.writePlan ).posted = d.posted := by unfold Dev.writePlan; split <;> simp
@[simp] theorem Dev.cmdResult_posted (d : Dev) (c result detail : Nat) :
    (d.cmdResult c result detail).posted = d.posted := by unfold Dev.cmdResult; simp
@[simp] theorem Dev.replResult_posted (d : Dev) (r : Nat) :
    (d.replResult r).posted = d.posted := by unfold Dev.replResult; simp
@[simp] theorem Dev.replRead_posted (d : Dev) (idx : Nat) :
    (d.replRead idx).posted = d.posted := by simp only [Dev.replRead, Dev.forEach]; repeat' split <;> simp [*, foldl_posted]
@[simp] theorem Dev.egsDisc_posted (d : Dev) (p : Nat) :
    (d.egsDisc p).posted = d.posted := by unfold Dev.egsDisc; simp
@[simp] theorem Dev.sweepPkts_posted (d : Dev) (p : Nat) :
    (d.sweepPkts p).posted = d.posted := (rfl)
@[simp] theorem Dev.ringBell_posted (d : Dev) (n k : Nat) :
    (d.ringBell n k).posted = d.posted := by unfold Dev.ringBell; simp
@[simp] theorem Dev.extCount_posted (d : Dev) (i : Nat) :
    (d.extCount i).posted = d.posted := (rfl)
@[simp] theorem Dev.hostMailbox_posted (d : Dev) (op seq : Nat) :
    (d.hostMailbox op seq).posted = d.posted := by unfold Dev.hostMailbox; split <;> simp
@[simp] theorem Dev.capture_posted (d : Dev) (now k src master acc addr : Nat) (esc : Bool) :
    (d.capture now k src master acc addr esc).posted = d.posted := by unfold Dev.capture; simp
@[simp] theorem Dev.wdgRestart_posted (d : Dev) (now n : Nat) :
    (d.wdgRestart now n).posted = d.posted := (rfl)
@[simp] theorem Dev.setUpd_posted (d : Dev) (st : Nat) :
    (d.setUpd st).posted = d.posted := by unfold Dev.setUpd; split <;> simp
@[simp] theorem Dev.updReason_posted (d : Dev) (r : Nat) :
    (d.updReason r).posted = d.posted := (rfl)
@[simp] theorem Dev.restUpd_posted (d : Dev) (e : Env) :
    (d.restUpd e).posted = d.posted := by unfold Dev.restUpd; simp
@[simp] theorem Dev.raiseArb_posted (d : Dev) (v : Nat) :
    (d.raiseArb v).posted = d.posted := (rfl)
@[simp] theorem Dev.showSlot_posted (d : Dev) (e : Env) (slot : Nat) :
    (d.showSlot e slot).posted = d.posted := (rfl)
@[simp] theorem Dev.secDone_posted (d : Dev) (m : Mbx) (seq result detail : Nat) :
    (d.secDone m seq result detail).posted = d.posted := by unfold Dev.secDone; simp
@[simp] theorem Dev.secHold_posted (d : Dev) (m : Mbx) (op seq : Nat) :
    (d.secHold m op seq).posted = d.posted := (rfl)
@[simp] theorem Dev.manifestFor_posted (d : Dev) (e : Env) (slot : Nat) :
    (d.manifestFor e slot).posted = d.posted := (rfl)
@[simp] theorem Dev.strandedEvent_posted (d : Dev) : d.strandedEvent.posted = d.posted := by
  obtain ⟨r, p, x, h⟩ := d.strandedEvent_frame; rw [h]
@[simp] theorem Dev.latchKeys_posted (d : Dev) (p : Nat → Bool) : (d.latchKeys p).posted = d.posted := by
  simp only [Dev.latchKeys, Dev.forEach]
  exact foldl_posted _ (fun (d : Dev) (e : Nat × Word × Word) =>
    d.setWord (homeKey e.1) ((d.word (homeKey e.1) &&& ~~~e.2.1) ||| (e.2.2 &&& e.2.1))) (fun _ _ => rfl) _
@[simp] theorem Dev.latchIf_posted (d : Dev) (page : Nat) (p : Nat → Bool) : (d.latchIf page p).posted = d.posted := by
  unfold Dev.latchIf; split <;> simp
@[simp] theorem Dev.latch_posted (d : Dev) (page : Nat) : (d.latch page).posted = d.posted := by unfold Dev.latch; simp
@[simp] theorem Dev.holdLive_posted (d : Dev) (k : Nat) (m v clr : Word) : (d.holdLive k m v clr).posted = d.posted := by
  unfold Dev.holdLive; dsimp only; split <;> rfl
@[simp] theorem Dev.putLive_posted (d : Dev) (clocked : Bool) (k : Nat) (fs : List FieldAcc) (v : Word) :
    (d.putLive clocked k fs v).posted = d.posted := by unfold Dev.putLive; split <;> simp
@[simp] theorem Dev.takeRow_posted (d : Dev) (j : Job) (p : Pic) (sl : Slice) (row sofar : Nat) :
    (d.takeRow j p sl row sofar).posted = d.posted := (rfl)
@[simp] theorem Dev.unclaim_posted (d : Dev) (c : Nat) (p : Claim → Bool) : (d.unclaim c p).posted = d.posted := by
  unfold Dev.unclaim; simp
@[simp] theorem Dev.unitDone_posted (d : Dev) (c au : Nat) : (d.unitDone c au).posted = d.posted := by
  unfold Dev.unitDone; split <;> simp
@[simp] theorem Dev.decodeDone_posted (d : Dev) (e : Env) (c : Nat) (p : Pic) (q : DecPic) :
    (d.decodeDone e c p q).posted = d.posted := by
  simp only [Dev.decodeDone, Dev.unitDone_posted]; repeat' split
  all_goals simp
@[simp] theorem Dev.sendPending_posted (d : Dev) (v : Nat) : (d.sendPending v).posted = d.posted := by
  simp only [Dev.sendPending]; split
  · rfl
  · split <;> simp

@[simp] theorem Dev.tryOpp_posted (d : Dev) (dom : Nat) : (d.tryOpp dom).posted = d.posted := by
  unfold Dev.tryOpp; repeat' split
  all_goals simp
@[simp] theorem Dev.calEnd_posted (d : Dev) (o : Nat) : (d.calEnd o).posted = d.posted := by simp [Dev.calEnd]
@[simp] theorem Dev.antMeasure_posted (d : Dev) (dom : Nat) : (d.antMeasure dom).posted = d.posted := by
  simp only [Dev.antMeasure]; repeat' split
  all_goals simp
@[simp] theorem Dev.setClkOpp_posted (d : Dev) (dom v : Nat) : (d.setClkOpp dom v).posted = d.posted := by
  simp only [Dev.setClkOpp]; split <;> simp
@[simp] theorem Dev.redeliver_posted (d : Dev) (core : Nat) : (d.redeliver core).posted = d.posted := by
  unfold Dev.redeliver Dev.forEach; exact foldl_posted _ _ Dev.deliver_posted _
@[simp] theorem Dev.strand_posted (d : Dev) (core : Nat) : (d.strand core).posted = d.posted := d.redeliver_posted core
@[simp] theorem Dev.coreOff_posted (d : Dev) (n : Nat) : (d.coreOff n).posted = d.posted := by
  simp only [Dev.coreOff]; split
  · simp
  · split <;> simp
@[simp] theorem Dev.coreOn_posted (d : Dev) (n : Nat) : (d.coreOn n).posted = d.posted := by
  simp only [Dev.coreOn]; split
  · simp
  · split <;> simp
@[simp] theorem Dev.extEdge_posted (d : Dev) (i : Nat) (rise : Bool) : (d.extEdge i rise).posted = d.posted := by
  simp only [Dev.extEdge]; split
  · simp
  · split <;> simp
@[simp] theorem Dev.showLists_posted (d : Dev) (c : Nat) : (d.showLists c).posted = d.posted := by simp only [Dev.showLists, Dev.wr_posted]
@[simp] theorem Dev.unlink_posted (d : Dev) (i : Nat) : (d.unlink i).posted = d.posted := by
  simp only [Dev.unlink]; split <;> simp

end Sys2Proof.Machine
end

