-- ==== Sys2Proof/Tests/Slice0.lean ====
section
/-!
SUPPORT. The model's own tests: an ill-formed command for each check of `Instr.wf`, small steps whose results come from the spec, and for
every obligation with hypotheses a state and operands that meet them.
-/

namespace Sys2Proof.Tests

open Sys2Proof Sys2Proof.Machine

/-! Small devices and states. -/

/-- A unit out of reset whose firmware runs, with these fields of its registers at these values. -/
def dev (ws : List (Field × Nat)) : Dev :=
  ws.foldl (fun d w => d.wr w.1 w.2)
    { Dev.reset 0x4B480256 0 with sec := { Sec.reset 0x4B480256 0 with phase := .running } }

/-- The state with this device, nothing in memory and no command waiting, at time 0. -/
def st (d : Dev) : State := { pending := [], time := 0, mem := { hbm := [], sram := [], nor := [] }, dev := d }

/-- `st d` is out of reset and between commands. -/
theorem ready (d : Dev) (h : d.sec.rst = 0) (p : d.posted = []) : (st d).Ready d := ⟨rfl, h, p⟩

/-- Some machine that is out of reset and between commands meets the hypotheses `p`. -/
def Meets (p : Dev → Prop) : Prop := ∃ d, (st d).Ready d ∧ p d

theorem meets {p : Dev → Prop} (d : Dev) (h : d.sec.rst = 0) (q : d.posted = []) (w : p d) : Meets p := ⟨d, ready d h q, w⟩


/-- The clock of the control fabric (domain 210) and that of device time (domain 211) run; so does that of some other domain. -/
def running (dom : Nat) : Field × Nat := (CLK_STS.LOCK.on dom, 1)
def timeRuns : Field × Nat := running 211

/-! Hypotheses that a machine meets: the machine as a whole. -/

theorem witness_StepRunsFrontCommand : ({ st (dev []) with pending := [.timeLoad, .timeStep] } : State).pending = .timeLoad :: [.timeStep] := rfl

/-- A pulse of PPS_OUT that ends one nanosecond later than the device time of the next tick, and one that ends with it. -/
theorem witness_EmptyQueueTicksDeviceTime :
    Meets (fun d => (st d).pending = [] ∧ d.clockRuns 211 = false) ∧
    Meets (fun d => (st d).pending = [] ∧ d.clockRuns 211 = true ∧ d.net.ppsEnd = none) ∧
    Meets (fun d => d.clockRuns 211 = true ∧ d.net.ppsEnd = some 5 ∧ 5 > ((st d).time + d.rd GLB_TIME_INC.INC) % 2 ^ 88 / 2 ^ 24) ∧
    Meets (fun d => d.clockRuns 211 = true ∧ d.net.ppsEnd = some 4 ∧ 4 ≤ ((st d).time + d.rd GLB_TIME_INC.INC) % 2 ^ 88 / 2 ^ 24) :=
  ⟨meets (dev []) (by decide) (by decide) (by decide), meets (dev [timeRuns]) (by decide) (by decide) (by decide),
   meets ((dev [timeRuns]).upNet (fun n => { n with ppsEnd := some 5 })) (by decide) (by decide) (by decide),
   meets ((dev [timeRuns]).upNet (fun n => { n with ppsEnd := some 4 })) (by decide) (by decide) (by decide)⟩

theorem witness_StepKeepsSound : (st (dev [])).Sound ∧ ∃ t, step (st (dev [])) = .next t :=
  ⟨⟨by decide, by decide, by decide⟩, _, rfl⟩

theorem witness_OnlyLostReferencesStop :
    (dev []).sec.rst ≠ 1 ∧ ((dev []).upSec (fun x => { x with rst := 1 })).sec.rst = 1 ∧
    Instr.refclkLoss .eth ≠ .refclkLoss .sys ∧ Instr.refclkLoss .eth ≠ .refclkLoss .xtal := by decide

theorem witness_CommandsLeaveTheQueueAndDeviceTime : ∃ t, exec .ntfAck (st (dev [])) = .next t := ⟨_, rfl⟩

theorem witness_PowerOnResetHoldsEverything :
    (st ((dev []).upSec (fun x => { x with rst := 1 }))).dev.sec.rst = 1 ∧ Instr.flr ≠ .porstAssert ∧ (∀ g, Instr.flr ≠ .porstRelease g) ∧
    Instr.flr ≠ .perstAssert ∧ Instr.flr ≠ .perstRelease ∧ ∀ b, Instr.flr ≠ .extest b :=
  ⟨by decide, by decide, by intro; simp, by decide, by decide, by intro; simp⟩

theorem witness_DeviceResetHoldsTheBlocks :
    (st ((dev []).upSec (fun x => { x with rst := 2 }))).dev.sec.rst = 2 ∧ Instr.uartRxRead ≠ .deviceResetRelease ∧
    (∀ r, Instr.ntfAck ≠ .refclkLoss r) ∧ (∀ r, Instr.ntfAck ≠ .reg64LowRead r) ∧
      (∀ off, Instr.ntfAck ≠ .holeAccess false off ∧ Instr.ntfAck ≠ .oversizeHostAccess false off) ∧ Instr.ntfAck ≠ .uartRxRead :=
  ⟨by decide, by decide, by intro; simp, by intros; simp, by intro; simp, by decide⟩

/-! Register pages. -/

/-- Offsets at the ends of their ranges: a hole's first and last byte and its neighbours, a low and a high word, a register of 64 bits whose
low word is held, a high word that a read holds, and words read whole and in part. -/
theorem witness_AccessesToWin0 :
    Meets (fun _ => 0x48 % 4 = 0 ∧ pageOf 0x48 ≠ none ∧ halfAt 0x48 = .single) ∧
    Meets (fun _ => pageOf 0x1000 = none ∧ pageOf 0x0FFFFF = none ∧ pageOf 0x100000 ≠ none ∧ pageOf 0xFFF ≠ none) ∧
    Meets (fun _ => 0x060 % 4 = 0 ∧ pageOf 0x060 = some (.GLB, 0) ∧ isLowWord .GLB 0x060 = true) ∧
    Meets (fun _ => halfAt 0x070 = .low ∧ mayWriteAt .host 0x070 = true) ∧
    Meets (fun d => halfAt 0x074 = .high ∧ mayWriteAt .host 0x074 = true ∧ storeFind d.lowHeld (0x074 - 4) = some 7) ∧
    Meets (fun d => pageOf 0x064 = some (.GLB, 0) ∧ isLowWord .GLB 0x064 = false ∧ storeFind d.readHeld 0x064 = some 7) ∧
    Meets (fun d => isLowWord .GLB 0x048 = false ∧ storeFind d.readHeld 0x048 = none) ∧
    Meets (fun _ => 0x060 % 8 = 0 ∧ pageOf 0x060 ≠ none) ∧
    Meets (fun d => pageOf 0x066 ≠ none ∧ pageOf 0x067 ≠ none ∧ storeFind d.readHeld (0x066 / 4 * 4) = none ∧
      storeFind d.readHeld (0x067 / 4 * 4) = none) :=
  ⟨meets (dev []) (by decide) (by decide) (by decide), meets (dev []) (by decide) (by decide) (by decide),
   meets (dev []) (by decide) (by decide) (by decide), meets (dev []) (by decide) (by decide) (by decide),
   meets { dev [] with lowHeld := [(0x070, 7)] } (by decide) (by decide) (by decide),
   meets { dev [] with readHeld := [(0x064, 7)] } (by decide) (by decide) (by decide), meets (dev []) (by decide) (by decide) (by decide),
   meets (dev []) (by decide) (by decide) (by decide), meets (dev []) (by decide) (by decide) (by decide)⟩

theorem witness_FirstBadAccessIsRecorded :
    Meets (fun d => pageOf 0x1000 = none ∧ d.bit GLB_ACC_STS.HOLE = false ∧ d.bit GLB_ACC_STS.PARTIAL = false ∧
      ∃ t, exec (.holeAccess true 0x1000) (st d) = .next t) ∧
    Meets (fun d => d.bit GLB_ACC_STS.HOLE = true ∧ ∃ t, exec (.partialWrite 0x44) (st d) = .next t) ∧
    Meets (fun d => d.bit GLB_ACC_STS.PARTIAL = true ∧ ∃ t, exec (.oversizeHostAccess false 0x44) (st d) = .next t) :=
  ⟨meets (dev []) (by decide) (by decide) ⟨by decide, by decide, by decide, _, rfl⟩,
   meets (dev [(GLB_ACC_STS.HOLE, 1)]) (by decide) (by decide) ⟨by decide, _, rfl⟩,
   meets (dev [(GLB_ACC_STS.PARTIAL, 1)]) (by decide) (by decide) ⟨by decide, _, rfl⟩⟩

/-- The page of parse engine 0: disabled and idle, with its clock and without; enabled and idle; enabled while it checks a program; in a
soft reset; holding writes with and without one that waits.  The page of the security core is not the host's to write. -/
theorem witness_PageHeaderCommands :
    Meets (fun d => pageOf 0x1F1000 = some (.PSE, 0) ∧ pageFixed .PSE = false ∧ d.enabled (pageBase 0x1F1000) = false ∧
      d.pageIdle .PSE 0 (pageBase 0x1F1000) = true ∧ d.bit (PAGE_CTL.SRST.page (pageBase 0x1F1000)) = false ∧ Pg.PSE ≠ .CHN ∧
      d.wPending (pageBase 0x1F1000) = false ∧ d.pageClocked .PSE 0 = true) ∧
    Meets (fun d => d.enReads .PSE 0 (pageBase 0x1F1000) ≠ true ∧ d.pageIdle .PSE 0 (pageBase 0x1F1000) = true ∧ d.pageClocked .PSE 0 = false) ∧
    (pageOf 0xC00000 = some (.SEC, 0) ∧ mayWrite .host .SEC 0 0x018 = false ∧ mayWrite .host .SEC 0 0x008 = false ∧
      mayWrite .host .PSE 0 0x018 = true ∧ mayWrite .host .PSE 0 0x008 = true) ∧
    Meets (fun d => d.enabled (pageBase 0x1F1000) = true ∧ d.pageIdle .PSE 0 (pageBase 0x1F1000) = true ∧ d.pageClocked .PSE 0 = true) ∧
    Meets (fun d => d.enReads .PSE 0 (pageBase 0x1F1000) ≠ true ∧ d.pageIdle .PSE 0 (pageBase 0x1F1000) = false) ∧
    Meets (fun d => d.bit (PAGE_CTL.SRST.page (pageBase 0x1F1000)) = true ∧ d.pageClocked .PSE 0 = true) ∧
    Meets (fun d => mayWrite .host .ARB 0 0x008 = true ∧ d.wPending (pageBase 0x620000) = true ∧ d.pageClocked .ARB 0 = true) ∧
    Meets (fun d => pageOf 0x405000 = some (.CHN, 5) ∧ d.pageIdle .CHN 5 0x405000 = true ∧ d.chState 5 = 0) :=
  ⟨meets (dev [running 208]) (by decide) (by decide) (by decide), meets (dev []) (by decide) (by decide) (by decide), by decide,
   meets (dev [running 208, (PAGE_CTL.EN.page 0x1F1000, 1), (PAGE_CTL.FRZ.page 0x1F1000, 1)]) (by decide) (by decide) (by decide),
   meets ((dev []).upPse 0 (fun x => { x with op := 2 })) (by decide) (by decide) (by decide),
   meets (dev [running 208, (PAGE_CTL.SRST.page 0x1F1000, 1)]) (by decide) (by decide) (by decide),
   meets { dev [running 160] with wpend := [(0x620050, 0xFFFF, 3)] } (by decide) (by decide) (by decide),
   meets (dev []) (by decide) (by decide) (by decide)⟩

set_option maxRecDepth 4000 in
/-- GLB_TIME_INC while no channel is active, and while one is; with its clock stopped. -/
theorem witness_FieldsAreWrittenByTheirQualifiers :
    Meets (fun d => 0x068 % 4 = 0 ∧ pageOf 0x068 = some (.GLB, 0) ∧ plainPage .GLB = true ∧ 0x040 ≤ 0x068 % 0x1000 ∧
      (∃ r, regDesc .GLB 0 (0x068 % 0x1000) = some r ∧ r.half = .single ∧ d.keyOf 0x068 0 r.bank = some 0x068) ∧
      d.pageIdle .GLB 0 (pageBase 0x068) = true ∧ d.pageClocked .GLB 0 = true ∧
      ∃ t, exec (.registerWrite .host 0x068 false 5) (st d) = .next t) ∧
    Meets (fun d => d.pageClocked .GLB 0 = false ∧ ∃ t, exec (.registerWrite .host 0x068 false 5) (st d) = .next t) ∧
    Meets (fun d => d.pageIdle .GLB 0 (pageBase 0x068) = false ∧ d.pageClocked .GLB 0 = true ∧ ∃ t, exec (.registerWrite .host 0x068 false 5) (st d) = .next t) :=
  ⟨meets (dev [timeRuns]) (by decide) (by decide)
    ⟨by decide, by decide, by decide, by decide, ⟨_, rfl, rfl, rfl⟩, by decide, by decide, _, rfl⟩,
   meets (dev []) (by decide) (by decide) ⟨by decide, _, rfl⟩,
   meets (dev [timeRuns, (CHN_STATE.STATE.on 255, 2)]) (by decide) (by decide) ⟨by decide, by decide, _, rfl⟩⟩

/-- ARB_QUOTA of arbiter 31, whose fields all wait for the window's end, with WHOLD at 0 and at 1. -/
theorem witness_WrapWritesWaitForTheirBoundary :
    Meets (fun d => pageOf 0x63F050 = some (.ARB, 31) ∧ plainPage .ARB = true ∧
      (∃ r, regDesc .ARB 31 (0x63F050 % 0x1000) = some r ∧ r.half = .single ∧ maskL r.fields = 0 ∧ maskI r.fields = 0 ∧
        maskC r.fields = 0 ∧ maskW r.fields ≠ 0 ∧ d.keyOf 0x63F050 31 r.bank = some 0x63F050) ∧
      d.wPending (pageBase 0x63F050) = false ∧ d.pendingAt 0x63F050 = (0, 0) ∧ d.bit (PAGE_CTL.WHOLD.page (pageBase 0x63F050)) = false ∧
      ∃ t, exec (.registerWrite .host 0x63F050 false 5) (st d) = .next t) ∧
    Meets (fun d => d.bit (PAGE_CTL.WHOLD.page (pageBase 0x63F050)) = true) :=
  ⟨meets (dev []) (by decide) (by decide) ⟨by decide, by decide, ⟨_, rfl, by decide, by decide, by decide, by decide, by decide, rfl⟩,
     by decide, by decide, by decide, _, rfl⟩,
   meets (dev [(PAGE_CTL.WHOLD.page 0x63F000, 1)]) (by decide) (by decide) (by decide)⟩

theorem witness_SoftResetReturnsThePage :
    Meets (fun d => pageOf 0x1F1000 = some (.PSE, 0) ∧ 0x1F1000 % 0x1000 = 0 ∧
      Pg.PSE ∈ [Pg.PXE, .ENE, .HMC, .ARB, .PSE, .CLS0, .CLS1, .CLS2, .CLS3, .DMA, .BGS] ∧ d.bit (PAGE_CTL.SRST.page 0x1F1000) = true ∧
      d.pageClocked .PSE 0 = true ∧ ∃ t, exec (.softResetComplete 0x1F1000) (st d) = .next t) :=
  meets (dev [running 208, (PAGE_CTL.SRST.page 0x1F1000, 1)]) (by decide) (by decide)
    ⟨by decide, by decide, by decide, by decide, by decide, _, rfl⟩

theorem witness_PageIdsAndIdentityAreFixed : Meets (fun _ => pageOf 0xD00000 ≠ none ∧ 0xD00000 % 0x1000 = 0) :=
  meets (dev []) (by decide) (by decide) (by decide)

set_option maxRecDepth 4000 in
theorem witness_DeviceTimeIsLoadedAndStepped : Meets (fun d => d.glbIdle = true ∧ d.clockRuns 211 = true) ∧
    Meets (fun d => d.glbIdle = true ∧ d.clockRuns 211 = false) ∧ Meets (fun d => d.glbIdle = false) :=
  ⟨meets (dev [running 211]) (by decide) (by decide) (by decide), meets (dev []) (by decide) (by decide) (by decide), meets (dev [(CHN_STATE.STATE.on 0, 4)]) (by decide) (by decide) (by decide)⟩

/-! Stream channels, holding and decode input. -/

/-- Stream channel 5 in a state, with its page enabled and the firmware and the buffer pools running. -/
def chan (state : Nat) (ws : List (Field × Nat)) : Dev :=
  dev ([(PAGE_CTL.EN.page (pageCHN 5), 1), (CHN_STATE.STATE.on 5, state), (SEC_BOOT_STS.READY, 1), (HCC_STS.STATE.on 0, 0),
    (HCC_STS.STATE.on 1, 0), (HCC_STS.STATE.on 2, 1), (PAGE_CTL.EN.page pageBPM, 1)] ++ ws)

/-- What a command of CHN_CMD asks of the channel's page. -/
def Accepts (d : Dev) : Prop :=
  d.safe = false ∧ d.enabled (pageCHN 5) = true ∧ d.frozen (pageCHN 5) = false ∧ d.bit (CHN_CMD_STS.BUSY.on 5) = false

theorem witness_ChannelCommandsAreAccepted :
    Meets (fun d => Accepts d ∧ d.chState 5 = 0) ∧ Meets (fun d => Accepts d ∧ d.chState 5 = 5 ∧ d.bit (CHN_STATE.STALE.on 5) = false) ∧
    Meets (fun d => Accepts d ∧ d.chState 5 = 3 ∧
      ((d.wr (CHN_CMD_STS.BUSY.on 5) 1).upCh 5 (fun x => { x with posted := some .drain })).groupBusy 5 = false) ∧
    Meets (fun d => Accepts d ∧ d.chState 5 = 4) ∧
    Meets (fun d => d.safe = false ∧ d.enabled (pageCHN 5) = true ∧ d.frozen (pageCHN 5) = false ∧ d.bit (CHN_CMD_STS.BUSY.on 5) = true) :=
  ⟨meets (chan 0 []) (by decide) (by decide) (by unfold Accepts; decide), meets (chan 5 []) (by decide) (by decide) (by unfold Accepts; decide),
   meets (chan 3 []) (by decide) (by decide) (by unfold Accepts; set_option maxRecDepth 8000 in decide),
   meets (chan 4 []) (by decide) (by decide) (by unfold Accepts; decide), meets (chan 2 [(CHN_CMD_STS.BUSY.on 5, 1)]) (by decide) (by decide) (by decide)⟩

theorem witness_ChannelWorkCompletes :
    Meets (fun d => d.firmwareTakes 5 = true ∧ (d.ch 5).posted = some .configure) ∧
    Meets (fun d => d.firmwareTakes 5 = true ∧ (d.ch 5).posted = some .open_ ∧ d.openWaits 5 = false) ∧
    Meets (fun d => d.firmwareTakes 5 = true ∧ (d.ch 5).posted = some .close) ∧ Meets (fun d => d.drained 5 = true) ∧
    Meets (fun d => d.isDecode 5 = false ∧ d.chState 5 = 3) :=
  ⟨meets ((chan 0 []).upCh 5 (fun x => { x with posted := some .configure })) (by decide) (by decide) (by decide),
   meets ((chan 1 []).upCh 5 (fun x => { x with posted := some .open_ })) (by decide) (by decide) (by decide),
   meets ((chan 5 []).upCh 5 (fun x => { x with posted := some .close })) (by decide) (by decide) (by decide),
   meets (chan 4 []) (by decide) (by decide) (by decide), meets (chan 3 []) (by decide) (by decide) (by decide)⟩

theorem witness_AbortEmptiesTheChannel :
    Meets (fun d => Accepts d ∧ d.chState 5 = 2 ∧ d.isDecode 5 = false ∧ d.membersOf 5 = [] ∧ ∃ t, exec (.abort 5) (st d) = .next t) :=
  meets (chan 2 []) (by decide) (by decide)
    ⟨by unfold Accepts; decide, by decide, by decide, by set_option maxRecDepth 8000 in decide, _, by unfold exec execAbort State.run; rfl⟩

/-- A hold of channel 5 whose first picture was expected at 0; its still timer ends at the time at hand. -/
def holding (state : Nat) (ws : List (Field × Nat)) (f : Hold → Hold) : Dev :=
  (chan state ws).upCh 5 (fun x => { x with hold := f x.hold, storing := some 3 })

theorem witness_SourcesAndHolding :
    Meets (fun d => (d.takeSink 9).flowUser 7 = some 5 ∧ d.bpmOpen = true ∧
      ((d.takeSink 9).alloc 0 ((d.takeSink 9).rd (BPM_MAP.PKT.bk 5))).1 = 0) ∧
    Meets (fun d => d.isLeader 5 = true ∧ (d.passGood 0 5).nextNoted 5 = none ∧ (d.passGood 0 5).deadlineOf 5 = some (st d).now ∧
      (d.passGood 0 5).chState 5 = 2 ∧ (d.passGood 0 5).watches 5 = true) ∧
    Meets (fun d => d.isLeader 5 = true ∧ (d.passGood 0 5).nextNoted 5 = none ∧ (d.passGood 0 5).deadlineOf 5 = some (st d).now ∧
      (d.passGood 0 5).chState 5 = 4 ∧ ((d.passGood 0 5).ch 5).storing = some 3) ∧
    Meets (fun d => d.isLeader 5 = true ∧ ∃ x, (d.passGood 0 5).nextNoted 5 = some x ∧ x.1 ≤ (st d).now) ∧
    Meets (fun d => d.isLeader 5 = true ∧ d.chState 5 = 3 ∧ d.bit (CHN_HOLD_CFG.STILL_EN.on 5) = true ∧ (d.ch 5).hold.stillDone = false ∧
      ∃ t, ({ st d with time := t }).now - (d.ch 5).hold.since = max 100 (d.rd (CHN_HOLD_STILL_MS.MS.on 5)) * 1000000) :=
  ⟨meets (chan 2 [(CHN_SRC.KIND.on 5, 2), (CHN_SRC.IDX.on 5, 7), (PAGE_CTL.EN.page pageBPM, 1), (BPM_POOL_STS.READY.bk 0, 1),
      (BPM_POOL_STS.FREE.bk 0, 5)]) (by decide) (by decide) (by decide),
   meets (holding 2 [(CHN_HOLD_CFG.GRACE.on 5, 0), (CHN_SRC.KIND.on 5, 2)] (fun h => { h with expected := some 0 })) (by decide) (by decide) (by decide),
   meets (holding 4 [(CHN_HOLD_CFG.GRACE.on 5, 0)] (fun h => { h with expected := some 0 })) (by decide) (by decide) (by decide),
   meets (holding 2 [] (fun h => { h with dues := [(0, 3, .cover)] })) (by decide) (by decide) ⟨by decide, _, rfl, by decide⟩,
   meets (holding 3 [(CHN_HOLD_CFG.STILL_EN.on 5, 1), (CHN_HOLD_STILL_MS.MS.on 5, 99)] id) (by decide) (by decide)
    ⟨by decide, by decide, by decide, by decide, 100000000 * 2 ^ 24, by decide⟩⟩

/-- Decode channel 5 with two output stores, expecting packet 4 while packet 5 is in its jitter buffer. -/
def decoding (f : Dec → Dec) : Dev :=
  (chan 2 [(CHN_MODE.KIND.on 5, 1), (CHN_DEC_CFG.NOUT.on 5, 2), (CHN_DEC_OUT_WR.IDX.on 5, 1)]).upDec 5 (fun x => f { x with
    jb := [{ seq := 5, ts := 9, marker := false, payload := [0, 0], arrival := 0, wait := 0 }], nextSeq := some 4 })

theorem witness_DecodeInputAndOutputRing :
    Meets (fun d => d.bpmOpen = true) ∧
    Meets (fun d => ∃ p rest, (d.dc 5).jb = p :: rest ∧ (d.dc 5).nextSeq = some 4 ∧ 4 < p.seq ∧ (d.dc 5).stop = none ∧ (d.dc 5).partPkts = 0 ∧
      (d.dc 5).boundary p = true ∧ p.arrival + p.wait * 1000000 ≤ (st d).now) ∧
    Meets (fun d => ∃ p rest, (d.dc 5).jb = p :: rest ∧ (d.dc 5).nextSeq = some 4 ∧ 4 < p.seq ∧ (d.dc 5).stop = none ∧ (d.dc 5).partPkts ≠ 0 ∧
      (d.dc 5).boundary p = false ∧ (d.dc 5).partAt + (d.dc 5).partWait * 1000000 ≤ (st d).now) ∧
    Meets (fun d => 1 < d.rd (CHN_DEC_CFG.NOUT.on 5) ∧ (ringPos (d.rd (CHN_DEC_CFG.NOUT.on 5)) 1 false + 2 * d.rd (CHN_DEC_CFG.NOUT.on 5) -
      ringPos (d.rd (CHN_DEC_CFG.NOUT.on 5)) (d.rd (CHN_DEC_OUT_RD.IDX.on 5)) (d.bit (CHN_DEC_OUT_RD.WRAP.on 5))) %
        max 1 (2 * d.rd (CHN_DEC_CFG.NOUT.on 5)) = d.outUsed 5 ∧ d.isDecode 5 = true ∧ d.chActive 5 = true) :=
  ⟨meets (decoding id) (by decide) (by decide) (by decide),
   meets (decoding (fun x => { x with lastMarker := true })) (by decide) (by decide)
    ⟨_, _, rfl, by decide, by decide, by decide, by decide, by decide, by decide⟩,
   meets (decoding (fun x => { x with partPkts := 1 })) (by decide) (by decide)
    ⟨_, _, rfl, by decide, by decide, by decide, by decide, by decide, by decide⟩,
   meets (decoding id) (by decide) (by decide) (by decide)⟩

/-! Work dispatch. -/

/-- Pixel engine 127, with its page enabled. -/
def pxe (service : Nat) (ws : List (Field × Nat)) (f : Pxe → Pxe) : Dev :=
  (dev ([(PAGE_CTL.EN.page (pagePXE 127), 1), (PXE_STS.SERVICE.on 127, service)] ++ ws)).upPx 127 f

/-- A pixel job of channel 5, and a dispatcher that holds it: engine 9 is in service with microcode of the job's generation. -/
def job (f : Job → Job) : Job :=
  f { chn := 5, stage := 1, pic := 0, slice := 0, live := true, deadline := 0, gen := 7, attempts := 0, excluded := [], estimate := 1,
      seq := 0, reissue := none, engine := none }

def working (f : Job → Job) : Dev :=
  { chan 2 [(PAGE_CTL.EN.page pageWDP, 1), (PAGE_CTL.EN.page (pagePXE 9), 1), (PXE_STS.SERVICE.on 9, 1), (PXE_UC_STS.VALID0.on 9, 1),
      (PXE_UC_GEN.GEN0.on 9, 7)] with wdp := { Wdp.reset with jobs := [job f] } }

/-- A picture with one slice that has no row yet. -/
def slice0 : Slice := { newSlice 0 false with h := 100 }
def pic0 : Pic :=
  { idx := 0, ts := 0, ptype := 1, layer := 0, order := 0, decided := true, forced := false, due := false, still := false, gen := 7, refs := []
    gop := 0, prevRap := none, unit := 1, level2From := none, rcStarted := true, rcDone := true, overhead := 0, budget := 0, nominal := 0, instal := 0, cap := 0, capClip := false
    bStart := 0, filler := 0, slices := [slice0] }

/-- Jobs before the hypotheses of R240, once it is noted which are ready: those allowed, and the state that has said so of generations nobody
holds. -/
def allowedOf (d : Dev) : List Job := (d.noteReady 0).jobs.filter (fun j => (d.noteReady 0).jobAllowed j 0)
def saidOf (d : Dev) : Dev :=
  let d := d.noteReady 0
  if (allowedOf d).any (fun j => !d.genHeld j.gen) then d.event WDP_EVT.NO_ENGINE else d

set_option maxRecDepth 16000 in
theorem witness_JobsRunOnEngines :
    Meets (fun d => d.open_ pageWDP = true ∧ (saidOf d).earliest (((allowedOf d).filter (fun j => (saidOf d).genHeld j.gen)).filter
      (fun j => j.live && !((saidOf d).enginesFor j).isEmpty)) = some (job (fun j => { j with ready := some 0 })) ∧
      (saidOf d).engineFor (job (fun j => { j with ready := some 0 })) = some 9) ∧
    Meets (fun d => d.open_ pageWDP = true ∧ (saidOf d).earliest (((allowedOf d).filter (fun j => (saidOf d).genHeld j.gen)).filter
        (fun j => j.live && !((saidOf d).enginesFor j).isEmpty)) = none ∧
      (saidOf d).pickScheduled (((allowedOf d).filter (fun j => (saidOf d).genHeld j.gen)).filter (fun j => !j.live)) =
        (saidOf d, some (job (fun j => { j with live := false, reissue := some 0, ready := some 0 }))) ∧
      (saidOf d).engineFor (job (fun j => { j with live := false, reissue := some 0, ready := some 0 })) = some 9) ∧
    Meets (fun d => ∃ j p sl, d.jobOn 127 = some j ∧ j.stage = 2 ∧ (d.ch j.chn).pic j.pic = some p ∧ p.slice j.slice = some sl ∧
      d.rowFrom j.chn j.slice + sl.rowQ.length < d.rowTo j.chn j.slice ∧ 100 ≤ sl.h) ∧
    Meets (fun d => ∃ j r, d.jobOn 127 = some j ∧ d.entryDead 127 j = false ∧ d.jobStalled 127 j = false ∧ d.readsBad (st d).env j = false ∧ d.resultFits (st d).env j r = true ∧ r.cycles ≤ d.jobLimit 127) ∧
    Meets (fun d => ∃ j, d.jobOn 127 = some j ∧ 128 * 4194304 + 1 > d.jobLimit 127 ∧ ¬ 128 * 4194304 > d.jobLimit 127) ∧
    Meets (fun d => d.ucIllegal 127 16384 0 = true) ∧
    Meets (fun d => ∃ j p, d.jobOn 127 = some j ∧ j.stage = 4 ∧ (d.ch j.chn).pic j.pic = some p) :=
  ⟨meets (working id) (by decide) (by decide) (by decide),
   meets (working (fun j => { j with live := false, reissue := some 0 })) (by decide) (by decide) (by decide),
   meets ((working (fun j => { j with stage := 2, engine := some 127 })).upCh 5 (fun x => { x with pics := [pic0] })) (by decide) (by decide)
    ⟨_, _, _, rfl, rfl, rfl, rfl, by decide, by decide⟩,
   meets (working (fun j => { j with engine := some 127 })) (by decide) (by decide) 
    ⟨_, ⟨0, [], none, [], [], [], [], [], (0, 0), [], [], 4194304⟩, rfl, by decide, by decide, by decide, by decide, by decide⟩,
   meets (working (fun j => { j with engine := some 127 })) (by decide) (by decide) ⟨_, rfl, by decide, by decide⟩,
   meets (pxe 2 [(PXE_UC_STS.VALID1.on 127, 1)] (fun x => { x with op := .selftest })) (by decide) (by decide) (by decide),
   meets ((working (fun j => { j with stage := 4, engine := some 127 })).upCh 5 (fun x => { x with pics := [pic0] })) (by decide) (by decide)
    ⟨_, _, rfl, rfl, rfl⟩⟩

theorem witness_DispatchAndRateRegisters : Meets (fun d => d.pageClocked .WDP 0 = true ∧ d.chActive 5 = true) ∧
    Meets (fun d => d.pageClocked .WDP 0 = true ∧ d.chActive 5 = false) ∧
    Meets (fun d => d.pageClocked .WDP 0 = true ∧ d.bit WDP_STS.OVERCOMMIT = false) ∧ Meets (fun d => d.pageClocked .WDP 0 = false) :=
  ⟨meets (chan 2 [running 210]) (by decide) (by decide) (by decide), meets (chan 1 [running 210]) (by decide) (by decide) (by decide),
   meets (dev [running 210]) (by decide) (by decide) (by decide), meets (dev []) (by decide) (by decide) (by decide)⟩

/-! Entropy and pixel engines. -/

/-- A whole access unit, number 0. -/
def unit0 : Au :=
  { idx := 0, ts := 0, bytes := 9, pkts := 1, readyAt := 0, gapBefore := false, queued := true, frames := 0, syn := 0, whole := false }

/-- An entropy job of channel 5. -/
def entJob (f : EntJob → EntJob) : EntJob := f (newEntropy 5 0 0 false 0 false false)

/-- Entropy engine 31 in service, with this state. -/
def ene (ws : List (Field × Nat)) (f : Ene → Ene) : Dev :=
  (chan 2 ([(PAGE_CTL.EN.page (pageENE 31), 1), (ENE_STS.SERVICE.on 31, 1)] ++ ws)).upEn 31 f

/-- The same, its running job that of slice 0 of picture 0. -/
def eneRuns (sl : Slice → Slice) (p : Pic → Pic) (f : EntJob → EntJob) (x : Ene → Ene) : Dev :=
  (ene [] (fun y => x { y with running := some (entJob f) })).upCh 5 (fun y => { y with pics := [p { pic0 with slices := [sl slice0] }] })

set_option maxRecDepth 16000 in
theorem witness_EntropyJobsRun :
    Meets (fun d => let d := (d.noteWritten []).flushOut (st d).env 31
      d.eneInService 31 = true ∧ d.open_ (pageENE 31) = true ∧ (d.en 31).running = none ∧ entFirst (d.en 31).ready = some (entJob id) ∧
      (List.range 32).find? (fun f => (d.en f).moves.contains (entJob id).chn) = none) ∧
    Meets (fun d => let d := (d.noteWritten []).flushOut (st d).env 31
      d.eneInService 31 = true ∧ d.open_ (pageENE 31) = true ∧ ∃ j, (d.en 31).running = some j ∧ j.live = true ∧ d.syntaxWhole j = false) ∧
    Meets (fun d => let d := d.noteWritten []
      let k := entJob (fun j => { j with dry := true })
      ((d.en 31).suspended ++ (d.en 31).queue).find? (fun k => k.dry && k.chn == 5 && k.pic == 0 && k.slice == 0) = some k ∧
      d.resumable k = true ∧
      let wake (l : List EntJob) : List EntJob := l.map (fun j => if j = k then entJob id else j)
      let u := d.upEn 31 (fun x => { x with suspended := wake x.suspended, queue := wake x.queue })
      (u.en 31).running = none ∧ entFirst (u.en 31).ready = some (entJob id)) ∧
    Meets (fun d => let d := d.noteWritten []
      (d.en 31).running = some (entJob id) ∧ (entJob id).live = false ∧ (d.en 31).ready.any (·.live) = true ∧
      (d.en 31).suspended.length = 15) ∧
    Meets (fun d => ∃ j p sl, (d.en 31).running = some j ∧ ((d.noteReady 0).ch j.chn).pic j.pic = some p ∧ p.slice j.slice = some sl ∧
      j.decode = false ∧ j.hold = false ∧ (d.noteReady 0).codedTurn j p sl = true ∧ (d.noteReady 0).bpmOpen = true ∧
      ([] : List Byte).length = sliceLength p sl) ∧
    Meets (fun d => ∃ j p sl, (d.en 31).running = some j ∧ ((d.noteReady 0).ch j.chn).pic j.pic = some p ∧ p.slice j.slice = some sl ∧
      j.hold = true ∧ (d.noteReady 0).codedTurn j p sl = true ∧ (d.noteReady 0).bpmOpen = true ∧ (d.noteReady 0).holdFits j.chn 0 0 0 = true) ∧
    Meets (fun d => let d := (d.noteReady 0).flushOut (st d).env 31
      ∃ j a, (d.en 31).running = some j ∧ j.decode = true ∧ d.bpmOpen = true ∧ (d.en 31).outq = [] ∧
      ((d.entropyDone 31 0 0).dc j.chn).aus.find? (fun a => a.idx == j.pic) = some a) ∧
    Meets (fun d => (d.en 31).checkKind 1 ((d.en 31).fetch (.entry 4095)) = 1 ∧ (d.en 31).checkKind 2 ((d.en 31).fetch (.entry 0)) = 0) :=
  ⟨meets (ene [] (fun x => { x with queue := [entJob id] })) (by decide) (by decide) (by decide),
   meets (eneRuns id id (fun j => { j with live := true }) id) (by decide) (by decide) ⟨by decide, by decide, _, rfl, by decide, by decide⟩,
   meets (ene [] (fun x => { x with suspended := [entJob (fun j => { j with dry := true })] })) (by decide) (by decide) (by decide),
   meets (ene [] (fun x => { x with running := some (entJob id), queue := [entJob (fun j => { j with live := true })]
                                    suspended := List.replicate 15 (entJob id) })) (by decide) (by decide) (by decide),
   meets (eneRuns (fun x => { x with encoded := true }) id id id) (by decide) (by decide)
    ⟨_, _, _, rfl, rfl, rfl, by decide, by decide, by decide, by decide, by decide⟩,
   meets (eneRuns id id (fun j => { j with hold := true }) id) (by decide) (by decide)
    ⟨_, _, _, rfl, rfl, rfl, by decide, by decide, by decide, by decide⟩,
   meets ((ene [] (fun x => { x with running := some (entJob (fun j => { j with decode := true })) })).upDec 5 (fun x => { x with
      aus := [unit0] })) (by decide) (by decide) ⟨_, _, rfl, by decide, by decide, by decide, rfl⟩,
   meets (ene [] (fun x => { x with ucode := [(0, 1)] })) (by decide) (by decide) (by decide)⟩

set_option maxRecDepth 16000 in
theorem witness_EntropyEngineControl :
    Meets (fun d => d.chState 5 = 2 ∧ d.boundTo 5 ≠ none ∧ d.eneInService 31 = true ∧ d.bit (ENE_CTL.BIND_EN.on 31) = true) ∧
    Meets (fun d => d.eneFree 31 = true ∧ d.eneService 31 ≠ 3) ∧
    Meets (fun d => d.bit (ENE_CTL.SELFTEST.on 31) = true ∧ d.safe = false) ∧
    Meets (fun d => d.eneIdle 31 = true ∧ d.eneService 31 = 2 ∧ d.rd (ENE_STS.ST_RESULT.on 31) = 1) ∧
    Meets (fun d => d.eneFree 31 = false) :=
  ⟨meets (ene [(CHN_ENE_BIND.VALID.on 5, 1), (ENE_CTL.BIND_EN.on 31, 1)] id) (by decide) (by decide) (by decide),
   meets (ene [(ENE_STS.SERVICE.on 31, 2)] id) (by decide) (by decide) (by decide),
   meets (ene [(ENE_CTL.SELFTEST.on 31, 1)] id) (by decide) (by decide) (by decide),
   meets (ene [(ENE_STS.SERVICE.on 31, 2), (ENE_STS.ST_RESULT.on 31, 1)] id) (by decide) (by decide) (by decide),
   meets (ene [] (fun x => { x with running := some (entJob id) })) (by decide) (by decide) (by decide)⟩

set_option maxRecDepth 16000 in
theorem witness_PixelMicrocode :
    Meets (fun d => d.pxeService 127 ≠ 3 ∧ d.pxeIdle 127 = true ∧ d.bankInUse 127 1 = false ∧ d.bankValid 127 0 = false ∧ d.bankValid 127 1 = false) ∧
    Meets (fun d => d.pxeService 127 ≠ 3 ∧ d.pxeIdle 127 = true ∧ d.bankInUse 127 1 = false ∧ d.bankGen 127 0 ≠ d.rd (PXE_UC_LOADCFG.GEN.on 127)) ∧
    Meets (fun d => d.pxeService 127 ≠ 3 ∧ d.pxeIdle 127 = true ∧ d.bankValid 127 1 = true ∧ d.bankInUse 127 1 = true) ∧
    Meets (fun d => d.safe = false ∧ (d.px 127).op = .load 1 ∧ d.loadHeld 127 = false) ∧ Meets (fun d => d.safe = false ∧ (d.px 127).op = .check 0) :=
  ⟨meets (pxe 2 [] id) (by decide) (by decide) (by decide),
   meets (pxe 2 [(PXE_UC_STS.VALID0.on 127, 1), (PXE_UC_GEN.GEN0.on 127, 3)] id) (by decide) (by decide) (by decide),
   meets (pxe 2 [(PXE_UC_STS.VALID1.on 127, 1), (PXE_UC_GEN.GEN1.on 127, 3), (CHN_STATE.STATE.on 5, 2), (WDP_CHN_GEN.GEN.bk 5, 3)] id) (by decide) (by decide) (by decide),
   meets (pxe 2 [] (fun x => { x with op := .load 1 })) (by decide) (by decide) (by decide),
   meets (pxe 2 [] (fun x => { x with op := .check 0 })) (by decide) (by decide) (by decide)⟩

theorem witness_PixelEngineService :
    Meets (fun d => d.pxeService 127 = 1 ∧ d.bit (PXE_JOB.ACTIVE.on 127) = false) ∧
    Meets (fun d => d.pxeService 127 = 1 ∧ d.bit (PXE_JOB.ACTIVE.on 127) = true) ∧
    Meets (fun d => d.pxeService 127 = 2 ∧ d.pxeIdle 127 = true ∧ d.bankValid 127 1 = true) ∧
    Meets (fun d => d.pxeService 127 = 2 ∧ d.pxeIdle 127 = true ∧ d.bankValid 127 0 = false ∧ d.bankValid 127 1 = false) ∧
    Meets (fun d => (d.px 127).op = .selftest ∧ d.safe = false) ∧
    Meets (fun d => d.pxeService 127 = 2 ∧ d.pxeIdle 127 = true ∧ d.rd (PXE_STS.ST_RESULT.on 127) = 1) ∧
    Meets (fun d => (d.px 127).oppSteps ≠ []) :=
  ⟨meets (pxe 1 [] id) (by decide) (by decide) (by decide), meets (pxe 1 [(PXE_JOB.ACTIVE.on 127, 1)] id) (by decide) (by decide) (by decide),
   meets (pxe 2 [(PXE_UC_STS.VALID1.on 127, 1)] id) (by decide) (by decide) (by decide), meets (pxe 2 [] id) (by decide) (by decide) (by decide),
   meets (pxe 2 [] (fun x => { x with op := .selftest })) (by decide) (by decide) (by decide),
   meets (pxe 2 [(PXE_STS.ST_RESULT.on 127, 1)] id) (by decide) (by decide) (by decide),
   meets (pxe 1 [] (fun x => { x with oppSteps := [.voltage 130, .frequency 32] })) (by decide) (by decide) (by decide)⟩

theorem witness_QuarantineWaitsForTheJob :
    Meets (fun d => d.pxeService 127 = 1 ∧ d.bit (PXE_JOB.ACTIVE.on 127) = true ∧
      ((d.upPx 127 (fun x => { x with quarAfter := true })).px 127).quarAfter = true ∧ d.wPending (pagePXE 127) = false) :=
  meets (pxe 1 [(PXE_JOB.ACTIVE.on 127, 1)] id) (by decide) (by decide) (by decide)

/-! HBM controllers, ports, parsing and classification. -/

/-- A request of DMA engine 0 for one write of 8 bytes at the end of HBM controller 31's share. -/
def hbmReq : HbmReq := { req := 0x0C0, lock := false, use := .other, units := [{ addr := 0x7_FFFF_FFC0, op := .write (List.replicate 8 0) }] }

/-- A burst that waits in HBM controller 31. -/
def burst (op : HbmOp) : BankEntry := { req := 0x0C0, use := .other, addr := 0x7_FFFF_FFC0, op := op, poisoned := false, failed := false }

def hmc (ws : List (Field × Nat)) (f : Hbc → Hbc) : Dev :=
  (dev ([(PAGE_CTL.EN.page (pageARB 31), 1), (PAGE_CTL.EN.page (pageHMC 31), 1)] ++ ws)).upHb 31 f

set_option maxRecDepth 16000 in
theorem witness_ArbiterCommands :
    hbmReqGood 31 hbmReq = true ∧
    Meets (fun d => (d.wr (ARB_STS.SLOT.on 31) 63).bit (ARB_STS.LOCKED.on 31) = false ∧ (d.wr (ARB_STS.SLOT.on 31) 63).open_ (pageARB 31) = true ∧
      ((d.wr (ARB_STS.SLOT.on 31) 63).arbRound 31 63).1 = some hbmReq) ∧
    Meets (fun d => d.bit (ARB_STS.LOCKED.on 31) = true ∧ (d.hb 31).holder = some hbmReq) ∧
    Meets (fun d => d.frozen (pageARB 31) = true ∧ (d.hb 31).granted = [] ∧ (d.hb 31).queue = []) ∧
    Meets (fun d => ((d.wr (ARB_STS.SLOT.on 31) 0).latchIf (pageARB 31) (fun k => k % 0x1000 == 0x05C)).bit (ARB_SLOT_CTL.SWAP.on 31) = false) ∧
    Meets (fun d => ((d.wr (ARB_STS.SLOT.on 31) 0).latchIf (pageARB 31) (fun k => k % 0x1000 == 0x05C)).bit (ARB_SLOT_CTL.SWAP.on 31) = true) :=
  ⟨by decide, meets (hmc [(HMC_CTL.SVC.on 31, 1)] (fun x => { x with waiting := [hbmReq] })) (by decide) (by decide) (by decide),
   meets (hmc [(ARB_STS.LOCKED.on 31, 1)] (fun x => { x with holder := some hbmReq })) (by decide) (by decide) (by decide),
   meets (hmc [(PAGE_CTL.FRZ.page (pageARB 31), 1)] id) (by decide) (by decide) (by decide),
   meets (hmc [] id) (by decide) (by decide) (by decide),
   meets { hmc [] id with wpend := [(0x63F05C, 1, 1)] } (by decide) (by decide) (by decide)⟩

theorem witness_HbmControllerEvents :
    Meets (fun d => (d.hb 31).inflight.find? (fun q => pcOf q.addr == pcOf 0x7_FFFF_FFC0) = some (burst (.read 8))) ∧
    Meets (fun d => d.open_ (pageHMC 31) = true ∧ (d.slotPick 31 (pcOf 0x7_FFFF_FFC0)).1 = some (burst (.read 8))) ∧
    Meets (fun d => d.bit (HMC_STS.TRIM_PEND.on 31) = true) :=
  ⟨meets (hmc [] (fun x => { x with inflight := [burst (.read 8)] })) (by decide) (by decide) (by decide),
   meets (hmc [] (fun x => { x with queue := [burst (.read 8)] })) (by decide) (by decide) (by decide),
   meets (hmc [(HMC_STS.TRIM_PEND.on 31, 1)] id) (by decide) (by decide) (by decide)⟩

/-- Port 7 with its link up, receiving. -/
def port (ws : List (Field × Nat)) : Dev :=
  dev ([(PAGE_CTL.EN.page (pageETH 7), 1), (ETH_CTL.RX_EN.on 7, 1), (ETH_STS.LINK.on 7, 1)] ++ ws)

/-- Frames of 59, 60 and 9,213 bytes without FCS: one byte too short, the shortest, and one too long at the largest setting. -/
theorem witness_PortsReceiveFrames :
    Meets (fun d => d.portReceives 7 = true ∧ (List.replicate 59 (0 : Byte)).length + 4 < 64 ∧ d.fcMode 7 = 0) ∧
    Meets (fun d => d.portReceives 7 = true ∧
      (((d.countFec 7 ⟨true, 1, 0⟩).count (ETH_CNT_RX_FRAMES.COUNT.on 7) 1).count (ETH_CNT_RX_BYTES.COUNT.on 7) 9217).maxFrame 7 < 9213 + 4) ∧
    Meets (fun d => d.portReceives 7 = true ∧ 64 ≤ (List.replicate 60 (0 : Byte)).length + 4 ∧
      64 ≤ (((d.countFec 7 ⟨true, 0, 0⟩).count (ETH_CNT_RX_FRAMES.COUNT.on 7) 1).count (ETH_CNT_RX_BYTES.COUNT.on 7) 64).maxFrame 7 ∧
      beNat (slice (List.replicate 60 (0 : Byte)) 12 2) ≠ 0x8808) ∧
    Meets (fun d => d.portReceives 7 = true ∧ d.fcMode 7 = 1) ∧ Meets (fun d => d.portReceives 7 = true ∧ d.fcMode 7 = 2) :=
  ⟨meets (port [(ETH_FC.MODE.on 7, 3)]) (by decide) (by decide) (by decide),
   meets (port [(ETH_MAXFRM.LEN.on 7, 16383)]) (by decide) (by decide) (by decide), meets (port []) (by decide) (by decide) (by decide),
   meets (port [(ETH_FC.MODE.on 7, 1)]) (by decide) (by decide) (by decide),
   meets (port [(ETH_FC.MODE.on 7, 2)]) (by decide) (by decide) (by decide)⟩

theorem witness_PortEvents :
    Meets (fun d => d.pauseReady 7 = true ∧ d.fcMode 7 = 1 ∧ d.bit (SWC_RXQ_STS.PAUSE_SENT.bk 7) = true) ∧
    Meets (fun d => d.linkUp 7 = false ∧ d.enabled (pageETH 7) = true) ∧ Meets (fun d => d.linkUp 7 = true) ∧
    Meets (fun d => d.bit ETH_PPS_CFG.IN_EN = true ∧ d.bit ETH_PPS_CFG.OUT_EN = true ∧ d.ppsTime 0 = true) :=
  ⟨meets (port [(ETH_CTL.TX_EN.on 7, 1), (ETH_FC.MODE.on 7, 1), (SWC_RXQ_STS.PAUSE_SENT.bk 7, 1)]) (by decide) (by decide) (by decide),
   meets (port [(ETH_STS.LINK.on 7, 0)]) (by decide) (by decide) (by decide), meets (port []) (by decide) (by decide) (by decide),
   meets (port [(ETH_PPS_CFG.IN_EN, 1), (ETH_PPS_CFG.OUT_EN, 1)]) (by decide) (by decide) (by decide)⟩

/-- A received frame, and the same after parse engine 0 found it an unknown protocol for punt queue 0. -/
def frame : RxFrame := { bytes := List.replicate 60 0, time := 0, fcsBad := false }
def parsed : Parsed := { frame := frame, result := .punt 0 1, key := [], ofs := [], code := 1 }

theorem witness_FramesAreParsedAndClassified :
    Meets (fun d => (d.eth 7).rxq = frame :: [] ∧ d.open_ (pagePSE 15) = true ∧ d.rd (PSE_STS.SERVICE.on 15) = 1 ∧ (d.eth 7).parsed.length = 15) ∧
    Meets (fun d => (d.eth 7).parsed = parsed :: [] ∧ d.open_ (pageCLS 0) = true ∧ (d.swIn 7).packets = [] ∧ d.lookupHeld parsed = false) ∧
    Meets (fun d => d.pseIdle 15 = true) ∧ Meets (fun d => d.pseIdle 15 = false) ∧
    Meets (fun d => d.safe = false ∧ (d.pse 15).op = 1) ∧ Meets (fun d => d.safe = false ∧ (d.pse 15).op = 2) :=
  ⟨meets ((port [(PAGE_CTL.EN.page (pagePSE 15), 1), (PSE_STS.SERVICE.on 15, 1)]).upEth 7 (fun x => { x with
      rxq := [frame], parsed := List.replicate 15 parsed })) (by decide) (by decide) (by decide),
   meets ((port [(PAGE_CTL.EN.page (pageCLS 0), 1)]).upEth 7 (fun x => { x with parsed := [parsed] })) (by decide) (by decide) (by decide),
   meets (dev []) (by decide) (by decide) (by decide),
   meets (dev [(PAGE_CTL.EN.page (pagePSE 15), 1)]) (by decide) (by decide) (by decide),
   meets ((dev []).upPse 15 (fun x => { x with op := 1 })) (by decide) (by decide) (by decide),
   meets ((dev []).upPse 15 (fun x => { x with op := 2 })) (by decide) (by decide) (by decide)⟩

theorem witness_ClassifierCommands :
    Meets (fun d => d.bit CLS_CMD_STS.BUSY = false) ∧
    Meets (fun d => d.bit CLS_CMD_STS.BUSY = true ∧ d.open_ (pageCLS 0) = true ∧ d.commandHeld = false ∧ ∃ r d', d.clsEffect (st d).env d.net.cls.op = (r, d')) ∧
    Meets (fun d => d.ageDue 0 32767 = true ∧ d.open_ (pageCLS 0) = true ∧ d.bucketHeld 32767 = false) :=
  ⟨meets (dev []) (by decide) (by decide) (by decide),
   meets ((dev [(PAGE_CTL.EN.page (pageCLS 0), 1), (CLS_CMD_STS.BUSY, 1)]).upCls (fun x => { x with op := 6 })) (by decide) (by decide)
    ⟨by decide, by decide, by decide, _, _, rfl⟩,
   meets ((hmc [(HMC_CTL.SVC.on 31, 1), (PAGE_CTL.EN.page (pageCLS 0), 1), (CLS_AGE_CFG.EN, 1)] id).upCls (fun x => { x with ageNext := 32767 }))
    (by decide) (by decide) (by decide)⟩

/-! Buffer pools. -/

set_option maxRecDepth 16000 in
theorem witness_BufferPools :
    Meets (fun d => d.bpmOpen = true ∧ (d.wr BPM_ALLOC_RES.DONE 0).bpmOpen = true) ∧
    Meets (fun d => d.bpmOpen = false ∧ d.bpmIdle = true ∧ d.poolCfgBad (d.rd BPM_POOL_SEL.POOL) = false) ∧
    Meets (fun d => d.bpmIdle = true ∧ d.poolCfgBad (d.rd BPM_POOL_SEL.POOL) = true) ∧
    Meets (fun d => (d.pool 3).initialising = true) ∧
    Meets (fun d => 9 = d.rd (BPM_GRP_MIN.MIN.bk (grpBank (d.rd BPM_POOL_SEL.POOL) (d.rd BPM_GRP_SEL.GROUP)))) :=
  ⟨meets (dev [(PAGE_CTL.EN.page pageBPM, 1)]) (by decide) (by decide) (by decide),
   meets (dev [(⟨0x1C0048 + win0Size, 0, 64, true⟩, 0x100000000), (⟨0x1C0048 + win0Size * 2, 0, 64, true⟩, 0x100400000),
      (⟨0x1C0048 + win0Size * 3, 0, 64, true⟩, 0x100800000), (⟨0x1C0048 + win0Size * 4, 0, 64, true⟩, 0x100C00000)])
      (by decide) (by decide) (by decide),
   meets (dev [(BPM_POOL_CFG.BASE.bk 0, 1280)]) (by decide) (by decide) (by decide),
   meets ((dev []).setPool 3 { Pool.reset with initialising := true }) (by decide) (by decide) (by decide),
   meets (dev [(BPM_GRP_MIN.MIN.bk (grpBank 0 0), 9)]) (by decide) (by decide) (by decide)⟩

/-- Pool 0 with 5 buffers free: a minimum of 6 does not fit, one of 5 does. -/
theorem witness_MinimumsAreReservedOrRefused :
    Meets (fun d => 6 < 2 ^ (BPM_GRP_MIN.MIN.bk (grpBank 0 0)).width ∧ d.rd (BPM_GRP_MIN.MIN.bk (grpBank 0 0)) < 6 ∧
      d.rd (BPM_POOL_STS.FREE.bk 0) < (d.wr (BPM_GRP_MIN.MIN.bk (grpBank 0 0)) 6).reservedFree 0 ∧
      (d.wr (BPM_GRP_MIN.MIN.bk (grpBank 0 0)) 5).reservedFree 0 = d.rd (BPM_POOL_STS.FREE.bk 0) ∧
      ∃ t, exec (.registerWrite .host 0x1C0070 false 3) (st d) = .next t) :=
  meets (dev [(BPM_POOL_STS.FREE.bk 0, 5)]) (by decide) (by decide) ⟨by decide, by decide, by decide, by decide, _, rfl⟩

/-! Switch, egress and host interface. -/

/-- A packet in the switch, and one that waits at port 7. -/
def swPkt : SwPkt :=
  { act := 1, arg := 5, link := none, outs := [], hdr := List.replicate 32 0, bytes := List.replicate 60 0, size := 60, stamp := .none
    buf := none }
def outPkt : OutPkt := { id := 0, pkt := swPkt, walk := none, copies := 0 }

set_option maxRecDepth 16000 in
theorem witness_PacketsAreSwitchedAndSent :
    Meets (fun d => d.open_ pageSWC = true) ∧
    Meets (fun d => d.isDecode 5 = false ∧ d.bpmOpen = true ∧ d.bit (CHN_SINK.EGRESS.on 5) = true ∧ (d.swIn (8 + d.rd (CHN_PKT_CFG.FEED.on 5))).packets = []) ∧
    Meets (fun d => d.net.rtxq = { pkt := swPkt, buf := 0 } :: [] ∧
      ((d.upNet (fun n => { n with rtxq := [] })).requestBpm (.free 0x0B3 0 0 0)).isDecode swPkt.arg = false) ∧
    Meets (fun d => d.open_ (pageEGS 7) = true ∧ (d.swOut 7).packets.find? (fun k => k.walk != some []) = some outPkt) ∧
    Meets (fun d => d.macReady 7 = true ∧
      (d.egsNext 7 ((d.egsPort 7).todo.length + (d.egsPort 7).served.length + 1)).1 = some (3, ⟨0, none⟩)) ∧
    Meets (fun d => d.service 1 = true ∧ d.punt 3 = { pkt := swPkt, buf := 0 } :: []) :=
  ⟨meets (dev [(PAGE_CTL.EN.page pageSWC, 1)]) (by decide) (by decide) (by decide),
   meets (chan 2 [(CHN_SINK.EGRESS.on 5, 1), (PAGE_CTL.EN.page pageBPM, 1)]) (by decide) (by decide) (by decide),
   meets ((chan 2 []).upNet (fun n => { n with rtxq := [{ pkt := swPkt, buf := 0 }] })) (by decide) (by decide) (by decide),
   meets ((dev [(PAGE_CTL.EN.page (pageEGS 7), 1)]).upOut 7 (fun x => { x with packets := [outPkt] })) (by decide) (by decide) (by decide),
   meets ((((dev [(PAGE_CTL.EN.page (pageEGS 7), 1), (PAGE_CTL.EN.page (pageETH 7), 1), (ETH_CTL.TX_EN.on 7, 1), (ETH_STS.LINK.on 7, 1)]).upOut 7
      (fun x => { x with packets := [outPkt] })).upQ 3 (fun x => { x with port := some 7, descs := [⟨0, none⟩], tokens := 2 ^ 40 })).upPort 7
        (fun x => { x with todo := [3] })) (by decide) (by decide) (by decide),
   meets ((chan 2 []).setPunt 3 [{ pkt := swPkt, buf := 0 }]) (by decide) (by decide) (by decide)⟩


set_option maxRecDepth 16000 in
theorem witness_ReplicationAndQueueCommands :
    Meets (fun d => (d.replAt 65535).valid = false ∧ (d.replAt 65535).queued = 0 ∧ d.walking 65535 = false ∧
      d.queueOn (⟨d.replData.take 31, true, 0⟩ : Repl).queue (⟨d.replData.take 31, true, 0⟩ : Repl).port = true ∧
      d.isDecode (⟨d.replData.take 31, true, 0⟩ : Repl).chn = false) ∧
    Meets (fun d => (d.replAt 65535).valid = true) ∧
    Meets (fun d => (d.replAt 65535).valid = true ∧
      d.queueOn (⟨d.replData.take 28 ++ slice (d.replAt 65535).bytes 28 1 ++ slice d.replData 29 1 ++ slice (d.replAt 65535).bytes 30 1,
        true, 0⟩ : Repl).queue (d.replAt 65535).port = true) ∧
    Meets (fun d => (d.egsQ (d.rd (EGS_Q_SEL.QUEUE.on 7))).port = none ∧ (d.boundQueues 7).length < 1024) ∧
    Meets (fun d => d.queueOn (d.rd (EGS_Q_SEL.QUEUE.on 7)) 7 = true ∧ (d.egsQ (d.rd (EGS_Q_SEL.QUEUE.on 7))).descs = [] ∧
      (∀ e ∈ d.net.repl, e.2.valid = true → e.2.queue ≠ d.rd (EGS_Q_SEL.QUEUE.on 7)) ∧
      d.rd (EGS_PORT_CFG.FWD_Q.on 7) ≠ d.rd (EGS_Q_SEL.QUEUE.on 7) ∧ d.rd (EGS_PORT_CFG.INJ_Q.on 7) ≠ d.rd (EGS_Q_SEL.QUEUE.on 7)) :=
  ⟨meets ((dev []).upQ 0 (fun x => { x with port := some 0 })) (by decide) (by decide) (by decide),
   meets ((dev []).upRepl 65535 (fun x => { x with valid := true })) (by decide) (by decide) (by decide),
   meets (((dev []).upRepl 65535 (fun x => { x with valid := true })).upQ 0 (fun x => { x with port := some 0 })) (by decide) (by decide)
     (by decide),
   meets (dev [(EGS_Q_SEL.QUEUE.on 7, 4095)]) (by decide) (by decide) (by decide),
   meets ((dev [(EGS_Q_SEL.QUEUE.on 7, 4095)]).upQ 4095 (fun x => { x with port := some 7 })) (by decide) (by decide) (by decide)⟩

/-- A descriptor of 64 bytes from the host to HBM, and one of an unknown kind. -/
def desc0 : Desc :=
  { host := 0x1000, dev := 0, len := 64, kind := 0, irq := true, picStart := false, lmark := false, auEnd := false, port := 0, lines := 0
    own := true, tag := 1 }

/-- A ring of channel 255 in its DMA engine, enabled, with this state. -/
def dma (ws : List (Field × Nat)) (f : Ring → Ring) : Dev :=
  (dev ([(PAGE_CTL.EN.page (pageDMA 7), 1), (dmaField DMA_CH_CTL.H2D_EN 255, 1)] ++ ws)).upRing 255 .h2d f

set_option maxRecDepth 16000 in
theorem witness_DmaRings :
    Meets (fun d => ((d.wr (dmaField DMA_H2D_DB.COUNT 255) 1).ringEn 255 .h2d &&
      (d.wr (dmaField DMA_H2D_DB.COUNT 255) 1).bit (dmaField DMA_CH_STS.H2D_WAIT 255)) = true) ∧
    Meets (fun d => ((d.wr (dmaField DMA_H2D_DB.COUNT 255) 1).ringEn 255 .h2d &&
      (d.wr (dmaField DMA_H2D_DB.COUNT 255) 1).bit (dmaField DMA_CH_STS.H2D_WAIT 255)) = false) ∧
    Meets (fun d => d.ringEn 255 .d2h = false) ∧ Meets (fun d => d.ringEn 255 .h2d = true) ∧
    Meets (fun d => d.bit (dmaField DMA_CH_CTL.D2H_ABORT 255) = true) ∧
    Meets (fun d => (d.ring 255 .h2d).fetching = some (0, false) ∧ d.ringEn 255 .h2d = true ∧
      d.bit (dmaField DMA_CH_CTL.H2D_ABORT 255) = false ∧ (descOf (List.replicate 31 0 ++ [0x80])).own = true ∧
      (descOf (List.replicate 32 0)).own = false ∧ d.rd (dmaField DMA_H2D_DB.COUNT 255) ≠ 0) ∧
    Meets (fun d => (d.ring 255 .h2d).fetching = some (0, true) ∧ d.ringEn 255 .h2d = true ∧
      d.bit (dmaField DMA_CH_CTL.H2D_ABORT 255) = false) ∧
    Meets (fun d => d.open_ (pageDMA 7) = true ∧ d.halfActive 7 .h2d = none ∧
      ∃ x st, d.nextStart 7 .h2d = some (255, x, st) ∧ (st = none → x.kind ≠ 7)) ∧
    Meets (fun d => d.halfActive 7 .h2d = some 255 ∧ d.bit (dmaField DMA_CH_CTL.H2D_ABORT 255) = false ∧
      d.descTakes 255 .h2d (.done [] []) = true ∧
      (((d.count PCI_CNT_CPL_TO.COUNT 1).event PCI_EVT.CPL_TO).send .aer).bit (dmaField DMA_CH_CTL.H2D_ABORT 255) = false) ∧
    Meets (fun d => d.halfActive 7 .h2d = some 255 ∧ d.bit (dmaField DMA_CH_CTL.H2D_ABORT 255) = false ∧
      d.descTakes 255 .h2d (.done [] []) = false) :=
  ⟨meets (dma [(dmaField DMA_CH_STS.H2D_WAIT 255, 1)] id) (by decide) (by decide) (by decide),
   meets (dma [] id) (by decide) (by decide) (by decide), meets (dma [] id) (by decide) (by decide) (by decide),
   meets (dma [] id) (by decide) (by decide) (by decide),
   meets (dma [(dmaField DMA_CH_CTL.D2H_ABORT 255, 1)] id) (by decide) (by decide) (by decide),
   meets (dma [(dmaField DMA_H2D_DB.COUNT 255, 1)] (fun x => { x with fetching := some (0, false) })) (by decide) (by decide) (by decide),
   meets (dma [] (fun x => { x with fetching := some (0, true) })) (by decide) (by decide) (by decide),
   meets (dma [] (fun x => { x with fetched := some desc0 })) (by decide) (by decide)
     ⟨by decide, by decide, desc0, none, by decide, by decide⟩,
   meets (dma [] (fun x => { x with active := some { desc0 with kind := 4 } })) (by decide) (by decide) (by decide),
   meets (dma [] (fun x => { x with active := some desc0 })) (by decide) (by decide) (by decide)⟩

/-- The last byte of HBM, which controller 31 holds. -/
def lastByte : Dev := hmc [(PCI_WIN2_POS.POS, 127), (HMC_CTL.SVC.on 31, 1)] id

theorem witness_Win2ReachesHbm : (st lastByte).Ready lastByte ∧ (st lastByte).mem.wf ∧ 268435455 + [(7 : Byte)].length ≤ 268435456 ∧
    (lastByte.wr PCI_LINK_STS.L1 0).hbmTakes 0x0C8 (lastByte.rd PCI_WIN2_POS.POS * 2 ^ 28 + 268435455) 1 = true :=
  ⟨⟨rfl, by decide, by decide⟩, by decide, by decide, by decide⟩

theorem witness_PcieLinkAndConfiguration :
    Meets (fun d => d.dma.link.perst = false ∧ (16 : Nat) ≤ (if d.bit GLB_STRAP.PCIE_X8 then 8 else 16)) ∧
    Meets (fun d => d.dma.link.perst = false ∧ (8 : Nat) ≤ (if d.bit GLB_STRAP.PCIE_X8 then 8 else 16)) :=
  ⟨meets ((dev []).upLink (fun l => { l with perst := false })) (by decide) (by decide) (by decide),
   meets ((dev [(GLB_STRAP.PCIE_X8, 1)]).upLink (fun l => { l with perst := false })) (by decide) (by decide) (by decide)⟩

theorem witness_PcieMessagesAndErrors :
    Meets (fun d => d.bit PCI_LINK_STS.UP = true ∧ d.dma.link.aspmL1 = true ∧ d.rd PCI_L1_IDLE.US ≠ 0 ∧ d.bit PCI_LINK_STS.L1 = false) ∧
    Meets (fun d => d.pageClocked .PCI 0 = true) ∧ Meets (fun d => d.pageClocked .PCI 0 = false) ∧
    0x80FC + winSize (.read 8) > 0x8100 ∧ 0x80FC + 4 ≤ 0x8100 :=
  ⟨meets ((dev [(PCI_LINK_STS.UP, 1), (PCI_L1_IDLE.US, 1)]).upLink (fun l => { l with aspmL1 := true })) (by decide) (by decide) (by decide),
   meets (dev [running 212]) (by decide) (by decide) (by decide), meets (dev []) (by decide) (by decide) (by decide), by decide, by decide⟩

/-! The Herd, interrupts, mailbox and console; faults and watchdogs. -/

set_option maxRecDepth 32000 in
theorem witness_HerdCores :
    Meets (fun d => d.bit (HCC_CMO_STS.BUSY.on 3) = false) ∧ Meets (fun d => d.bit (HCC_CMO_STS.BUSY.on 3) = true) ∧
    Meets (fun d => d.rd (HCC_STS.STATE.on 3) = 0 ∧ d.lineActive 3 = false) ∧ Meets (fun d => d.rd (HCC_STS.STATE.on 3) = 1) ∧
    Meets (fun d => d.rd (HCC_STS.STATE.on 3) = 2) ∧
    Meets (fun d => 3 ∈ d.herd.timers ∧ d.rd (HCC_TIMER.COMPARE.on 3) ≤ (st d).now) ∧
    Meets (fun d => d.debugFull = true ∧ d.rd (HCC_STS.STATE.on 3) ≠ 3) ∧
    Meets (fun d => d.debugFull = true ∧ d.rd (HCC_STS.STATE.on 3) = 3 ∧ storeGet (fun _ => 0) d.herd.halted 3 ≠ 2) :=
  ⟨meets (dev []) (by decide) (by decide) (by decide), meets (dev [(HCC_CMO_STS.BUSY.on 3, 1)]) (by decide) (by decide) (by decide),
   meets (dev [(HCC_STS.STATE.on 3, 0)]) (by decide) (by decide) (by decide),
   meets (dev [(HCC_STS.STATE.on 3, 1)]) (by decide) (by decide) (by decide),
   meets (dev [(HCC_STS.STATE.on 3, 2)]) (by decide) (by decide) (by decide),
   meets ((dev []).upHerd (fun h => { h with timers := [3] })) (by decide) (by decide) (by decide),
   meets (dev [(SEC_LC.DBG, 2)]) (by decide) (by decide) ⟨by unfold Dev.debugFull; rw [Bool.or_eq_true]; exact .inl (by decide), by decide⟩,
   meets (dev [(SEC_LC.DBG, 2), (HCC_STS.STATE.on 3, 3)]) (by decide) (by decide)
     ⟨by unfold Dev.debugFull; rw [Bool.or_eq_true]; exact .inl (by decide), by decide, by decide⟩⟩

theorem witness_InterruptRoutesAndInputs :
    Meets (fun d => sourceExists (d.rd INT_SRC_SEL.SRC) = true) ∧ Meets (fun d => 15 ∈ d.herd.counting) :=
  ⟨meets (dev [(INT_SRC_SEL.SRC, 828)]) (by decide) (by decide) (by decide),
   meets ((dev []).upHerd (fun h => { h with counting := [15] })) (by decide) (by decide) (by decide)⟩

set_option maxRecDepth 16000 in
theorem witness_HostMailbox :
    Meets (fun d => d.bit HCC_MBX_STS.BUSY = false) ∧ Meets (fun d => d.bit HCC_MBX_STS.BUSY = true) ∧
    Meets (fun d => d.herd.mbxOp = some (8, 65535) ∧ d.service d.mbxCore = true ∧ d.mbxWaits 8 = false ∧
      ∃ r d', d.mbxServe (st d).env 8 = (r, d')) ∧
    Requester.herd 0 ≠ .host ∧ Meets (fun d => d.bit HCC_NTF_STS.VALID = true) :=
  ⟨meets (dev []) (by decide) (by decide) (by decide), meets (dev [(HCC_MBX_STS.BUSY, 1)]) (by decide) (by decide) (by decide),
   meets ((chan 2 []).upHerd (fun h => { h with mbxOp := some (8, 65535) })) (by decide) (by decide)
     ⟨by decide, by decide, by decide, _, _, rfl⟩,
   by decide, meets (dev [(HCC_NTF_STS.VALID, 1)]) (by decide) (by decide) (by decide)⟩

theorem witness_ConsoleUart :
    Meets (fun d => d.herd.txFifo.length < 16 ∧ d.bit HCC_UART_CFG.EN = true ∧ d.herd.rxFifo.length < 16 ∧
      d.herd.txFifo = 7 :: [] ∧ d.herd.rxFifo = 7 :: []) ∧
    Meets (fun d => 16 ≤ d.herd.txFifo.length ∧ d.bit HCC_UART_CFG.EN = true ∧ 16 ≤ d.herd.rxFifo.length) ∧
    Meets (fun d => d.herd.rxFifo = []) :=
  ⟨meets ((dev [(HCC_UART_CFG.EN, 1)]).upHerd (fun h => { h with txFifo := [7], rxFifo := [7] })) (by decide) (by decide) (by decide),
   meets ((dev [(HCC_UART_CFG.EN, 1)]).upHerd (fun h => { h with txFifo := List.replicate 16 7, rxFifo := List.replicate 16 7 }))
     (by decide) (by decide) (by decide), meets (dev []) (by decide) (by decide) (by decide)⟩

set_option maxRecDepth 16000 in
theorem witness_FaultsAndWatchdogs :
    (∃ k r, fltSource 1 = some (k, r)) ∧ (∃ k r, fltSource 160 = some (k, r)) ∧
    Meets (fun d => d.glbIdle = true ∧ (∃ k r, fltSource 1 = some (k, r)) ∧ d.collects 1 = true) ∧
    Meets (fun d => d.glbIdle = false) ∧ Meets (fun d => d.bit (WDG_CFG.EN 4) = false) ∧
    Meets (fun d => d.bit (WDG_CFG.EN 4) = true ∧ (d.wdt 4).zero = false) :=
  ⟨⟨_, _, rfl⟩, ⟨_, _, rfl⟩, meets (dev []) (by decide) (by decide) ⟨by decide, ⟨_, _, rfl⟩, by decide⟩,
   meets (chan 2 []) (by decide) (by decide) (by decide), meets (dev []) (by decide) (by decide) (by decide),
   meets (dev [(WDG_CFG.EN 4, 1)]) (by decide) (by decide) (by decide)⟩

theorem witness_AcknowledgedClassesTakeNewFaults :
    Meets (fun d => ∃ t, exec (.fltAck 7) (st d) = .next t ∧ (t.dev.count (FLT_CNT.COUNT 2) 1).merged 65 0 0 = false) :=
  meets (dev [(pendField 2, 1), (⟨capKey 2 + 0x08, 31, 1, false⟩, 1)]) (by decide) (by decide) ⟨_, rfl, by decide⟩

/-! Background services, clocks and resets. -/

/-- The background services, enabled. -/
def bgs (ws : List (Field × Nat)) : Dev := chan 2 ([(PAGE_CTL.EN.page pageBGS, 1)] ++ ws)

set_option maxRecDepth 16000 in
theorem witness_ScrubbingSensorsAndTelemetry :
    Meets (fun d => d.open_ pageBGS = true ∧ d.bit BGS_SCRUB_CFG.EN = true) ∧
    Meets (fun d => d.open_ pageBGS = true ∧ d.bit BGS_SSCRUB_CFG.EN = true) ∧ 384 * 1024 - 1 < scrubSize 0x7F ∧
    2097152 - 1 < scrubSize 0xA0 ∧
    Meets (fun d => d.enabled pageBGS = true ∧ (List.replicate 16 (0 : Fin 1024)).length = 16 ∧ (List.replicate 8 (0 : Fin 65536)).length = 8) ∧
    Meets (fun d => d.enabled pageBGS = true ∧ d.bit BGS_TLM_CFG.EN = true ∧ d.frozen pageBGS = false ∧ d.dma.link.perst = false ∧
      d.bit PCI_LINK_STS.UP = true ∧ d.dma.link.busMaster = true) ∧
    Meets (fun d => d.enabled pageBGS = true ∧ d.bit BGS_TLM_CFG.EN = true ∧ d.dma.link.busMaster = false) :=
  ⟨meets (bgs [(BGS_SCRUB_CFG.EN, 1)]) (by decide) (by decide) (by decide),
   meets (bgs [(BGS_SSCRUB_CFG.EN, 1)]) (by decide) (by decide) (by decide), by decide, by decide,
   meets (bgs []) (by decide) (by decide) (by decide),
   meets ((bgs [(BGS_TLM_CFG.EN, 1), (PCI_LINK_STS.UP, 1)]).upLink (fun l => { l with perst := false, busMaster := true })) (by decide)
     (by decide) (by decide),
   meets (bgs [(BGS_TLM_CFG.EN, 1)]) (by decide) (by decide) (by decide)⟩

set_option maxRecDepth 16000 in
theorem witness_EyeSweeps :
    Meets (fun d => d.bit BGS_CAL_STS.BUSY = true) ∧
    Meets (fun d => d.bit BGS_CAL_STS.BUSY = false ∧ ((d.wr BGS_CAL_STS.HMC 31).wr BGS_CAL_STS.OPP_MOVED 0).hmcLost 31 = true) ∧
    Meets (fun d => d.bit BGS_CAL_STS.BUSY = false ∧ ((d.wr BGS_CAL_STS.HMC 31).wr BGS_CAL_STS.OPP_MOVED 0).hmcLost 31 = false) ∧
    Meets (fun d => d.bit BGS_CAL_STS.BUSY = true ∧ (d.ck (160 + d.rd BGS_CAL_STS.HMC)).waits ≠ none) ∧
    Meets (fun d => d.bit BGS_CAL_STS.BUSY = true ∧ d.open_ pageBGS = true) ∧
    Meets (fun d => d.service 2 = true ∧ d.bit BGS_CAL_STS.BUSY = false ∧ d.bgs.fresh = false ∧ d.bgs.again = [] ∧ d.warmed = none) :=
  ⟨meets (bgs [(BGS_CAL_STS.BUSY, 1)]) (by decide) (by decide) (by decide), meets (bgs []) (by decide) (by decide) (by decide),
   meets (bgs [(PAGE_CTL.EN.page (pageHMC 31), 1), (PAGE_CTL.EN.page (pageARB 31), 1), (HMC_CTL.SVC.on 31, 1)]) (by decide) (by decide)
     (by decide),
   meets ((bgs [(BGS_CAL_STS.BUSY, 1), (BGS_CAL_STS.HMC, 31)]).setCk 191 { Clk.reset with waits := some 9 }) (by decide) (by decide) (by decide),
   meets (bgs [(BGS_CAL_STS.BUSY, 1)]) (by decide) (by decide) (by decide), meets (bgs []) (by decide) (by decide) (by decide)⟩

theorem witness_PmbusTransactions :
    Meets (fun d => d.bit BGS_PMB_STS.BUSY = false) ∧ Meets (fun d => d.bit BGS_PMB_STS.BUSY = true ∧ d.bgs.pmb = 4) ∧
    Meets (fun d => d.bit BGS_PMB_STS.BUSY = true ∧ d.bgs.pmb = 5) ∧ Meets (fun d => d.bit BGS_PMB_STS.BUSY = true ∧ d.bgs.pmb < 4) :=
  ⟨meets (bgs []) (by decide) (by decide) (by decide),
   meets ((bgs [(BGS_PMB_STS.BUSY, 1)]).upBgs (fun b => { b with pmb := 4 })) (by decide) (by decide) (by decide),
   meets ((bgs [(BGS_PMB_STS.BUSY, 1)]).upBgs (fun b => { b with pmb := 5 })) (by decide) (by decide) (by decide),
   meets ((bgs [(BGS_PMB_STS.BUSY, 1)]).upBgs (fun b => { b with pmb := 3 })) (by decide) (by decide) (by decide)⟩

set_option maxRecDepth 32000 in
theorem witness_MarginsAndSpares :
    Meets (fun d => d.bit (ANT_STS.BUSY.on 220) = false ∧ (d.wr (ANT_STS.BUSY.on 220) 1).open_ (pageANT 220) = true ∧
      (d.wr (ANT_STS.BUSY.on 220) 1).changing 220 = false) ∧
    Meets (fun d => d.bit (ANT_STS.BUSY.on 220) = false ∧ (d.wr (ANT_STS.BUSY.on 220) 1).changing 220 = true) ∧
    Meets (fun d => d.measuring 220 = true ∧ (List.replicate 8 (0 : Fin 256)).length = 8) ∧
    Meets (fun d => d.service 2 = true ∧ d.pxeService 127 = 2 ∧ (d.px 127).op = .none ∧ d.bit (ANT_STS.BUSY.on 127) = false ∧
      bitAt (d.plan 127).flags 2 = false ∧ d.rd (PXE_STS.ST_RESULT.on 127) = 1 ∧ (d.plan 127).testing = true ∧ (d.plan 127).short = false ∧
      (d.plan 127).twice = false ∧ (d.plan 127).phase = 0 ∧ d.bit (ANT_STS.NOCLK.on 127) = false ∧ d.bit (ANT_STS.VALID.on 127) = true ∧
      25 ≤ d.rd (ANT_STS.SLACK.on 127)) ∧
    Meets (fun d => d.service 2 = true ∧ d.pxeService 127 = 2 ∧ (d.px 127).op = .none ∧ d.bit (ANT_STS.BUSY.on 127) = false ∧
      bitAt (d.plan 127).flags 2 = false ∧ d.rd (PXE_STS.ST_RESULT.on 127) = 2 ∧ (d.plan 127).testing = true ∧ (d.plan 127).short = false) ∧
    Meets (fun d => d.service 2 = true ∧ d.pxeService 127 = 2 ∧ (d.px 127).op = .none ∧ d.bit (ANT_STS.BUSY.on 127) = false ∧
      bitAt (d.plan 127).flags 2 = false ∧ d.rd (PXE_STS.ST_RESULT.on 127) = 0 ∧ d.pxeSpare 127 = false ∧ (d.replaceEngine 127).2 = true) :=
  ⟨meets (bgs [(PAGE_CTL.EN.page (pageANT 220), 1)]) (by decide) (by decide) (by decide),
   meets (bgs [(CLK_STS.CHANGING.on 220, 1)]) (by decide) (by decide) (by decide),
   meets (bgs [(ANT_STS.BUSY.on 220, 1)]) (by decide) (by decide) (by decide),
   meets ((bgs [(PXE_STS.SERVICE.on 127, 2), (PXE_STS.ST_RESULT.on 127, 1), (ANT_STS.VALID.on 127, 1), (ANT_STS.SLACK.on 127, 25)]).setPlan 127
     { Plan.reset with testing := true }) (by decide) (by decide) (by decide),
   meets ((bgs [(PXE_STS.SERVICE.on 127, 2), (PXE_STS.ST_RESULT.on 127, 2)]).setPlan 127 { Plan.reset with testing := true }) (by decide) (by decide)
     (by decide),
   meets (bgs [(PXE_STS.SERVICE.on 127, 2), (PAGE_CTL.EN.page (pagePXE 120), 1), (PXE_STS.SERVICE.on 120, 1), (PXE_STS.SPARE_ACT.on 120, 1)])
     (by decide) (by decide) (by decide)⟩

theorem witness_ClockDomains :
    clkNoVset 220 = false ∧ clkNoVset 127 = true ∧ Meets (fun d => (d.ck 220).target = some 32) ∧
    hasSynth 220 = true ∧ Meets (fun d => d.bit (CLK_STS.LOCK.on 220) = true) ∧ Meets (fun d => d.dma.link.perst = false) ∧
    Meets (fun d => d.dma.link.perst = true) :=
  ⟨by decide, by decide, meets ((bgs []).setCk 220 { Clk.reset with target := some 32 }) (by decide) (by decide) (by decide), by decide,
   meets (bgs [(CLK_STS.LOCK.on 220, 1)]) (by decide) (by decide) (by decide),
   meets ((bgs []).upLink (fun l => { l with perst := false })) (by decide) (by decide) (by decide),
   meets (bgs []) (by decide) (by decide) (by decide)⟩

theorem witness_ResetsAndTheirRelease :
    ((bgs []).upSec (fun x => { x with rst := 1 })).sec.rst = 1 ∧ (bgs []).sec.rst = 0 ∧
    (0xD0E4 : Fin 65536).val ≠ 0xD0E5 ∧ ((bgs []).upSec (fun x => { x with rst := 2 })).sec.rst = 2 := by decide

theorem witness_DeviceResetKeepsLinkAndStraps :
    Meets (fun d => ∃ t, exec (.deviceReset .sec 0xD0E5) (st d) = .next t) ∧ (∀ n, Requester.sec ≠ .herd n) :=
  ⟨meets (bgs []) (by decide) (by decide) ⟨_, rfl⟩, by simp⟩

/-! The security core. -/

/-- Fawn in a phase, with nothing else under way. -/
def fawn (p : SecPhase) (ws : List (Field × Nat)) : Dev := (bgs ws).upSec (fun x => { x with phase := p })
def dl0 : Download := { slot := 1, header := List.replicate 512 0 }

theorem three {α β γ : Type} (x : α × β × γ) : ∃ a b c, x = (a, b, c) := ⟨x.1, x.2.1, x.2.2, rfl⟩

set_option maxRecDepth 16000 in
theorem witness_ImagesAreDownloaded :
    Meets (fun d => d.sec.phase ≠ .stopped ∧ d.sec.dl = none ∧ d.bit SEC_BOOT_STS.TRIAL = false ∧ d.rd SEC_UPD_STS.STATE ≠ 1 ∧
      (([{ pos := 31, header := List.replicate 512 0, table := [], size := 512 }] : List SdFile).take 32).filter
        (fun x => fileReason d x == 0) = [] ∧
      d.bit (mbxBusy .host) = false ∧ ∃ r x d', d.activation (st d).env = (r, x, d')) ∧
    Meets (fun d => d.sec.phase ≠ .stopped ∧ d.sec.dl = some dl0) :=
  ⟨meets (fawn .running []) (by decide) (by decide) ⟨by decide, by decide, by decide, by decide, by decide, by decide, three _⟩,
   meets ((fawn .running []).upSec (fun x => { x with dl := some dl0 })) (by decide) (by decide) (by decide)⟩

/-- NOR whose slot 0 carries the marks 1 and 2: its image is confirmed. -/
def goodNor : List (Nat × Byte) :=
  let a := stateSector 0
  [(a, 1), (a + 1, 0), (a + 2, 0), (a + 3, 0), (a + 4, 0xFE), (a + 8, 0), (a + 9, 0), (a + 10, 0), (a + 11, 0),
   (a + 16, 2), (a + 17, 0), (a + 18, 0), (a + 19, 0), (a + 20, 0xFD), (a + 24, 0), (a + 25, 0), (a + 26, 0), (a + 27, 0)]

/-- `st d` with these bytes in NOR, an hour after reset. -/
def stNor (d : Dev) (nor : List (Nat × Byte)) : State :=
  { st d with time := 3600000000000 * 2 ^ 24, mem := { hbm := [], sram := [], nor := nor } }

theorem witness_FirmwareStartsAndIsConfirmed :
    Meets (fun d => d.sec.phase = .handover ∧ d.bit (mbxBusy .herd) = false) ∧
    Meets (fun d => d.sec.phase = .starting ∧ d.bit (mbxBusy .herd) = false) ∧
    ((stNor (fawn .running []) goodNor).Ready (fawn .running []) ∧ (stNor (fawn .running []) goodNor).mem.wf ∧
      (fawn .running []).bit (mbxBusy .herd) = false ∧
      (stNor (fawn .running []) goodNor).env.slotIs (fawn .running []) (fawn .running []).sec.slot = 2 ∧ (fawn .running []).safe = false ∧
      (fawn .running []).sec.startAt + clampNat 1 1440 60 * 60000000000 ≤ (stNor (fawn .running []) goodNor).now) ∧
    Meets (fun d => d.sec.phase = .running ∧ d.bit (mbxBusy .host) = false ∧ (st d).env.slotIs d d.sec.slot ≠ 2) :=
  ⟨meets (fawn .handover []) (by decide) (by decide) (by decide), meets (fawn .starting []) (by decide) (by decide) (by decide),
   ⟨⟨rfl, by decide, by decide⟩, by decide, by decide, by decide, by decide, by decide⟩,
   meets (fawn .running []) (by decide) (by decide) (by decide)⟩

/-- Words 0 to 3 of the firmware's SEC_MBX_DATA. -/
def secWord (k : Nat) : Field := ⟨mbxWord .herd k, 0, 32, false⟩

set_option maxRecDepth 16000 in
theorem witness_FirmwareReachesItsNor :
    Meets (fun d => d.sec.phase ≠ .stopped ∧ d.bit (mbxBusy .herd) = false ∧
      (∃ r x d', d.loadFrom .herd ((st d).env.slotBody d d.sec.slot) (List.range 16) = (r, x, d')) ∧
      inSettings (leNat (d.secData .herd 0 4)) (leNat (d.secData .herd 4 4)) = true ∧ leNat (d.secData .herd 4 4) ≤ 65536 ∧
      inSettings (leNat (d.secData .herd 0 4) / 65536 * 65536) 65536 = true) ∧
    Meets (fun d => d.sec.phase ≠ .stopped ∧ inSlot d.sec.slot (leNat (d.secData .herd 0 4)) (leNat (d.secData .herd 4 4)) = true) :=
  ⟨meets (fawn .running [(secWord 0, 0x03BFFFFF), (secWord 1, 1)]) (by decide) (by decide)
     ⟨by decide, by decide, three _, by decide, by decide, by decide⟩,
   meets (fawn .running [(secWord 0, slotBase 0), (secWord 1, 24 * 2 ^ 20)]) (by decide) (by decide) (by decide)⟩

theorem witness_EraseTouchesItsSectorOnly :
    Meets (fun d => (st d).mem.wf ∧ d.sec.phase ≠ .stopped ∧ d.bit (mbxBusy .herd) = false ∧
      inSettings (leNat (d.secData .herd 0 4) / 65536 * 65536) 65536 = true ∧ ∃ t, exec (.norErase .herd 9 false) (st d) = .next t) :=
  meets (fawn .running [(secWord 0, 0x03BFFFFF)]) (by decide) (by decide)
    ⟨by decide, by decide, by decide, by decide, _, by unfold exec execNorErase State.run; rfl⟩

theorem witness_DebugAccess :
    Meets (fun d => d.sec.phase ≠ .stopped ∧ d.bit (mbxBusy .host) = false ∧ d.rd SEC_LC.PW_FAILS < 5 ∧ d.sec.nonce = none) ∧
    Meets (fun d => d.sec.phase ≠ .stopped ∧ d.bit (mbxBusy .host) = false ∧ 5 ≤ d.rd SEC_LC.PW_FAILS ∧
      d.sec.nonce = some (List.replicate 32 0)) :=
  ⟨meets (fawn .running [(SEC_LC.PW_FAILS, 4)]) (by decide) (by decide) (by decide),
   meets ((fawn .running [(SEC_LC.PW_FAILS, 5)]).upSec (fun x => { x with nonce := some (List.replicate 32 0) })) (by decide) (by decide)
     (by decide)⟩

/-! Ill-formed commands: one for each check of `Instr.wf`. -/

theorem test_wf_registerWrite :
    Instr.wf (.registerWrite .host 2 false 0) = false ∧ Instr.wf (.registerWrite .host win0Size false 0) = false ∧
    Instr.wf (.registerWrite .host 0x68 false (2 ^ 32)) = false ∧ Instr.wf (.registerWrite .host 0x68 true (2 ^ 64)) = false ∧
    Instr.wf (.registerWrite .host 0x6C true 0) = false ∧ Instr.wf (.registerWrite .host 0x70 true (2 ^ 64 - 1)) = true := by decide

theorem test_wf_accesses :
    Instr.wf (.holeAccess true 0x40) = false ∧ Instr.wf (.holeAccess true win0Size) = false ∧ Instr.wf (.partialWrite win0Size) = false ∧
    Instr.wf (.oversizeHostAccess false win0Size) = false ∧ Instr.wf (.reg64LowRead ⟨0x62, 4⟩) = false ∧ Instr.wf (.reg64LowRead ⟨0x2000, 4⟩) = false ∧
    Instr.wf (.reg64LowRead ⟨0x60, 3⟩) = false ∧ Instr.wf (.reg64LowRead ⟨0x64, 8⟩) = false ∧ Instr.wf (.reg64LowRead ⟨0x63, 1⟩) = true ∧
    Instr.wf (.reg64LowWrite .host 0x71 0) = false ∧ Instr.wf (.reg64LowWrite .host 0x70 (2 ^ 32)) = false ∧
    Instr.wf (.reg64HighWrite .host 0x75 0) = false ∧ Instr.wf (.reg64HighWrite .host 0x74 (2 ^ 32)) = false := by decide

theorem test_wf_pages :
    Instr.wf (.evtSet ⟨.host, 0x2000⟩ 0) = false ∧ Instr.wf (.evtSet ⟨.host, 0⟩ (2 ^ 32)) = false ∧ Instr.wf (.pageEnable 0x100004 true) = false ∧
    Instr.wf (.softReset 0x2000) = false ∧ Instr.wf (.softResetComplete 0x2000) = false ∧ Instr.wf (.freeze 0x2000 true) = false ∧
    Instr.wf (.wrapHold ⟨.host, 0x2000⟩ true) = false ∧ Instr.wf (.pageEnable 0x100000 true) = true := by decide

theorem test_wf_values :
    Instr.wf (.admitBudgetWrite false (2 ^ 20)) = false ∧ Instr.wf (.machineCheck 0 0 (.entry 0) []) = false ∧
    Instr.wf (.eneUcStore 0 (2 ^ 16)) = false ∧ Instr.wf (.grpMinWrite (2 ^ 21)) = false ∧
    Instr.wf (.hbmRequest 0 { hbmReq with lock := true }) = false ∧ Instr.wf (.hbmRequest 0 { hbmReq with units := [] }) = false ∧
    Instr.wf (.faultCollect 511 0 0 0 0) = false ∧ Instr.wf (.faultCollect 1 0 0 0 (2 ^ 48)) = false ∧
    Instr.wf (.sramScrub 0xFF 0 0) = false ∧ Instr.wf (.sramScrub 0 (384 * 1024) 0) = false := by decide

theorem test_wf_data :
    Instr.wf (.frameReceive 0 [] ⟨true, 0, 0⟩) = false ∧ Instr.wf (.pfcFrame 0 0 [0]) = false ∧ Instr.wf (.win2Access 0 (.read 0)) = false ∧
    Instr.wf (.win2Access 0 (.read 4097)) = false ∧ Instr.wf (.win2Access 0 (.write [] false)) = false ∧
    Instr.wf (.win4Access 2 (.read 4)) = false ∧ Instr.wf (.win4Access 4 (.read 0)) = false ∧ Instr.wf (.descFetch 0 .h2d []) = false ∧
    Instr.wf (.calGatherDone []) = false ∧ Instr.wf (.calGatherDone (List.replicate 20 (2 ^ 64))) = false ∧
    Instr.wf (.sensorRead [] []) = false ∧ Instr.wf (.sensorRead (List.replicate 16 0) []) = false ∧ Instr.wf (.tlmSnapshot []) = false ∧
    Instr.wf (.measDone 0 ⟨[], false, 0, 0⟩) = false ∧ Instr.wf (.measDone 0 ⟨List.replicate 8 0, false, 2 ^ 32, 0⟩) = false ∧
    Instr.wf (.measDone 0 ⟨List.replicate 8 0, false, 0, 2 ^ 32⟩) = false ∧ Instr.wf (.sdScan [⟨0, [], [], 0⟩]) = false ∧
    Instr.wf (.downloadDone []) = false := by decide

theorem test_wf_frame_too_long (bs : List Byte) (h : bs.length = 2 ^ 16) : Instr.wf (.frameReceive 0 bs ⟨true, 0, 0⟩) = false := by
  simp [Instr.wf, h]

theorem test_wf_too_many_files (f : SdFile) : Instr.wf (.sdScan (List.replicate 33 f)) = false := by
  simp [Instr.wf]

/-! What the manual's worked examples say. -/

/-- CHN_40 of Orrin Valley (chapter "Rate and quality control", worked example): HEVC fast, 1080p60, CTU 64, one-row slices, PAR 1, TARGET
7,200 kbit/s, PEAK 12,000 kbit/s, BUF_MS 50. -/
def orrin : Dev :=
  dev [(CHN_PIC_SIZE.WIDTH.on 40, 1920), (CHN_PIC_SIZE.HEIGHT.on 40, 1080), (CHN_FRATE.NUM.on 40, 60), (CHN_FRATE.DEN.on 40, 1),
    (CHN_MODE.CLASS.on 40, 1), (CHN_ENC_STRUCT.SLICE_ROWS.on 40, 1), (CHN_ENC_STRUCT.PAR.on 40, 1), (CHN_RC_TARGET.RATE.on 40, 7200),
    (CHN_RC_PEAK.RATE.on 40, 12000), (CHN_RC_BUF.BUF_MS.on 40, 50)]

/-- "17 rows of 30 CTUs, the last row 56 lines high"; R101's table: slices of 64 lines and a slice period of 980 µs. -/
theorem test_orrin_slices :
    orrin.ctuRows 40 = 17 ∧ orrin.ctuCols 40 = 30 ∧ orrin.nSlices 40 = 17 ∧ orrin.lineTo 40 16 - orrin.lineFrom 40 16 = 56 ∧
    orrin.slicePeriod 40 / 1000 = 980 := by decide

/-- "Bmax is 12,000 × 50 ÷ 8 = 75,000 bytes"; "each one-row slice has a floor of 304 bytes, and the picture floor is 5,168". -/
theorem test_orrin_buffer_and_floors : orrin.bmax 40 = 75000 ∧ orrin.sliceFloor 40 3 = 304 ∧ orrin.picFloor 40 = 5168 := by decide

/-- "The overspend under R132 is 2,136, scheduled as 8 instalments of 267"; then "22,117, which is 8 × 2,764 + 5": the instalment of picture
n + 1 is 267, those of n + 2 and after 267 + 2,769 and 267 + 2,764, the last 2,764. -/
theorem test_orrin_instalments :
    addDebt [] 2136 = [267, 267, 267, 267, 267, 267, 267, 267] ∧
    addDebt [267, 267, 267, 267, 267, 267, 267] 22117 = [3036, 3031, 3031, 3031, 3031, 3031, 3031, 2764] := by decide

/-- R276: Chamois and raw layout stores of 1080p and 2160p. -/
theorem test_frame_stores :
    (chamOf 1920 1080 false false false).size = 3166208 ∧ (chamOf 1920 1080 true false false).size = 3952640 ∧
    (chamOf 3840 2160 true false false).size = 15773696 ∧ rawSize 1920 1080 false false = 3117056 ∧
    rawSize 1920 1080 true false = 6225920 ∧ rawSize 3840 2160 true false = 24883200 := by decide

/-! The default parse program (R327). -/

/-- A run of the default program at the depth of 128 on a frame that port 5 received. -/
def parse5 (bytes : List Byte) : Except Nat KelovoimEnd :=
  ParseEnv.kelovoim { bytes := bytes, port := 5, depth := 128, steps := 64, words := [], tables := [] }

/-- The outer headers of the deepest frame R327 names: four tags (the outermost VLAN 7), IPv6 and UDP to port 4789, VXLAN with VNI 9, then the
inner Ethernet addresses. -/
def deepOuter : List Byte :=
  List.replicate 12 2 ++ [0x81, 0, 0, 7] ++ [0x81, 0, 0, 1, 0x81, 0, 0, 2, 0x81, 0, 0, 3, 0x86, 0xDD] ++
  [0x60, 0, 0, 0, 0, 58, 17, 64] ++ List.replicate 32 1 ++ [0, 1, 0x12, 0xB5, 0, 58, 0, 0] ++ [8, 0, 0, 0, 0, 0, 9, 0] ++ List.replicate 12 4
/-- Inner IPv4 10.0.0.1 to 10.0.0.2, UDP 3 to 5, without payload. -/
def deepInner : List Byte :=
  [8, 0, 0x45, 0, 0, 28, 0, 0, 0, 0, 64, 17, 0x66, 0xcf, 10, 0, 0, 1, 10, 0, 0, 2, 0, 3, 0, 5, 0, 8, 0, 0]

set_option maxRecDepth 16000 in
/-- "At DEPTH 128, the deepest frame that parses": its 128 bytes end in a lookup of the inner flow, profile 1, with the key of R327. -/
theorem test_deepest_frame : (deepOuter ++ deepInner).length = 128 ∧ (match parse5 (deepOuter ++ deepInner) with
    | .ok x => x.result == .lookup && x.ofs == [100, 120, 128, 0] && x.key == [1, 0x4D, 0, 7, 0, 0, 0, 9, 0, 5, 0, 3] ++
        List.replicate 12 0 ++ [10, 0, 0, 2] ++ List.replicate 8 0 ++ [10, 0, 0, 1]
    | .error _ => false) = true := by decide

set_option maxRecDepth 16000 in
/-- "Inner IPv6 behind VXLAN ends DEPTH"; a fifth tag ends TAGS; PTP goes to punt queue 0 with CODE 1. -/
theorem test_default_program_ends :
    (match parse5 (deepOuter ++ [0x86, 0xDD, 0x60] ++ List.replicate 60 0) with | .ok _ => 0 | .error r => r) = 4 ∧
    (match parse5 (List.replicate 12 2 ++ (List.replicate 5 [0x81, 0, 0, 1]).flatten ++ [8, 0]) with | .ok _ => 0 | .error r => r) = 9 ∧
    (match parse5 (List.replicate 12 2 ++ [0x88, 0xF7]) with | .ok x => x.result == .punt 0 1 && x.code == 1 | .error _ => false) = true := by
  decide

/-! Single steps. -/

/-- R33: the first access to a hole is recorded and reads 0. -/
theorem test_hole_read : ∃ t, exec (.holeAccess false 0x2000) (st (dev [])) = .next t ∧ t.dev.bit GLB_ACC_STS.HOLE = true ∧
    t.dev.rd GLB_ACC_ADDR.OFFSET = 0x2000 := ⟨_, rfl, by decide, by decide⟩

/-- R42: a time increment of 0x0400_0000 is 4 ns, so a tick at time 0 leaves 4 ns; with its clock stopped the counter stands. -/
theorem test_tick : (∃ t, step (st (dev [timeRuns])) = .next t ∧ t.now = 4) ∧ ∃ t, step (st (dev [])) = .next t ∧ t.now = 0 :=
  ⟨⟨_, rfl, by decide⟩, _, rfl, by decide⟩

/-- R430: the bytes of the console leave in the order they were written. -/
theorem test_uart_order : ∃ t, exec .uartByteSent (st ((dev [(HCC_UART_CFG.EN, 1)]).upHerd (fun h => { h with txFifo := [0x41, 0x42] }))) =
    .next t ∧ t.dev.herd.txFifo = [0x42] ∧ t.dev.out = [.uart 0x41] := ⟨_, rfl, by decide, by decide⟩

/-- R536: with the system reference clock lost the machine stops; in a power-on reset it does not. -/
theorem test_refclk_loss : exec (.refclkLoss .sys) (st (dev [])) = .fault .outsideConditions ∧
    exec (.refclkLoss .sys) (st ((dev []).upSec (fun x => { x with rst := 1 }))) =
      .next (st ((dev []).upSec (fun x => { x with rst := 1 }))) := ⟨rfl, rfl⟩

/-- R527: a device reset is asked for with the key 0xD0E5 and names its requester; a core of the Herd cannot ask. -/
theorem test_device_reset : (∃ t, exec (.deviceReset .sec 0xD0E5) (st (dev [])) = .next t ∧ t.dev.rd rstCause = 4) ∧
    exec (.deviceReset .host 0xD0E4) (st (dev [])) = .next (st (dev [])) ∧
    exec (.deviceReset (.herd 0) 0xD0E5) (st (dev [])) = .next (st (dev [])) := ⟨⟨_, rfl, by decide⟩, rfl, rfl⟩

end Sys2Proof.Tests
end

section
/-! What a step does to the machine as a whole: the queue, device time and the canonical form of the memories. -/

namespace Sys2Proof.Machine

/-! Device time jumps and ticks. -/

@[simp] theorem State.jump_pending (s : State) (x : Nat) : (s.jump x).pending = s.pending := (rfl)
@[simp] theorem State.jump_time (s : State) (x : Nat) : (s.jump x).time = x := (rfl)
@[simp] theorem State.jump_mem (s : State) (x : Nat) : (s.jump x).mem = s.mem := (rfl)
@[simp] theorem State.jump_posted (s : State) (x : Nat) : (s.jump x).dev.posted = s.dev.posted := (rfl)

/-- A whole number of ns that 64 bits hold, with a fraction, fits the counter. -/
theorem counter_lt {ns frac : Nat} (h : ns < 2 ^ 64) (hf : frac < 2 ^ 24) : ns * 2 ^ 24 + frac < 2 ^ 88 := by omega

theorem State.setTime_eq_jump (s : State) (load : Bool) : ∃ x < 2 ^ 88, s.setTime load = s.jump x := by
  refine ⟨_, ?_, rfl⟩
  split
  · exact Nat.mul_lt_mul_of_pos_right (s.dev.rd_lt GLB_TIME_SET.SET) (by decide)
  · exact counter_lt (Nat.mod_lt _ (by decide)) (Nat.mod_lt _ (by decide))

theorem State.timeBack_pending (s : State) : s.timeBack.pending = s.pending := by
  unfold State.timeBack
  split
  · rfl
  · split <;> rfl

/-- GLB_TIME_CMD leaves the machine, acts on its device, or sets device time. -/
theorem State.timeCmd_cases (s : State) (load : Bool) : Acts (s.timeCmd load) s ∨ s.timeCmd load = .next (s.setTime load) := by
  unfold State.timeCmd
  split
  · exact .inl (.inl rfl)
  · split
    · exact .inl (acts_run _ _)
    · split
      · exact .inr rfl
      · exact .inl (acts_run _ _)

/-- A relock leaves the machine, or acts on its device and then lets a waiting GLB_TIME_CMD set device time. -/
theorem execSynthesiserRelock_cases (dom : Fin 221) (s : State) : execSynthesiserRelock dom s = .next s ∨
    ∃ f, execSynthesiserRelock dom s = .next (s.act f).timeBack := by
  unfold execSynthesiserRelock
  split
  · exact .inl rfl
  · exact .inr ⟨_, rfl⟩

/-- A lost reference leaves the machine, acts on its device, or stops it. -/
theorem execRefclkLoss_cases (ref : RefClk) (s : State) : Acts (execRefclkLoss ref s) s ∨ execRefclkLoss ref s = .fault .outsideConditions := by
  cases ref with
  | eth | pcie => exact .inl (acts_run _ _)
  | sys | xtal =>
    simp only [execRefclkLoss]
    split
    · exact .inl (.inl rfl)
    · exact .inr rfl

/-- What a command makes of the machine: nothing; an act on its device; device time set, at once or after the relock it waited for; or a
reset. -/
inductive Effect (s : State) : State → Prop
  | same : Effect s s
  | act (f : Env → Dev → Dev) : Effect s (s.act f)
  | setTime (load : Bool) : Effect s (s.setTime load)
  | relock (f : Env → Dev → Dev) : Effect s (s.act f).timeBack
  | powerOn : Effect s { s with time := 0, mem := { s.mem with hbm := [], sram := [] }, dev := (s.dev.afterReset 1).wr rstCause 1 }
  | device (cause : Nat) : Effect s { s with time := 0, dev := s.dev.deviceReset cause }

theorem Acts.effect {s t : State} {o : Host.Outcome State Fault Refusal} (ha : Acts o s) (ht : o = .next t) : Effect s t := by
  obtain ha | ⟨f, ha⟩ := ha <;> cases ha.symm.trans ht
  · exact .same
  · exact .act f

theorem State.timeCmd_effect {s t : State} {load : Bool} (ht : s.timeCmd load = .next t) : Effect s t := by
  obtain ha | ha := s.timeCmd_cases load
  · exact ha.effect ht
  · cases ha.symm.trans ht
    exact .setTime load

/-- Every command that does not stop has one of the effects. -/
theorem exec_effect {c : Instr} {s t : State} (ht : exec c s = .next t) : Effect s t := by
  by_cases hc : Special c
  · cases c
    case timeLoad | timeStep => exact State.timeCmd_effect ht
    case synthesiserRelock dom =>
      obtain e | ⟨f, e⟩ := execSynthesiserRelock_cases dom s <;> cases e.symm.trans ht
      · exact .same
      · exact .relock f
    case porstAssert => cases ht; exact .powerOn
    case deviceReset rq key =>
      obtain e | ⟨cause, e⟩ := exec_deviceReset_cases rq key s <;> cases e.symm.trans ht
      · exact .same
      · exact .device cause
    case refclkLoss ref =>
      obtain ha | e := execRefclkLoss_cases ref s
      · exact ha.effect ht
      · cases e.symm.trans ht
    all_goals exact hc.elim
  · exact (exec_acts c s hc).effect ht

/-! Sound states. -/

theorem storeWf_nil {α : Type} (d : Nat → α) : storeWf d [] := ⟨List.Pairwise.nil, by simp⟩

theorem State.Sound.act {s : State} (h : s.Sound) (f : Env → Dev → Dev) : (s.act f).Sound := ⟨s.act_wf f h.mem, rfl, h.time⟩

theorem State.Sound.jump {s : State} (h : s.Sound) {x : Nat} (hx : x < 2 ^ 88) : (s.jump x).Sound := ⟨h.mem, h.posted, hx⟩

theorem State.Sound.setTime {s : State} (h : s.Sound) (load : Bool) : (s.setTime load).Sound := by
  obtain ⟨x, hx, e⟩ := s.setTime_eq_jump load
  exact e ▸ h.jump hx

theorem State.Sound.timeBack {s : State} (h : s.Sound) : s.timeBack.Sound := by
  unfold State.timeBack
  split
  · exact h
  · split
    · have hd : State.Sound { s with dev := { s.dev with liveHeld := storeDel timeKey s.dev.liveHeld } } := ⟨h.mem, h.posted, h.time⟩
      exact hd.setTime _
    · exact h

theorem State.Sound.tick {s : State} (h : s.Sound) : s.tick.Sound := by
  unfold State.tick
  split
  · exact h
  · refine ⟨h.mem, ?_, Nat.mod_lt _ (by decide)⟩
    dsimp only
    split <;> exact h.posted

/-- Every effect keeps a sound state sound: a reset empties memories and posts nothing, device time set fits the counter. -/
theorem Effect.sound {s t : State} (e : Effect s t) (h : s.Sound) : t.Sound := by
  cases e with
  | same => exact h
  | act f => exact h.act f
  | setTime load => exact h.setTime load
  | relock f => exact (h.act f).timeBack
  | powerOn =>
    obtain ⟨_, _, hnor⟩ := h.mem
    exact ⟨⟨storeWf_nil _, storeWf_nil _, hnor⟩, by simp, by simp⟩
  | device cause => exact ⟨h.mem, s.dev.deviceReset_posted cause, by simp⟩

/-- Settles O3: a tick and every effect of a command keep a sound state sound. -/
theorem stepKeepsSound : Obligations.StepKeepsSound := by
  intro s t h ht
  unfold step at ht
  split at ht
  · cases ht
    exact h.tick
  · rename_i c r _
    have hr : State.Sound { s with pending := r } := ⟨h.mem, h.posted, h.time⟩
    exact (exec_effect ht).sound hr

/-! The queue and device time. -/

theorem Effect.pending {s t : State} (e : Effect s t) : t.pending = s.pending := by
  cases e with
  | relock f => exact State.timeBack_pending _
  | same | act f | setTime load | powerOn | device cause => rfl

theorem Acts.time {s t : State} {o : Host.Outcome State Fault Refusal} (ha : Acts o s) (ht : o = .next t) : t.time = s.time := by
  obtain ha | ⟨f, ha⟩ := ha <;> cases ha.symm.trans ht <;> rfl

/-- The commands that set device time: GLB_TIME_CMD, at once or when its clock is back, and the two resets. -/
def MovesTime : Instr → Prop
  | .timeLoad | .timeStep | .synthesiserRelock _ | .porstAssert | .deviceReset _ _ => True
  | _ => False

theorem exec_time {c : Instr} {s t : State} (hc : ¬ MovesTime c) (ht : exec c s = .next t) : t.time = s.time := by
  by_cases hs : Special c
  · cases c
    case refclkLoss ref =>
      obtain ha | e := execRefclkLoss_cases ref s
      · exact ha.time ht
      · cases e.symm.trans ht
    case timeLoad | timeStep | synthesiserRelock | porstAssert | deviceReset => exact absurd trivial hc
    all_goals exact hs.elim
  · exact (exec_acts c s hs).time ht

/-- Settles O6: no effect touches the queue, and only the commands of `MovesTime` touch device time. -/
theorem commandsLeaveTheQueueAndDeviceTime : Obligations.CommandsLeaveTheQueueAndDeviceTime := by
  intro c s t ht
  refine ⟨(exec_effect ht).pending, fun hload hstep hrelock hporst hreset => exec_time (fun hc => ?_) ht⟩
  cases c
  case timeLoad => exact hload rfl
  case timeStep => exact hstep rfl
  case synthesiserRelock dom => exact hrelock dom rfl
  case porstAssert => exact hporst rfl
  case deviceReset rq key => exact hreset rq key rfl
  all_goals exact hc.elim

/-! Ticks, and GLB_TIME_CMD. -/

theorem State.step_idle {s : State} (h : s.pending = []) : step s = .next s.tick := by unfold step; rw [h]

/-- While the time clock runs a tick advances the counter, and PPS_OUT falls where its time has come. -/
theorem State.Ready.tick {s : State} {d : Dev} (h : s.Ready d) (hc : d.clockRuns 211 = true) : s.tick =
    { s with
      time := (s.time + d.rd GLB_TIME_INC.INC) % 2 ^ 88
      dev := if d.net.ppsEnd.any (fun e => e ≤ (s.time + d.rd GLB_TIME_INC.INC) % 2 ^ 88 / 2 ^ 24) then
        (d.upNet (fun n => { n with ppsEnd := none })).send (.ppsOut false) else d } := by
  obtain ⟨rfl, hr, -⟩ := h
  unfold State.tick
  rw [if_neg (by simp [hr, hc])]

/-- Settles O2: by whether the clock of domain 211 runs, and whether PPS_OUT is due to fall. -/
theorem emptyQueueTicksDeviceTime : Obligations.EmptyQueueTicksDeviceTime := by
  intro s d h hp
  rw [State.step_idle hp]
  refine ⟨fun hc => ?_, fun hc => ?_⟩
  · obtain ⟨rfl, -, -⟩ := h
    unfold State.tick
    rw [if_pos (.inr hc)]
  · rw [h.tick hc]
    refine ⟨fun he => ?_, fun e he hlt => ?_, fun e he hle => ?_⟩
    · simp [he, h.dev]
    · have hn : (some e).any (fun e => e ≤ (s.time + d.rd GLB_TIME_INC.INC) % 2 ^ 88 / 2 ^ 24) = false := decide_eq_false (Nat.not_le.2 hlt)
      rw [he, hn, if_neg Bool.false_ne_true, h.dev]
    · have hy : (some e).any (fun e => e ≤ (s.time + d.rd GLB_TIME_INC.INC) % 2 ^ 88 / 2 ^ 24) = true := decide_eq_true hle
      rw [he, hy, if_pos rfl]

theorem State.Ready.timeCmd_ignored {s : State} {d : Dev} (h : s.Ready d) (load : Bool) (hi : d.glbIdle = false) :
    s.timeCmd load = .next (s.withDev (d.ignored pageGLB 0x078)) := by
  obtain ⟨rfl, hr, hp⟩ := id h
  simp [State.timeCmd, hr, hi, h.run, hp]

theorem State.Ready.timeCmd_held {s : State} {d : Dev} (h : s.Ready d) (load : Bool) (hi : d.glbIdle = true) (hc : d.clockRuns 211 = false) :
    s.timeCmd load = .next (s.withDev (d.holdLive timeKey 3 (if load then 1 else 2) 0)) := by
  obtain ⟨rfl, hr, hp⟩ := id h
  have hm : maskOf 1 0 = 3 := by decide
  simp [State.timeCmd, hr, hi, hc, h.run, hp, hm]

theorem State.Ready.timeCmd_set {s : State} {d : Dev} (h : s.Ready d) (load : Bool) (hi : d.glbIdle = true) (hc : d.clockRuns 211 = true) :
    s.timeCmd load = .next (s.setTime load) := by
  obtain ⟨rfl, hr, -⟩ := h
  simp [State.timeCmd, hr, hi, hc]

theorem State.jump_now (s : State) {ns frac : Nat} (hf : frac < 2 ^ 24) : (s.jump (ns * 2 ^ 24 + frac)).now = ns := by
  unfold State.now
  rw [State.jump_time]
  omega

/-- Settles O16: the three outcomes of GLB_TIME_CMD, and what the counter shows after a jump. -/
theorem deviceTimeIsLoadedAndStepped : Obligations.DeviceTimeIsLoadedAndStepped := by
  intro s d h
  have hd := h.dev
  refine ⟨fun hi hc => ⟨?_, ?_⟩, fun hi hc => ⟨h.timeCmd_held true hi hc, h.timeCmd_held false hi hc⟩, fun hi hc => ⟨?_, ?_⟩,
    fun hi => ⟨h.timeCmd_ignored true hi, h.timeCmd_ignored false hi⟩⟩
  · exact hd ▸ h.timeCmd_set true hi hc
  · have hn := s.jump_now (ns := d.rd GLB_TIME_SET.SET) (frac := 0) (by decide)
    rwa [Nat.add_zero] at hn
  · exact hd ▸ h.timeCmd_set false hi hc
  · exact s.jump_now (Nat.mod_lt _ (by decide))

end Sys2Proof.Machine
end

section
/-! Accesses to WIN0: what is recorded of a bad one, and the device that each access leaves. -/

namespace Sys2Proof.Machine

/-! One-bit fields through writes of other fields. -/

theorem Dev.bit_wr_word (d : Dev) (f g : Field) (v : Nat) (hf : f.wide = false) (hg : g.wide = false) (h : f.base ≠ g.base) :
    (d.wr f v).bit g = d.bit g := by unfold Dev.bit; rw [d.rd_wr_word f g v hf hg h]

theorem Dev.bit_wr_beside (d : Dev) (f g : Field) (v : Nat) (hf : f.wide = false) (hg : g.wide = false) (h : f.base = g.base)
    (hl : f.lsb + f.width ≤ 32) (hd : f.lsb + f.width ≤ g.lsb ∨ g.lsb + g.width ≤ f.lsb) : (d.wr f v).bit g = d.bit g := by
  unfold Dev.bit; rw [d.rd_wr_beside f g v hf hg h hl hd]

/-! A field written where a condition holds. -/

/-- The field takes the value where `b` holds. -/
def Dev.wrIf (d : Dev) (b : Bool) (f : Field) (v : Nat) : Dev := if b then d.wr f v else d

theorem Dev.rd_wrIf_word (d : Dev) (b : Bool) (f g : Field) (v : Nat) (hf : f.wide = false) (hg : g.wide = false) (h : f.base ≠ g.base) :
    (d.wrIf b f v).rd g = d.rd g := by
  unfold Dev.wrIf
  split
  · exact d.rd_wr_word f g v hf hg h
  · rfl

theorem Dev.bit_wrIf_word (d : Dev) (b : Bool) (f g : Field) (v : Nat) (hf : f.wide = false) (hg : g.wide = false) (h : f.base ≠ g.base) :
    (d.wrIf b f v).bit g = d.bit g := by
  unfold Dev.wrIf
  split
  · exact d.bit_wr_word f g v hf hg h
  · rfl

theorem Dev.bit_wrIf_beside (d : Dev) (b : Bool) (f g : Field) (v : Nat) (hf : f.wide = false) (hg : g.wide = false)
    (h : f.base = g.base) (hl : f.lsb + f.width ≤ 32) (hd : f.lsb + f.width ≤ g.lsb ∨ g.lsb + g.width ≤ f.lsb) :
    (d.wrIf b f v).bit g = d.bit g := by
  unfold Dev.wrIf
  split
  · exact d.bit_wr_beside f g v hf hg h hl hd
  · rfl

theorem Dev.word_wrIf_ne (d : Dev) (b : Bool) (f : Field) (v : Nat) {k : Nat} (hf : f.wide = false) (h : f.base ≠ k) :
    (d.wrIf b f v).word k = d.word k := by
  unfold Dev.wrIf
  split
  · exact d.word_wr_ne f v h (by simp [hf])
  · rfl

theorem Dev.bit_wrIf_one (d : Dev) (b : Bool) (f : Field) (hw : f.wide = false) (h1 : f.width = 1) (h : f.lsb + f.width ≤ 32) :
    (d.wrIf b f 1).bit f = (d.bit f || b) := by
  unfold Dev.wrIf
  cases b with
  | true => simp [d.bit_wr_one f hw h1 h]
  | false => simp

/-! The access record (R42). -/

theorem Dev.recordAccess_eq (d : Dev) (hole part : Bool) (off : Nat) : d.recordAccess hole part off =
    ((d.wrIf (!(d.bit GLB_ACC_STS.HOLE || d.bit GLB_ACC_STS.PARTIAL)) GLB_ACC_ADDR.OFFSET off).wrIf hole GLB_ACC_STS.HOLE 1).wrIf part
      GLB_ACC_STS.PARTIAL 1 := by
  unfold Dev.recordAccess Dev.wrIf
  cases d.bit GLB_ACC_STS.HOLE || d.bit GLB_ACC_STS.PARTIAL <;> rfl

theorem Dev.recordAccess_hole (d : Dev) (hole part : Bool) (off : Nat) :
    (d.recordAccess hole part off).bit GLB_ACC_STS.HOLE = (d.bit GLB_ACC_STS.HOLE || hole) := by
  rw [Dev.recordAccess_eq, Dev.bit_wrIf_beside _ _ GLB_ACC_STS.PARTIAL GLB_ACC_STS.HOLE _ rfl rfl rfl (by decide) (by decide),
    Dev.bit_wrIf_one _ _ _ rfl rfl (by decide), Dev.bit_wrIf_word _ _ _ _ _ rfl rfl (by decide)]

theorem Dev.recordAccess_partial (d : Dev) (hole part : Bool) (off : Nat) :
    (d.recordAccess hole part off).bit GLB_ACC_STS.PARTIAL = (d.bit GLB_ACC_STS.PARTIAL || part) := by
  rw [Dev.recordAccess_eq, Dev.bit_wrIf_one _ _ _ rfl rfl (by decide),
    Dev.bit_wrIf_beside _ _ GLB_ACC_STS.HOLE GLB_ACC_STS.PARTIAL _ rfl rfl rfl (by decide) (by decide), Dev.bit_wrIf_word _ _ _ _ _ rfl rfl (by decide)]

/-- Where neither bit was set the offset is recorded, otherwise it stays. -/
theorem Dev.recordAccess_offset (d : Dev) (hole part : Bool) (off : Nat) : (d.recordAccess hole part off).rd GLB_ACC_ADDR.OFFSET =
    if d.bit GLB_ACC_STS.HOLE || d.bit GLB_ACC_STS.PARTIAL then d.rd GLB_ACC_ADDR.OFFSET else off % 2 ^ 32 := by
  rw [Dev.recordAccess_eq, Dev.rd_wrIf_word _ _ _ _ _ rfl rfl (by decide), Dev.rd_wrIf_word _ _ _ _ _ rfl rfl (by decide)]
  unfold Dev.wrIf
  cases d.bit GLB_ACC_STS.HOLE || d.bit GLB_ACC_STS.PARTIAL with
  | true => rfl
  | false => exact d.rd_wr_self GLB_ACC_ADDR.OFFSET off rfl (by decide)

theorem Dev.recordAccess_word (d : Dev) (hole part : Bool) (off : Nat) {k : Nat} (h0 : k ≠ 0x80) (h4 : k ≠ 0x84) :
    (d.recordAccess hole part off).word k = d.word k := by
  rw [Dev.recordAccess_eq, Dev.word_wrIf_ne _ _ _ _ rfl h0.symm, Dev.word_wrIf_ne _ _ _ _ rfl h0.symm,
    Dev.word_wrIf_ne _ _ _ _ rfl h4.symm]

/-! What the accesses answer out of reset. -/

section
variable {s : State} {d : Dev} (h : s.Ready d)
include h

theorem State.Ready.holeWrite {off : Nat} (hp : pageOf off = none) :
    exec (.holeAccess true off) s = .next (s.withDev (d.recordAccess true false off)) := by
  change execHoleAccess true off s = _
  simp [execHoleAccess, h.run, hp, h.posted]

theorem State.Ready.holeRead {off : Nat} (hp : pageOf off = none) :
    exec (.holeAccess false off) s = .next (s.withDev ((d.recordAccess true false off).send (.readData [0, 0, 0, 0] false))) := by
  change execHoleAccess false off s = _
  simp [execHoleAccess, h.runRead, hp, h.posted, natLE]

theorem State.Ready.partialWrite (off : Nat) :
    exec (.partialWrite off) s = .next (s.withDev (d.recordAccess (pageOf off).isNone true off)) := by
  change execPartialWrite off s = _
  simp [execPartialWrite, h.run, h.posted]

theorem State.Ready.oversizeWrite (off : Nat) :
    exec (.oversizeHostAccess true off) s = .next (s.withDev (d.recordAccess (pageOf off).isNone true off)) := by
  change execOversizeHostAccess true off s = _
  simp [execOversizeHostAccess, h.run, h.posted]

theorem State.Ready.oversizeRead (off : Nat) : exec (.oversizeHostAccess false off) s =
    .next (s.withDev ((d.recordAccess (pageOf off).isNone true off).send (.readData [0, 0, 0, 0] false))) := by
  change execOversizeHostAccess false off s = _
  simp [execOversizeHostAccess, h.runRead, h.posted, natLE]

/-- A bad access records itself, and leaves the registers beside the record as they are. -/
theorem State.Ready.badAccess {t : State} {off : Nat} {c : Instr}
    (hc : c = .holeAccess true off ∨ c = .holeAccess false off ∨ c = .partialWrite off ∨ c = .oversizeHostAccess true off ∨
      c = .oversizeHostAccess false off)
    (hp : c = .holeAccess true off ∨ c = .holeAccess false off → pageOf off = none) (ht : exec c s = .next t) :
    ∃ e part, t = s.withDev e ∧ (part = true ↔ c ≠ .holeAccess true off ∧ c ≠ .holeAccess false off) ∧
      e.regs = (d.recordAccess (pageOf off).isNone part off).regs := by
  rcases hc with rfl | rfl | rfl | rfl | rfl
  · have hn := hp (.inl rfl)
    cases (h.holeWrite hn).symm.trans ht
    exact ⟨_, false, rfl, by simp, by rw [hn]; rfl⟩
  · have hn := hp (.inr rfl)
    cases (h.holeRead hn).symm.trans ht
    exact ⟨_, false, rfl, by simp, by rw [hn]; rfl⟩
  · cases (h.partialWrite off).symm.trans ht
    exact ⟨_, true, rfl, by simp, rfl⟩
  · cases (h.oversizeWrite off).symm.trans ht
    exact ⟨_, true, rfl, by simp, rfl⟩
  · cases (h.oversizeRead off).symm.trans ht
    exact ⟨_, true, rfl, by simp, rfl⟩

end

/-- Settles O10: every bad access leaves the registers of `recordAccess`. -/
theorem firstBadAccessIsRecorded : Obligations.FirstBadAccessIsRecorded := by
  intro s t d off c h hc hp ht
  obtain ⟨e, part, rfl, hpart, hregs⟩ := h.badAccess hc hp ht
  have hbit : ∀ f, e.bit f = (d.recordAccess (pageOf off).isNone part off).bit f := fun f => by unfold Dev.bit; rw [Dev.rd_congr hregs]
  simp only [State.withDev_dev, Dev.rd_congr hregs, Dev.word_congr hregs, hbit, Dev.recordAccess_offset, Dev.recordAccess_hole,
    Dev.recordAccess_partial]
  refine ⟨fun hh hq => by simp [hh, hq], fun hb => by simp [hb], by simp, by simp [hpart], fun k h0 h4 => Dev.recordAccess_word _ _ _ _ h0 h4,
    rfl, rfl⟩

end Sys2Proof.Machine
end

section
/-! Reads and writes of registers through WIN0. -/

namespace Sys2Proof.Machine

theorem word_aligned {a : Nat} (h : a % 4 = 0) : a / 4 * 4 = a := by omega

theorem Dev.busWrite_page (d : Dev) {a : Nat} (now : Nat) (rq : Requester) (v : Word) (hp : pageOf a ≠ none) :
    d.busWrite now rq a v = d.write32 now rq a v := by
  unfold Dev.busWrite
  rw [if_neg (by simpa using hp)]

theorem pageOf_of_half {a : Nat} (h : halfAt a ≠ .single) : pageOf a ≠ none := by
  intro hp
  exact h (by unfold halfAt; rw [hp])

theorem Dev.write32_single (d : Dev) {a : Nat} (now : Nat) (rq : Requester) (v : Word) (hh : halfAt a = .single) :
    d.write32 now rq a v = d.writeWord now rq a (a % 0x1000) v := by
  unfold Dev.write32
  rw [hh]

theorem Dev.write32_low (d : Dev) {a : Nat} (now : Nat) (rq : Requester) (v : Word) (hh : halfAt a = .low) (hw : mayWriteAt rq a = true) :
    d.write32 now rq a v = { d with lowHeld := storeIns a v d.lowHeld } := by
  unfold Dev.write32
  rw [hh]
  exact if_pos hw

theorem Dev.write32_high (d : Dev) {a : Nat} (now : Nat) (rq : Requester) (v low : Word) (hh : halfAt a = .high)
    (hw : mayWriteAt rq a = true) (hl : storeFind d.lowHeld (a - 4) = some low) : d.write32 now rq a v =
      ({ d with lowHeld := storeDel (a - 4) d.lowHeld }.writeWord now rq (a - 4) (a % 0x1000) low).writeWord now rq a (a % 0x1000) v := by
  unfold Dev.write32
  rw [hh]
  simp only [hw, hl, Bool.not_true, Bool.false_eq_true, if_false]

theorem Dev.readHold_low (d : Dev) {a i : Nat} {pg : Pg} (now : Nat) (ha : a % 4 = 0) (hp : pageOf a = some (pg, i))
    (hl : isLowWord pg (a % 0x1000) = true) : d.readHold now a = (d.read32 now a, { d with
      readHeld := storeIns (a + 4) (d.read32 now (a + 4)) (d.readHeld.filter (fun e => pageBase e.1 != pageBase a)) }) := by
  simp [Dev.readHold, word_aligned ha, hp, hl]

theorem Dev.readHold_held (d : Dev) {a i : Nat} {pg : Pg} {v : Word} (now : Nat) (ha : a % 4 = 0) (hp : pageOf a = some (pg, i))
    (hl : isLowWord pg (a % 0x1000) = false) (hf : storeFind d.readHeld a = some v) :
    d.readHold now a = (v, { d with readHeld := storeDel a d.readHeld }) := by
  simp [Dev.readHold, word_aligned ha, hp, hl, hf]

theorem Dev.readHold_none (d : Dev) {a i : Nat} {pg : Pg} (now : Nat) (ha : a % 4 = 0) (hp : pageOf a = some (pg, i))
    (hl : isLowWord pg (a % 0x1000) = false) (hf : storeFind d.readHeld a = none) : d.readHold now a = (d.read32 now a, d) := by
  simp [Dev.readHold, word_aligned ha, hp, hl, hf]

section
variable {s : State} {d : Dev} (h : s.Ready d)
include h

theorem State.Ready.registerWrite (rq : Requester) {a : Nat} (data : Nat) (ha : a % 4 = 0) :
    exec (.registerWrite rq a false data) s = .next (s.after (d.busWrite s.now rq a (BitVec.ofNat 32 data))) := by
  change execRegisterWrite rq a false data s = _
  simp [execRegisterWrite, h.run, word_aligned ha]

theorem State.Ready.registerWrite_single (rq : Requester) {a : Nat} (data : Nat) (ha : a % 4 = 0) (hp : pageOf a ≠ none)
    (hh : halfAt a = .single) : exec (.registerWrite rq a false data) s =
      .next (s.after (d.writeWord s.now rq a (a % 0x1000) (BitVec.ofNat 32 data))) := by
  rw [h.registerWrite rq data ha, Dev.busWrite_page _ _ _ _ hp, Dev.write32_single _ _ _ _ hh]

theorem State.Ready.registerWrite_wide (rq : Requester) {a : Nat} (data : Nat) (ha : a % 4 = 0) :
    exec (.registerWrite rq a true data) s = .next (s.after
      ((d.busWrite s.now rq a (BitVec.ofNat 32 data)).busWrite s.now rq (a + 4) (BitVec.ofNat 32 (data / 2 ^ 32)))) := by
  change execRegisterWrite rq a true data s = _
  simp [execRegisterWrite, h.run, word_aligned ha]

theorem State.Ready.lowWrite (rq : Requester) {a : Nat} (data : Nat) (ha : a % 4 = 0) (hh : halfAt a = .low)
    (hw : mayWriteAt rq a = true) : exec (.reg64LowWrite rq a data) s =
      .next (s.withDev { d with lowHeld := storeIns a (BitVec.ofNat 32 data) d.lowHeld }) := by
  change execReg64LowWrite rq a data s = _
  have hp : pageOf a ≠ none := pageOf_of_half (by simp [hh])
  simp [execReg64LowWrite, h.run, word_aligned ha, Dev.busWrite_page _ _ _ _ hp, Dev.write32_low _ _ _ _ hh hw, h.posted]

theorem State.Ready.highWrite (rq : Requester) {a : Nat} {low : Word} (data : Nat) (ha : a % 4 = 0) (hh : halfAt a = .high)
    (hw : mayWriteAt rq a = true) (hl : storeFind d.lowHeld (a - 4) = some low) : exec (.reg64HighWrite rq a data) s =
      .next (s.after (({ d with lowHeld := storeDel (a - 4) d.lowHeld }.writeWord s.now rq (a - 4) (a % 0x1000) low).writeWord s.now rq a
        (a % 0x1000) (BitVec.ofNat 32 data))) := by
  change execReg64HighWrite rq a data s = _
  have hp : pageOf a ≠ none := pageOf_of_half (by simp [hh])
  simp [execReg64HighWrite, h.run, word_aligned ha, Dev.busWrite_page _ _ _ _ hp, Dev.write32_high _ _ _ _ _ hh hw hl]

/-- A 32-bit read in a page returns what `readHold` finds. -/
theorem State.Ready.read_word {a : Nat} (hp : pageOf a ≠ none) : exec (.reg64LowRead ⟨a, 4⟩) s =
    .next (s.after ((d.readHold s.now a).2.send (.readData (natLE 4 (d.readHold s.now a).1.toNat) false))) := by
  change execReg64LowRead ⟨a, 4⟩ s = _
  simp [execReg64LowRead, h.runRead, hp]

theorem State.Ready.read_wide {a : Nat} (ha : a % 4 = 0) (hp : pageOf a ≠ none) : exec (.reg64LowRead ⟨a, 8⟩) s =
    .next (s.withDev (d.send (.readData (natLE 4 (d.read32 s.now a).toNat ++ natLE 4 (d.read32 s.now (a + 4)).toNat) false))) := by
  change execReg64LowRead ⟨a, 8⟩ s = _
  simp [execReg64LowRead, h.runRead, hp, word_aligned ha, h.posted]

theorem State.Ready.read_part {a width : Nat} (hw : width = 1 ∨ width = 2) (hp : pageOf a ≠ none)
    (hf : storeFind d.readHeld (a / 4 * 4) = none) : exec (.reg64LowRead ⟨a, width⟩) s = .next (s.withDev (d.send
      (.readData (((natLE 4 (d.read32 s.now (a / 4 * 4)).toNat).drop (a % 4)).take width) false))) := by
  change execReg64LowRead ⟨a, width⟩ s = _
  have h8 : width ≠ 8 := by omega
  have h4 : width ≠ 4 := by omega
  simp [execReg64LowRead, h.runRead, hp, h8, h4, Dev.readPart, hf, partOfWord, h.posted]

end

/-- Settles O9: each access by its own rule above. -/
theorem accessesToWin0 : Obligations.AccessesToWin0 := by
  intro s d h
  have isNone : ∀ {off}, pageOf off ≠ none → (pageOf off).isNone = false := fun hp =>
    Option.isNone_eq_false_iff.2 (Option.isSome_iff_ne_none.2 hp)
  refine ⟨fun rq a data ha hp hh => h.registerWrite_single rq data ha hp hh, fun rq a data ha => h.registerWrite_wide rq data ha,
    fun off hp => h.holeWrite hp, fun off hp => h.holeRead hp, fun off hp => isNone hp ▸ h.partialWrite off,
    fun off hp => ?_, fun off hp => isNone hp ▸ h.oversizeWrite off, fun off hp => isNone hp ▸ h.oversizeRead off,
    fun a pg i ha hp hl => ?_, fun a pg i ha hp hl => ⟨fun v hf => ?_, fun hf => ?_⟩, fun off ha hp => h.read_wide (by omega) hp,
    fun off width hw hp hf => h.read_part hw hp hf, fun rq a data ha hh hw => h.lowWrite rq data ha hh hw,
    fun rq a data low ha hh hw hl => h.highWrite rq data ha hh hw hl⟩
  · have := h.partialWrite off
    rwa [hp] at this
  · rw [h.read_word (by simp [hp]), Dev.readHold_low d s.now ha hp hl]
    exact congrArg _ (State.after_quiet _ h.posted)
  · rw [h.read_word (by simp [hp]), Dev.readHold_held d s.now ha hp hl hf]
    exact congrArg _ (State.after_quiet _ h.posted)
  · rw [h.read_word (by simp [hp]), Dev.readHold_none d s.now ha hp hl hf]
    exact congrArg _ (State.after_quiet _ h.posted)

end Sys2Proof.Machine
end

section
/-! The header of a page (R24, R26, R28, R29, R36). -/

namespace Sys2Proof.Machine

theorem Dev.onPage_of (d : Dev) {a i : Nat} {pg : Pg} (f : Pg → Nat → Nat → Dev) (hp : pageOf a = some (pg, i)) :
    d.onPage a f = f pg i (pageBase a) := by unfold Dev.onPage; rw [hp]

/-- With its clock running the page reads its EN. -/
theorem Dev.enReads_clocked {d : Dev} {pg : Pg} {i : Nat} (page : Nat) (hc : d.pageClocked pg i = true) :
    d.enReads pg i page = d.enabled page := by simp [Dev.enReads, hc]

theorem maskOf_en : maskOf 0 0 = 1 := by decide
theorem maskOf_frz : maskOf 2 2 = 4 := by decide
theorem maskOf_whold : maskOf 3 3 = 8 := by decide

section
variable {s : State} {d : Dev} (h : s.Ready d) {page i : Nat} {pg : Pg} (hp : pageOf page = some (pg, i))
include h hp

/-! EVT_SET. -/

theorem State.Ready.evtSet (rq : Requester) (bits : Nat) (hm : mayWrite rq pg i 0x018 = true) :
    exec (.evtSet ⟨rq, page⟩ bits) s = .next (s.withDev ((d.setWord (pageBase page + 0x010)
      (d.word (pageBase page + 0x010) ||| (BitVec.ofNat 32 bits &&& evtMask pg i))).sample (pageBase page))) := by
  change execEvtSet ⟨rq, page⟩ bits s = _
  simp [execEvtSet, h.run, d.onPage_of _ hp, hm, h.posted]

theorem State.Ready.evtSet_denied (rq : Requester) (bits : Nat) (hm : mayWrite rq pg i 0x018 = false) :
    exec (.evtSet ⟨rq, page⟩ bits) s = .next s := by
  change execEvtSet ⟨rq, page⟩ bits s = _
  simp only [execEvtSet, h.run, d.onPage_of _ hp, hm, Bool.not_false, if_true, h.after_self]

/-! EN. -/

theorem State.Ready.pageEnable_clocked (en : Bool) (hf : pageFixed pg = false) (he : d.enabled (pageBase page) ≠ en)
    (hi : d.pageIdle pg i (pageBase page) = true) (hc : d.pageClocked pg i = true) :
    exec (.pageEnable page en) s =
      .next (s.after ((d.wr (PAGE_CTL.EN.page (pageBase page)) (ofBool en)).enableChanged s.env pg i en)) := by
  change execPageEnable page en s = _
  simp [execPageEnable, h.run, d.onPage_of _ hp, hf, Dev.enReads_clocked _ hc, he, hi, hc]

theorem State.Ready.pageEnable_held (en : Bool) (hf : pageFixed pg = false) (he : d.enReads pg i (pageBase page) ≠ en)
    (hi : d.pageIdle pg i (pageBase page) = true) (hc : d.pageClocked pg i = false) :
    exec (.pageEnable page en) s =
      .next (s.withDev (d.holdLive (pageBase page + 0x008) 1 (BitVec.ofNat 32 (ofBool en)) 0)) := by
  change execPageEnable page en s = _
  simp [execPageEnable, h.run, d.onPage_of _ hp, hf, he, hi, hc, maskOf_en, h.posted]

theorem State.Ready.pageEnable_ignored (en : Bool) (hf : pageFixed pg = false) (he : d.enReads pg i (pageBase page) ≠ en)
    (hi : d.pageIdle pg i (pageBase page) = false) :
    exec (.pageEnable page en) s = .next (s.withDev (d.ignored (pageBase page) 0x008)) := by
  change execPageEnable page en s = _
  simp [execPageEnable, h.run, d.onPage_of _ hp, hf, he, hi, h.posted]

/-! SRST. -/

theorem State.Ready.softReset (hf : pageFixed pg = false) (hr : d.bit (PAGE_CTL.SRST.page (pageBase page)) = false)
    (hi : d.pageIdle pg i (pageBase page) = true) (hch : pg = .CHN → d.chState i = 0) :
    exec (.softReset page) s = .next (s.after ((d.wr (PAGE_CTL.SRST.page (pageBase page)) 1).losePage pg i)) := by
  change execSoftReset page s = _
  have hn : ¬ (pg = .CHN ∧ d.chState i ≠ 0) := fun hc => hc.2 (hch hc.1)
  simp [execSoftReset, h.run, d.onPage_of _ hp, hf, hr, hi, hn]

theorem State.Ready.softResetComplete (hr : d.bit (PAGE_CTL.SRST.page (pageBase page)) = true) (hc : d.pageClocked pg i = true) :
    exec (.softResetComplete page) s = .next (s.after
      (((Dev.resetBlock d (d.resetPage (pageBase page)) pg i).wr (PAGE_CTL.SRST.page (pageBase page)) 0).resumePage s.env pg i)) := by
  change execSoftResetComplete page s = _
  simp [execSoftResetComplete, h.run, hp, hr, hc]

theorem State.Ready.softResetComplete_stopped (hc : d.pageClocked pg i = false) : exec (.softResetComplete page) s = .next s := by
  change execSoftResetComplete page s = _
  simp only [execSoftResetComplete, h.run, hp, hc, Bool.not_false, Bool.or_true, if_true, h.after_self]

/-! FRZ. -/

theorem State.Ready.freeze_held (frz : Bool) (hf : pageFixed pg = false) (hc : d.pageClocked pg i = false) :
    exec (.freeze page frz) s =
      .next (s.withDev (d.holdLive (pageBase page + 0x008) 4 (BitVec.ofNat 32 (4 * ofBool frz)) 0)) := by
  change execFreeze page frz s = _
  simp [execFreeze, h.run, d.onPage_of _ hp, hf, hc, maskOf_frz, h.posted]

theorem State.Ready.freeze_clocked (frz : Bool) (hf : pageFixed pg = false) (hc : d.pageClocked pg i = true) :
    exec (.freeze page frz) s = .next (s.after (if frz then d.wr (PAGE_CTL.FRZ.page (pageBase page)) 1
      else (d.wr (PAGE_CTL.FRZ.page (pageBase page)) 0).resumePage s.env pg i)) := by
  change execFreeze page frz s = _
  cases frz <;> simp [execFreeze, h.run, d.onPage_of _ hp, hf, hc, ofBool]

/-! WHOLD. -/

theorem State.Ready.wrapHold_denied (rq : Requester) (hold : Bool) (hm : mayWrite rq pg i 0x008 = false) :
    exec (.wrapHold ⟨rq, page⟩ hold) s = .next s := by
  change execWrapHold ⟨rq, page⟩ hold s = _
  simp only [execWrapHold, h.run, d.onPage_of _ hp, hm, Bool.not_false, if_true, h.after_self]

theorem State.Ready.wrapHold_held (rq : Requester) (hold : Bool) (hm : mayWrite rq pg i 0x008 = true) (hc : d.pageClocked pg i = false) :
    exec (.wrapHold ⟨rq, page⟩ hold) s =
      .next (s.withDev (d.holdLive (pageBase page + 0x008) 8 (BitVec.ofNat 32 (8 * ofBool hold)) 0)) := by
  change execWrapHold ⟨rq, page⟩ hold s = _
  simp [execWrapHold, h.run, d.onPage_of _ hp, hm, hc, maskOf_whold, h.posted]

theorem State.Ready.wrapHold_set (rq : Requester) (hm : mayWrite rq pg i 0x008 = true) (hc : d.pageClocked pg i = true) :
    exec (.wrapHold ⟨rq, page⟩ true) s = .next (s.withDev (d.wr (PAGE_CTL.WHOLD.page (pageBase page)) 1)) := by
  change execWrapHold ⟨rq, page⟩ true s = _
  simp [execWrapHold, h.run, d.onPage_of _ hp, hm, hc, ofBool, h.posted]

theorem State.Ready.wrapHold_clear (rq : Requester) (hm : mayWrite rq pg i 0x008 = true) (hc : d.pageClocked pg i = true) :
    exec (.wrapHold ⟨rq, page⟩ false) s =
      .next (s.after ((d.wr (PAGE_CTL.WHOLD.page (pageBase page)) 0).unhold pg i (pageBase page))) := by
  change execWrapHold ⟨rq, page⟩ false s = _
  simp [execWrapHold, h.run, d.onPage_of _ hp, hm, hc, ofBool]

end

/-- What waits in a page does not depend on its registers. -/
@[simp] theorem Dev.wPending_wr (d : Dev) (f : Field) (v page : Nat) : (d.wr f v).wPending page = d.wPending page := by
  unfold Dev.wPending; rw [Dev.wr_wpend]

/-- Settles O11: each command by its own rules above. -/
theorem pageHeaderCommands : Obligations.PageHeaderCommands := by
  intro s d page pg i h hp
  refine ⟨fun rq bits hm => h.evtSet hp rq bits hm, fun rq bits hm => h.evtSet_denied hp rq bits hm,
    fun hf he hi hc => ?_, fun hf he hi hc => ?_,
    fun en hf he hi hc => h.pageEnable_held hp en hf he hi hc, fun en hf he hi => h.pageEnable_ignored hp en hf he hi,
    fun hf hr hi hch => h.softReset hp hf hr hi hch, fun hr hc => h.softResetComplete hp hr hc,
    fun hc => h.softResetComplete_stopped hp hc, fun frz hf hc => h.freeze_held hp frz hf hc, fun hf hc => ⟨?_, ?_⟩,
    fun rq hold hm => h.wrapHold_denied hp rq hold hm,
    fun rq hm => ⟨fun hold hc => h.wrapHold_held hp rq hold hm hc, fun hc => ⟨h.wrapHold_set hp rq hm hc, fun hw => ?_, fun hw => ?_⟩⟩⟩
  · exact h.pageEnable_clocked hp true hf (by simp [he]) hi hc
  · exact h.pageEnable_clocked hp false hf (by simp [he]) hi hc
  · have := h.freeze_clocked hp true hf hc
    rwa [if_pos rfl, State.after_quiet _ (by simp [h.posted])] at this
  · exact h.freeze_clocked hp false hf hc
  · rw [h.wrapHold_clear hp rq hm hc, Dev.unhold, Dev.wPending_wr, hw, if_neg Bool.false_ne_true, State.after_quiet _ (by simp [h.posted])]
  · rw [h.wrapHold_clear hp rq hm hc, Dev.unhold, Dev.wPending_wr, hw, if_pos rfl]

end Sys2Proof.Machine
end

section
/-! The register map: where pages lie, what a register reads at reset, and the registers that no write changes (R19, R22, R40). -/

namespace Sys2Proof.Machine

/-! Pages. -/

/-- In a page list in rising order every address of a page is found in it. -/
theorem pageFind_mem {l : List (Nat × Nat × Pg)} (hl : l.Pairwise (fun x y => x.1 + 0x1000 * x.2.1 ≤ y.1)) {b n i off : Nat} {pg : Pg}
    (he : (b, n, pg) ∈ l) (hi : i < n) (hoff : off < 0x1000) : pageFind (b + 0x1000 * i + off) l = some (pg, i) := by
  induction l with
  | nil => simp at he
  | cons e r ih =>
    obtain ⟨b', n', pg'⟩ := e
    obtain ⟨hlt, hr⟩ := List.pairwise_cons.1 hl
    rcases List.mem_cons.1 he with heq | hmem
    · simp only [Prod.mk.injEq] at heq
      obtain ⟨rfl, rfl, rfl⟩ := heq
      have hd : (b + 0x1000 * i + off - b) / 0x1000 = i := by omega
      rw [pageFind, if_pos (by omega), hd]
    · have hb : b' + 0x1000 * n' ≤ b := hlt _ hmem
      rw [pageFind, if_neg (by omega), ih hr hmem]

theorem pageMap_rising : pageMap.Pairwise (fun x y => x.1 + 0x1000 * x.2.1 ≤ y.1) := by decide

/-- An address in the i-th page of a kind lies in that page. -/
theorem pageOf_mem {b n i : Nat} {pg : Pg} (he : (b, n, pg) ∈ pageMap) (hi : i < n) {off : Nat} (hoff : off < 0x1000) :
    pageOf (b + 0x1000 * i + off) = some (pg, i) := pageFind_mem pageMap_rising he hi hoff

/-- What a page found says of the address. -/
theorem pageFind_some {a i : Nat} {pg : Pg} {l : List (Nat × Nat × Pg)} (h : pageFind a l = some (pg, i)) :
    ∃ b n, (b, n, pg) ∈ l ∧ i < n ∧ b + 0x1000 * i ≤ a ∧ a < b + 0x1000 * i + 0x1000 := by
  induction l with
  | nil => simp [pageFind] at h
  | cons e r ih =>
    obtain ⟨b, n, q⟩ := e
    simp only [pageFind] at h
    split at h
    · simp only [Option.some.injEq, Prod.mk.injEq] at h
      obtain ⟨rfl, rfl⟩ := h
      exact ⟨b, n, by simp, by omega, by omega, by omega⟩
    · obtain ⟨b', n', hm, hrest⟩ := ih h
      exact ⟨b', n', by simp [hm], hrest⟩

theorem pageMap_bounds : ∀ e ∈ pageMap, e.1 % 0x1000 = 0 ∧ e.1 + 0x1000 * e.2.1 ≤ win0Size := by decide

/-- The base of the page that an address lies in. -/
theorem pageBase_of {a i : Nat} {pg : Pg} (h : pageOf a = some (pg, i)) : ∃ b n, (b, n, pg) ∈ pageMap ∧ i < n ∧ pageBase a = b + 0x1000 * i := by
  obtain ⟨b, n, hm, hi, hle, hlt⟩ := pageFind_some h
  have hb : b % 0x1000 = 0 := (pageMap_bounds _ hm).1
  exact ⟨b, n, hm, hi, by unfold pageBase; omega⟩

theorem win0_of_page {a i : Nat} {pg : Pg} (h : pageOf a = some (pg, i)) : a < win0Size := by
  obtain ⟨b, n, hm, hi, -, hlt⟩ := pageFind_some h
  have hb : b + 0x1000 * n ≤ win0Size := (pageMap_bounds _ hm).2
  omega

/-! The table has no register below 0x040. -/

theorem regTable_off (pg : Pg) : ∀ r ∈ regTable pg, 0x040 ≤ r.off := by cases pg <;> decide

theorem regDesc_header (pg : Pg) (i : Nat) {off : Nat} (h : off < 0x040) : regDesc pg i off = none := by
  refine List.find?_eq_none.2 (fun r hr => ?_)
  have hoff := regTable_off pg r hr
  have hlt : ¬ r.off ≤ off := by omega
  simp [descHas, hlt]

theorem halfAt_header {a : Nat} (h : a % 0x1000 < 0x040) : halfAt a = .single := by
  unfold halfAt
  split
  · rfl
  · rw [regDesc_header _ _ h]

/-! PAGE_ID. -/

/-- Type code and number as PAGE_ID shows them. -/
def pageId (e : Pg × Nat) : Nat := pageType e.1 * 65536 + pageInst e.1 e.2

theorem regReset_pageId {a : Nat} {e : Pg × Nat} (ha : a % 0x1000 = 0) (hp : pageOf a = some e) :
    regReset a = BitVec.ofNat 32 (pageId e) := by
  have hw : a % win0Size = a := Nat.mod_eq_of_lt (win0_of_page hp)
  simp only [regReset, hw, hp, ha, if_true]
  rfl

theorem Dev.view_pageId (d : Dev) (now : Nat) (pg : Pg) (i b : Nat) (w : Word) : d.view now pg i 0 b w = w := by
  cases pg <;> simp [Dev.view]

/-- Outside the registers a device holds, none of which waits for anything, its words are at their reset values. -/
theorem State.reset_word {k : Nat} (h : k ≠ 0xAD8084) : State.reset.dev.word k = regReset k := by
  unfold Dev.word storeGet
  have hf : storeFind State.reset.dev.regs k = none := if_neg h.symm
  rw [hf]
  rfl

@[simp] theorem word_and_ones (w : Word) : w &&& 0xFFFFFFFF#32 = w := BitVec.and_allOnes

theorem Dev.read32_pageId (d : Dev) {a now : Nat} {e : Pg × Nat} (ha : a % 0x1000 = 0) (hp : pageOf a = some e) (hl : d.liveHeld = [])
    (hw : d.wpend = []) : d.read32 now a = d.word a := by
  obtain ⟨pg, i⟩ := e
  have h4 : a / 4 * 4 = a := by omega
  have hs : d.shown a = d.word a := by simp [Dev.shown, hl, storeGet, storeFind]
  have hq : d.pendingAt a = (0, 0) := by simp [Dev.pendingAt, hw]
  simp [Dev.read32, h4, hp, ha, regDesc_header, Dev.keyOf, hs, hq, Dev.view_pageId]

/-- PAGE_ID at reset. -/
theorem State.reset_pageId {a v : Nat} (ha : a % 0x1000 = 0) (hv : (pageOf a).map pageId = some v) :
    State.reset.dev.read32 0 a = BitVec.ofNat 32 v := by
  obtain ⟨e, hp, rfl⟩ := Option.map_eq_some_iff.1 hv
  rw [Dev.read32_pageId _ ha hp rfl rfl, State.reset_word (by omega), regReset_pageId ha hp]

/-- The kinds whose pages are one array, numbered from 0. -/
def pageArray : Pg → Bool
  | .PSEC | .HCCC | .CLS1 | .CLS2 | .CLS3 | .INT1 | .INT2 | .INT3 | .FLT1 => false
  | _ => true

theorem pageInst_array {pg : Pg} (i : Nat) (h : pageArray pg = true) : pageInst pg i = i := by
  cases pg
  case PSEC | HCCC | CLS1 | CLS2 | CLS3 | INT1 | INT2 | INT3 | FLT1 => exact absurd h (by decide)
  all_goals rfl

/-- PAGE_ID at reset of the pages of an array. -/
theorem State.reset_pageId_array {b n i : Nat} {pg : Pg} (he : (b, n, pg) ∈ pageMap) (hi : i < n) (ha : pageArray pg = true) :
    State.reset.dev.read32 0 (b + 0x1000 * i) = BitVec.ofNat 32 (pageType pg * 65536 + i) := by
  have hb : b % 0x1000 = 0 := (pageMap_bounds _ he).1
  have hp : pageOf (b + 0x1000 * i) = some (pg, i) := pageOf_mem he hi (off := 0) (by omega)
  exact State.reset_pageId (by omega) (by rw [hp, Option.map_some, pageId, pageInst_array i ha])

/-! Writes that change nothing. -/

theorem Dev.writeHeader_first (d : Dev) (pg : Pg) (i page : Nat) (v : Word) : d.writeHeader pg i page 0 v = d := by simp [Dev.writeHeader]

/-- PAGE_ID takes no write. -/
theorem Dev.writeWord_pageId (d : Dev) (now : Nat) (rq : Requester) {a : Nat} (off : Nat) (v : Word) (ha : a % 0x1000 = 0) :
    d.writeWord now rq a off v = d := by
  unfold Dev.writeWord
  split
  · rfl
  · simp [ha, Dev.writeHeader_first]

/-- A register without writable fields keeps its word. -/
theorem Dev.putLive_none (d : Dev) (run : Bool) (k : Nat) (v : Word) :
    ∃ r, d.putLive run k [] v = { d with regs := r } ∧ ∀ j, (d.putLive run k [] v).word j = d.word j := by
  have hw : mergeWord (maskL []) (d.word k) v &&& ~~~(v &&& maskC []) = d.word k := by
    simp [mergeWord, maskL, maskC, accMask]
  unfold Dev.putLive
  cases run with
  | true =>
    rw [if_pos rfl, hw]
    refine ⟨_, rfl, fun j => ?_⟩
    rw [Dev.word_setWord]
    split
    · subst_vars; rfl
    · rfl
  | false =>
    refine ⟨d.regs, ?_⟩
    simp [Dev.holdLive, maskL, maskC, accMask]

/-- A write of a register of GLB without writable fields. -/
theorem Dev.writeWord_glb_none (d : Dev) (now : Nat) (rq : Requester) {a : Nat} (off : Nat) (v : Word) (ha : 0x040 ≤ a) (hlt : a < 0x1000)
    {r : RegDesc} (hr : regDesc .GLB 0 a = some r) (hb : r.bank = .none) (hf : r.fields = []) :
    d.writeWord now rq a off v = d.putLive (d.pageClocked .GLB 0) a [] v := by
  have hp : pageOf a = some (.GLB, 0) := by
    have := pageOf_mem (b := 0) (n := 1) (i := 0) (pg := .GLB) (by decide) (by decide) hlt
    rwa [Nat.mul_zero, Nat.zero_add] at this
  have ho : a % 0x1000 = a := Nat.mod_eq_of_lt hlt
  simp [Dev.writeWord, hp, ho, mayWrite, hr, hb, hf, Dev.keyOf, fieldsAt, Dev.putWrap, Dev.putIdle, maskW, maskI, accMask,
    Dev.unknownOp, Dev.afterWrite, Nat.not_lt.2 ha]

/-- Settles O15: PAGE_ID is what `regReset` makes of the page; the writes find no field. -/
theorem pageIdsAndIdentityAreFixed : Obligations.PageIdsAndIdentityAreFixed := by
  refine ⟨fun p hp => ?_, fun p hp i hi => ?_, fun s d rq page data h hp ha => ?_, by decide, by decide, fun s d rq a data h ha => ?_⟩
  · have hv : ∀ p ∈ [(0x000000, 0x00010000), (0x1A0000, 0x00130000), (0x1A1000, 0x00130001), (0x1A2000, 0x00130002), (0x1A3000, 0x00130003),
      (0x1B0000, 0x00140000), (0x1C0000, 0x00150000), (0x1D0000, 0x00160000), (0x1E0000, 0x00170000), (0x1F0000, 0x0012FFFF),
      (0x710000, 0x00410000), (0x800000, 0x00500000), (0x810000, 0x00510000), (0x820000, 0x00520000), (0x900000, 0x00600000),
      (0xC00000, 0x00700000), (0xD00000, 0x0071FFFF)], p.1 % 0x1000 = 0 ∧ (pageOf p.1).map pageId = some p.2 := by decide
    exact State.reset_pageId (hv p hp).1 (hv p hp).2
  · have hv : ∀ p ∈ [(0x100000, 128, 0x0010), (0x180000, 32, 0x0011), (0x1F1000, 16, 0x0012), (0x400000, 256, 0x0020), (0x500000, 8, 0x0021),
      (0x510000, 8, 0x0022), (0x600000, 32, 0x0030), (0x620000, 32, 0x0031), (0x700000, 8, 0x0040), (0x910000, 221, 0x0061),
      (0xA00000, 221, 0x0062), (0xD01000, 4, 0x0071)],
      ∃ e ∈ pageMap, e.1 = p.1 ∧ e.2.1 = p.2.1 ∧ pageType e.2.2 = p.2.2 ∧ pageArray e.2.2 = true := by decide
    obtain ⟨a, count, type⟩ := p
    obtain ⟨⟨b, n, pg⟩, hm, rfl, rfl, rfl, hk⟩ := hv _ hp
    exact State.reset_pageId_array hm hi hk
  · rw [h.registerWrite_single rq data (by omega) hp (halfAt_header (by omega)), Dev.writeWord_pageId _ _ _ _ _ ha, h.after_self]
  · have hr : ∃ r, regDesc .GLB 0 a = some r ∧ r.bank = .none ∧ r.fields = [] ∧ halfAt a = .single := by
      rcases ha with rfl | rfl <;> exact ⟨_, rfl, rfl, rfl, rfl⟩
    obtain ⟨r, hr, hb, hf, hh⟩ := hr
    have hp : pageOf a ≠ none := by rcases ha with rfl | rfl <;> decide
    obtain ⟨regs, heq, hword⟩ := d.putLive_none (d.pageClocked .GLB 0) a (BitVec.ofNat 32 data)
    refine ⟨s.withDev (d.putLive (d.pageClocked .GLB 0) a [] (BitVec.ofNat 32 data)), ?_, hword, ?_⟩
    · rw [h.registerWrite_single rq data (by omega) hp hh, Dev.writeWord_glb_none _ _ _ _ _ (by omega) (by omega) hr hb hf,
        State.after_quiet _ (by simp [h.posted])]
    · simp only [State.withDev_dev]
      rw [heq]

/-! The state right after reset. -/

/-- A register that the table does not list has the reset value 0. -/
theorem regReset_unlisted {b n i off : Nat} {pg : Pg} (he : (b, n, pg) ∈ pageMap) (hi : i < n) (h4 : 0x00C ≤ off) (hoff : off < 0x1000)
    (hn : regResetBanked pg off 0 i = none) (hr : regDesc pg i off = none) : regReset (b + 0x1000 * i + off) = 0 := by
  obtain ⟨hb, hw⟩ : b % 0x1000 = 0 ∧ b + 0x1000 * n ≤ win0Size := pageMap_bounds _ he
  have hlt : b + 0x1000 * i + off < win0Size := by omega
  have ho : (b + 0x1000 * i + off) % 0x1000 = off := by omega
  simp only [regReset, Nat.mod_eq_of_lt hlt, Nat.div_eq_of_lt hlt, pageOf_mem he hi hoff, ho, hn, hr]
  simp [Nat.ne_of_gt (Nat.lt_of_lt_of_le (by decide : 0 < 0x00C) h4), show off ≠ 4 by omega, show off ≠ 8 by omega]

/-- A field of one word is bits of that word. -/
theorem Dev.rd_narrow (d : Dev) {f : Field} (h : f.wide = false) : d.rd f = bitsOf (d.word f.base) f.lsb f.width := by
  unfold Dev.rd
  rw [if_neg (by simp [h])]

theorem Dev.bit_of_word {d e : Dev} {f : Field} (hw : f.wide = false) (h : d.word f.base = e.word f.base) : d.bit f = e.bit f := by
  unfold Dev.bit
  rw [d.rd_narrow hw, e.rd_narrow hw, h]

/-- Every channel is CLOSED at reset. -/
theorem State.reset_chState (c : Fin 256) : State.reset.dev.chState c = 0 := by
  have hk : (CHN_STATE.STATE.on c).base = 0x400000 + 0x1000 * c + 0x048 := by simp only [CHN_STATE.STATE, Field.on]; omega
  have hne : (CHN_STATE.STATE.on c).base ≠ 0xAD8084 := by omega
  have hz : State.reset.dev.word (CHN_STATE.STATE.on c).base = 0 := by
    rw [State.reset_word hne, hk]
    exact regReset_unlisted (pg := .CHN) (n := 256) (by decide) c.isLt (by decide) (by decide) rfl rfl
  unfold Dev.chState
  rw [Dev.rd_narrow _ rfl, hz]
  simp [bitsOf]

/-- Settles O4. -/
theorem resetStateIsAsStated : Obligations.ResetStateIsAsStated := by
  have hsound : State.reset.Sound := ⟨⟨storeWf_nil _, storeWf_nil _, storeWf_nil _⟩, rfl, by decide⟩
  refine ⟨hsound, rfl, by decide, by decide, by decide, State.reset_chState, by decide, by decide, fun p hp => ?_, by decide, by decide⟩
  have hv : ∀ p ∈ [(0x801000, 0x00500001), (0x802000, 0x00500002), (0x803000, 0x00500003), (0x811000, 0x00510001)],
    p.1 % 0x1000 = 0 ∧ (pageOf p.1).map pageId = some p.2 := by decide
  exact State.reset_pageId (hv p hp).1 (hv p hp).2

end Sys2Proof.Machine
end

section
/-! A soft reset that completes (R24, R29): what it returns to reset, what it keeps, and the pages it leaves alone. -/

namespace Sys2Proof.Machine

/-! Words that a change of the device keeps, with what waits for a boundary. -/

/-- `e` has the words of `d` under the keys that satisfy `p`, and the same writes wait for their boundary. -/
structure Dev.Keeps (p : Nat → Prop) (d e : Dev) : Prop where
  word : ∀ k, p k → e.word k = d.word k
  wpend : e.wpend = d.wpend

namespace Dev.Keeps
variable {p : Nat → Prop} {d e f : Dev}

theorem of_regs (hr : e.regs = d.regs) (hw : e.wpend = d.wpend) : Keeps p d e := ⟨fun k _ => Dev.word_congr hr k, hw⟩

theorem refl (d : Dev) : Keeps p d d := .of_regs rfl rfl

theorem trans (h : Keeps p d e) (g : Keeps p e f) : Keeps p d f :=
  ⟨fun k hk => (g.word k hk).trans (h.word k hk), g.wpend.trans h.wpend⟩

theorem wr (h : Keeps p d e) (f : Field) (v : Nat) (hw : f.wide = false) (hf : ¬ p f.base) : Keeps p d (e.wr f v) :=
  h.trans ⟨fun _ hk => e.word_wr_ne f v (fun hb => hf (hb ▸ hk)) (by simp [hw]), Dev.wr_wpend _ _ _⟩

theorem wr_wide (h : Keeps p d e) (f : Field) (v : Nat) (hf : ¬ p f.base) (hf' : ¬ p (f.base + 4)) : Keeps p d (e.wr f v) :=
  h.trans ⟨fun _ hk => e.word_wr_ne f v (fun hb => hf (hb ▸ hk)) (fun _ hb => hf' (hb ▸ hk)), Dev.wr_wpend _ _ _⟩

theorem count (h : Keeps p d e) (f : Field) (n : Nat) (hw : f.wide = false) (hf : ¬ p f.base) : Keeps p d (e.count f n) := h.wr f _ hw hf

theorem event (h : Keeps p d e) (f : Field) (hw : f.wide = false) (hf : ¬ p f.base) (he : ∀ k, p k → ¬ evtWord k) : Keeps p d (e.event f) :=
  h.trans ⟨fun k hk => e.event_word f k hw (fun hb => hf (hb ▸ hk)) (he k hk), Dev.event_wpend _ _⟩

theorem foldl {α : Type} {g : Dev → α → Dev} (hg : ∀ d x, Keeps p d (g d x)) (l : List α) (h : Keeps p d e) : Keeps p d (l.foldl g e) := by
  induction l generalizing e with
  | nil => exact h
  | cons x r ih => exact ih (h.trans (hg e x))

end Dev.Keeps

/-! The keys of a page. -/

/-- A copy of a register lies in the page of the register. -/
theorem keyPage_bank (a b : Nat) : keyPage (a + win0Size * b) = keyPage a := by unfold keyPage; rw [Nat.add_mul_mod_self_left]

theorem keyPage_off {b n i off : Nat} {pg : Pg} (he : (b, n, pg) ∈ pageMap) (hi : i < n) (hoff : off < 0x1000) :
    keyPage (b + 0x1000 * i + off) = b + 0x1000 * i := by
  obtain ⟨hb, hw⟩ : b % 0x1000 = 0 ∧ b + 0x1000 * n ≤ win0Size := pageMap_bounds _ he
  unfold keyPage pageBase
  rw [Nat.mod_eq_of_lt (by omega)]
  omega

theorem pageMap_kinds : ∀ e ∈ pageMap, ∀ f ∈ pageMap, e.2.2 = f.2.2 → e = f := by decide

/-- The address of the i-th page of a kind. -/
theorem page_addr {page i b n : Nat} {pg : Pg} (hp : pageOf page = some (pg, i)) (ha : page % 0x1000 = 0) (he : (b, n, pg) ∈ pageMap) :
    page = b + 0x1000 * i ∧ i < n := by
  obtain ⟨b', n', hm, hi, hb⟩ := pageBase_of hp
  obtain ⟨rfl, rfl, -⟩ : b' = b ∧ n' = n ∧ pg = pg := by simpa using pageMap_kinds _ hm _ he rfl
  unfold pageBase at hb
  omega

/-! The page's registers. -/

theorem Dev.resetPage_word (d : Dev) (page k : Nat) : (d.resetPage page).word k =
    if keyPage k == page && (k % 0x1000 ≥ 0x010) && !isQueueKey k then regReset k else d.word k :=
  storeGet_drop regReset (fun k => keyPage k == page && (k % 0x1000 ≥ 0x010) && !isQueueKey k) d.regs k

theorem Dev.resetPage_word_other (d : Dev) {page k : Nat} (h : keyPage k ≠ page) : (d.resetPage page).word k = d.word k := by
  rw [Dev.resetPage_word, if_neg (by simp [h])]

theorem Dev.resetPage_word_header (d : Dev) {page k : Nat} (h : k % 0x1000 < 0x010) : (d.resetPage page).word k = d.word k := by
  rw [Dev.resetPage_word, if_neg (by simp [h])]

theorem Dev.resetPage_wPending (d : Dev) (page : Nat) : (d.resetPage page).wPending page = false := by simp [Dev.wPending, Dev.resetPage]

/-! Frames of a host delivery queue dropped: BPM, SWC and the interrupts alone see it (R398). -/

/-- A key outside the pages of BPM and SWC and the words of the interrupts. -/
def sinkFree (k : Nat) : Prop := keyPage k ≠ pageBPM ∧ keyPage k ≠ pageSWC ∧ ¬ evtWord k

theorem not_sinkFree_bpm {k : Nat} (h : keyPage k = pageBPM) : ¬ sinkFree k := fun hs => hs.1 h
theorem not_sinkFree_swc {k : Nat} (h : keyPage k = pageSWC) : ¬ sinkFree k := fun hs => hs.2.1 h
theorem not_sinkFree_bk {f : Field} (b : Nat) (h : keyPage f.base = pageBPM) : ¬ sinkFree (f.bk b).base :=
  not_sinkFree_bpm ((keyPage_bank f.base (b + 1)).trans h)

theorem Dev.spill_keeps {p : Nat → Prop} (d : Dev) (q n : Nat) : Dev.Keeps p d (d.spill q n) := by
  induction n generalizing d with
  | zero => exact .refl d
  | succ n ih =>
    rw [Dev.spill]
    refine Dev.Keeps.trans ?_ (ih _)
    exact .of_regs rfl rfl

theorem Dev.pushFree_keeps (d : Dev) (q i : Nat) : Dev.Keeps sinkFree d (d.pushFree q i) := by
  have hset : ∀ x v, Dev.Keeps sinkFree d ((d.setPool q x).wr (BPM_POOL_STS.FREE.bk q) v) := fun x v =>
    (Dev.Keeps.of_regs (d := d) (e := d.setPool q x) rfl rfl).wr (BPM_POOL_STS.FREE.bk q) v rfl (not_sinkFree_bk q (by decide))
  unfold Dev.pushFree
  dsimp only
  split
  · exact .refl d
  · split
    · exact (hset _ _).trans (Dev.spill_keeps _ q 64)
    · exact hset _ _

/-- What is held of a bad free is in words of BPM. -/
theorem Dev.noteBadPtr_keeps (d : Dev) (why q req a : Nat) : Dev.Keeps sinkFree d
    (((((d.wr BPM_BAD_PTR.VALID 1).wr BPM_BAD_PTR.REASON why).wr BPM_BAD_PTR.POOL q).wr BPM_BAD_PTR.REQ req).wr BPM_BAD_PTR.ADDR a) := by
  have hp : ¬ sinkFree 0x1C009C := not_sinkFree_bpm (by decide)
  have ha : ¬ sinkFree 0x1C0098 := not_sinkFree_bpm (by decide)
  exact (((((Dev.Keeps.refl d).wr BPM_BAD_PTR.VALID 1 rfl hp).wr BPM_BAD_PTR.REASON why rfl hp).wr BPM_BAD_PTR.POOL q rfl hp).wr
    BPM_BAD_PTR.REQ req rfl hp).wr_wide BPM_BAD_PTR.ADDR a ha hp

theorem Dev.free_keeps (d : Dev) (req q g a : Nat) : Dev.Keeps sinkFree d (d.free_ req q g a) := by
  have hused : ∀ v, Dev.Keeps sinkFree d (d.wr (BPM_GRP_STS.USED.bk (grpBank q g)) v) := fun v =>
    (Dev.Keeps.refl d).wr (BPM_GRP_STS.USED.bk (grpBank q g)) v rfl (not_sinkFree_bk _ (by decide))
  have hbad : Dev.Keeps sinkFree d ((d.flag BPM_FLT.BAD_FREE).count (BPM_CNT_BAD_FREE.COUNT.bk q) 1) :=
    ((Dev.Keeps.refl d).wr BPM_FLT.BAD_FREE 1 rfl (not_sinkFree_bpm (by decide))).count (BPM_CNT_BAD_FREE.COUNT.bk q) 1 rfl
      (not_sinkFree_bk q (by decide))
  unfold Dev.free_
  dsimp only
  split
  · exact (hused _).trans (Dev.pushFree_keeps _ q _)
  · split
    · exact hbad
    · exact hbad.trans (Dev.noteBadPtr_keeps _ _ q req a)

theorem Dev.requestFree_keeps (d : Dev) (req q g a : Nat) : Dev.Keeps sinkFree d (d.requestBpm (.free req q g a)) := by
  unfold Dev.requestBpm
  split
  · exact Dev.free_keeps d req q g a
  · exact .of_regs rfl rfl

theorem Dev.popHost_keeps (d : Dev) (q : Nat) : Dev.Keeps sinkFree d (d.popHost q) := by
  unfold Dev.popHost
  split
  · rename_i l _
    exact .trans (.of_regs (e := d.setHostq q l) rfl rfl) (Dev.requestFree_keeps _ 0x0C0 0 0 _)
  · exact .refl d

theorem Dev.sinkDisc_keeps (d : Dev) (o : Nat) : Dev.Keeps sinkFree d (d.sinkDisc o) := by
  have hcount : ¬ sinkFree (SWC_CNT_SINK_DISC.COUNT.bk o).base :=
    not_sinkFree_swc ((keyPage_bank SWC_CNT_SINK_DISC.COUNT.base (o + 1)).trans (by decide))
  exact ((Dev.Keeps.refl d).count (SWC_CNT_SINK_DISC.COUNT.bk o) 1 rfl hcount).event SWC_EVT.SINK_DISC rfl
    (not_sinkFree_swc (by decide)) (fun _ hk => hk.2.2)

theorem Dev.dropHost_keeps (d : Dev) (q : Nat) : Dev.Keeps sinkFree d (d.dropHost q) := by
  unfold Dev.dropHost
  split
  · exact .refl d
  · exact .foldl (fun d _ => (Dev.popHost_keeps d q).trans (Dev.sinkDisc_keeps _ 11)) _ (.refl d)

/-- An empty queue has nothing to drop. -/
theorem Dev.dropHost_empty (d : Dev) {q : Nat} (h : d.hostq q = []) : d.dropHost q = d := by
  unfold Dev.dropHost
  rw [h]
  exact ite_self d

theorem foldl_fixed_of_mem {α β : Type} {f : β → α → β} {b : β} {l : List α} (h : ∀ x ∈ l, f b x = b) : l.foldl f b = b := by
  induction l with
  | nil => rfl
  | cons x r ih => rw [List.foldl_cons, h x (by simp), ih (fun y hy => h y (by simp [hy]))]

/-! The blocks beside their pages. -/

/-- The words that a block keeps when a soft reset empties it: of a pixel engine all but SERVICE, which is put back, and RETIRE where it is
retired; of a retired entropy engine the same; of a DMA engine those that a dropped frame does not touch. -/
def blockWord (old : Dev) (pg : Pg) (i k : Nat) : Prop :=
  match pg with
  | .PXE => k ≠ (PXE_STS.SERVICE.on i).base ∧ (old.pxeService i = 3 → k ≠ (PXE_CTL.RETIRE.on i).base)
  | .ENE => old.eneService i = 3 → k ≠ (ENE_STS.SERVICE.on i).base ∧ k ≠ (ENE_CTL.RETIRE.on i).base
  | .DMA => sinkFree k
  | _ => True

/-- The pages of the blocks that hand nothing of theirs to another page when they are reset. -/
def selfContained : List Pg := [Pg.PXE, .ENE, .HMC, .ARB, .PSE, .CLS0, .CLS1, .CLS2, .CLS3, .DMA, .BGS]

theorem selfContained_cases {pg : Pg} {q : Pg → Prop} (h : pg ∈ selfContained) (hpxe : q .PXE) (hene : q .ENE) (hdma : q .DMA)
    (hrest : ∀ p ∈ [Pg.HMC, .ARB, .PSE, .CLS0, .CLS1, .CLS2, .CLS3, .BGS], q p) : q pg := by
  cases pg
  case PXE => exact hpxe
  case ENE => exact hene
  case DMA => exact hdma
  case HMC | ARB | PSE | CLS0 | CLS1 | CLS2 | CLS3 | BGS => exact hrest _ (by decide)
  all_goals exact absurd h (by decide)

theorem Field.on_fits (f : Field) (i : Nat) (h : f.lsb + f.width ≤ 32) : (f.on i).lsb + (f.on i).width ≤ 32 := h

/-- A pixel engine emptied, with its SERVICE put back. -/
def Dev.pxeEmptied (old d : Dev) (i : Nat) : Dev := (d.setPx i Pxe.reset).wr (PXE_STS.SERVICE.on i) (old.pxeService i)

theorem Dev.resetBlock_pxe (old d : Dev) (i : Nat) : Dev.resetBlock old d .PXE i =
    if old.pxeService i = 3 then (Dev.pxeEmptied old d i).wr (PXE_CTL.RETIRE.on i) 1 else Dev.pxeEmptied old d i := (rfl)

theorem Dev.pxeEmptied_keeps (old d : Dev) (i : Nat) : Dev.Keeps (blockWord old .PXE i) d (Dev.pxeEmptied old d i) :=
  (Dev.Keeps.of_regs (d := d) (e := d.setPx i Pxe.reset) rfl rfl).wr (PXE_STS.SERVICE.on i) _ rfl (fun hk => hk.1 rfl)

theorem Dev.pxeEmptied_service (old d : Dev) (i : Nat) : (Dev.pxeEmptied old d i).pxeService i = old.pxeService i := by
  have hlt : old.pxeService i < 2 ^ (PXE_STS.SERVICE.on i).width := old.rd_lt _
  exact (Dev.rd_wr_self _ (PXE_STS.SERVICE.on i) _ rfl (Field.on_fits _ i (by decide))).trans (Nat.mod_eq_of_lt hlt)

theorem Dev.resetBlock_pxe_keeps (old d : Dev) (i : Nat) : Dev.Keeps (blockWord old .PXE i) d (Dev.resetBlock old d .PXE i) := by
  rw [Dev.resetBlock_pxe]
  split
  · rename_i h3
    exact (Dev.pxeEmptied_keeps old d i).wr (PXE_CTL.RETIRE.on i) 1 rfl (fun hk => hk.2 h3 rfl)
  · exact Dev.pxeEmptied_keeps old d i

theorem Dev.resetBlock_pxe_service (old d : Dev) (i : Nat) : (Dev.resetBlock old d .PXE i).pxeService i = old.pxeService i := by
  have hb : (PXE_CTL.RETIRE.on i).base ≠ (PXE_STS.SERVICE.on i).base := by simp [PXE_CTL.RETIRE, PXE_STS.SERVICE, Field.on]
  rw [Dev.resetBlock_pxe, ← Dev.pxeEmptied_service old d i]
  split
  · exact Dev.rd_wr_word _ (PXE_CTL.RETIRE.on i) (PXE_STS.SERVICE.on i) 1 rfl rfl hb
  · rfl

theorem Dev.resetBlock_pxe_retire (old d : Dev) (i : Nat) (h : old.pxeService i = 3) :
    (Dev.resetBlock old d .PXE i).bit (PXE_CTL.RETIRE.on i) = true := by
  rw [Dev.resetBlock_pxe, if_pos h]
  exact Dev.bit_wr_one _ (PXE_CTL.RETIRE.on i) rfl rfl (Field.on_fits _ i (by decide))

/-- An entropy engine emptied. -/
def Dev.eneEmptied (d : Dev) (i : Nat) : Dev := d.upEn i (fun x => { x with moves := [] })

theorem Dev.resetBlock_ene (old d : Dev) (i : Nat) : Dev.resetBlock old d .ENE i =
    if old.eneService i = 3 then ((d.eneEmptied i).wr (ENE_STS.SERVICE.on i) 3).wr (ENE_CTL.RETIRE.on i) 1 else d.eneEmptied i := (rfl)

theorem Dev.resetBlock_ene_keeps (old d : Dev) (i : Nat) : Dev.Keeps (blockWord old .ENE i) d (Dev.resetBlock old d .ENE i) := by
  have hs : Dev.Keeps (blockWord old .ENE i) d (d.eneEmptied i) := .of_regs rfl rfl
  rw [Dev.resetBlock_ene]
  split
  · rename_i h3
    exact (hs.wr (ENE_STS.SERVICE.on i) 3 rfl (fun hk => (hk h3).1 rfl)).wr (ENE_CTL.RETIRE.on i) 1 rfl (fun hk => (hk h3).2 rfl)
  · exact hs

theorem Dev.resetBlock_ene_retired (old d : Dev) (i : Nat) (h : old.eneService i = 3) :
    (Dev.resetBlock old d .ENE i).eneService i = 3 ∧ (Dev.resetBlock old d .ENE i).bit (ENE_CTL.RETIRE.on i) = true := by
  have hb : (ENE_CTL.RETIRE.on i).base ≠ (ENE_STS.SERVICE.on i).base := by simp [ENE_CTL.RETIRE, ENE_STS.SERVICE, Field.on]
  rw [Dev.resetBlock_ene, if_pos h]
  refine ⟨(Dev.rd_wr_word _ (ENE_CTL.RETIRE.on i) (ENE_STS.SERVICE.on i) 1 rfl rfl hb).trans ?_,
    Dev.bit_wr_one _ (ENE_CTL.RETIRE.on i) rfl rfl (Field.on_fits _ i (by decide))⟩
  exact Dev.rd_wr_self _ (ENE_STS.SERVICE.on i) 3 rfl (Field.on_fits _ i (by decide))

/-- A DMA engine with its rings and roles at reset. -/
def Dev.dmaEmptied (d : Dev) (i : Nat) : Dev :=
  { d with dma := { d.dma with
      rings := storeDrop (fun k => k / 2 / 32 == i) d.dma.rings
      roles := storeDrop (fun c => c / 32 == i) d.dma.roles
      last := storeDrop (fun k => k / 2 == i) d.dma.last } }

theorem Dev.resetBlock_dma (old d : Dev) (i : Nat) : Dev.resetBlock old d .DMA i = (List.range 8).foldl Dev.dropHost (d.dmaEmptied i) := (rfl)

theorem Dev.resetBlock_dma_keeps (old d : Dev) (i : Nat) : Dev.Keeps (blockWord old .DMA i) d (Dev.resetBlock old d .DMA i) := by
  rw [Dev.resetBlock_dma]
  exact .foldl Dev.dropHost_keeps _ (.of_regs rfl rfl)

/-- Without frames in the host queues the reset of a DMA engine touches no register. -/
theorem Dev.resetBlock_dma_empty (old d : Dev) (i : Nat) (h : ∀ q < 8, d.hostq q = []) : (Dev.resetBlock old d .DMA i).regs = d.regs := by
  rw [Dev.resetBlock_dma, foldl_fixed_of_mem (b := d.dmaEmptied i) (fun q hq => Dev.dropHost_empty _ (h q (List.mem_range.1 hq)))]
  rfl

theorem Dev.resetBlock_cls0 (old d : Dev) (i : Nat) : Dev.resetBlock old d .CLS0 i =
    (List.range 8).foldl (fun d p => d.upEth p (fun x => { x with parsed := [] })) (d.upCls (fun _ => Cls.reset)) := (rfl)

/-- The other blocks hold no register of theirs. -/
theorem Dev.resetBlock_quiet (old d : Dev) (i : Nat) (p : Nat → Prop) :
    ∀ pg ∈ [Pg.HMC, .ARB, .PSE, .CLS0, .CLS1, .CLS2, .CLS3, .BGS], Dev.Keeps p d (Dev.resetBlock old d pg i) := by
  intro pg h
  cases pg
  case CLS0 =>
    rw [Dev.resetBlock_cls0]
    refine Dev.Keeps.foldl (fun d q => ?_) _ ?_
    · exact .of_regs rfl rfl
    · exact .of_regs rfl rfl
  case HMC | ARB | PSE | CLS1 | CLS2 | CLS3 | BGS => exact .of_regs rfl rfl
  all_goals exact absurd h (by decide)

/-- What a block hands to another when it is reset, of these blocks: nothing but frames that wait for the rings of DMA. -/
theorem Dev.resetBlock_keeps (old d : Dev) {pg : Pg} (i : Nat) (h : pg ∈ selfContained) :
    Dev.Keeps (blockWord old pg i) d (Dev.resetBlock old d pg i) :=
  selfContained_cases (q := fun pg => Dev.Keeps (blockWord old pg i) d (Dev.resetBlock old d pg i)) h
    (Dev.resetBlock_pxe_keeps old d i) (Dev.resetBlock_ene_keeps old d i) (Dev.resetBlock_dma_keeps old d i) (fun pg hm => Dev.resetBlock_quiet old d i _ pg hm)

/-- Nothing waits for these blocks. -/
theorem Dev.resumePage_selfContained (d : Dev) (e : Env) {pg : Pg} (i : Nat) (h : pg ∈ selfContained) : d.resumePage e pg i = d :=
  selfContained_cases (q := fun pg => d.resumePage e pg i = d) h rfl rfl rfl (fun pg hm => by
    cases pg
    case HMC | ARB | PSE | CLS0 | CLS1 | CLS2 | CLS3 | BGS => rfl
    all_goals exact absurd hm (by decide))

/-! What the state shows after a command. -/

@[simp] theorem State.after_word (s : State) (d : Dev) (k : Nat) : (s.after d).dev.word k = d.word k := (rfl)
@[simp] theorem State.after_rd (s : State) (d : Dev) (f : Field) : (s.after d).dev.rd f = d.rd f := (rfl)
@[simp] theorem State.after_bit (s : State) (d : Dev) (f : Field) : (s.after d).dev.bit f = d.bit f := (rfl)
@[simp] theorem State.after_wPending (s : State) (d : Dev) (page : Nat) : (s.after d).dev.wPending page = d.wPending page := (rfl)

/-- The device that a completed soft reset of the i-th page of a kind leaves. -/
def Dev.afterSoftReset (d : Dev) (page : Nat) (pg : Pg) (i : Nat) : Dev :=
  (Dev.resetBlock d (d.resetPage page) pg i).wr (PAGE_CTL.SRST.page page) 0

theorem State.Ready.softResetDone {s : State} {d : Dev} (h : s.Ready d) {page i : Nat} {pg : Pg} (hp : pageOf page = some (pg, i))
    (ha : page % 0x1000 = 0) (hm : pg ∈ selfContained) (hr : d.bit (PAGE_CTL.SRST.page page) = true) (hc : d.pageClocked pg i = true) :
    exec (.softResetComplete page) s = .next (s.after (d.afterSoftReset page pg i)) := by
  have hb : pageBase page = page := by unfold pageBase; omega
  have he := h.softResetComplete hp (by rw [hb]; exact hr) hc
  rwa [hb, Dev.resumePage_selfContained _ _ _ hm] at he

section
variable {page i : Nat} {pg : Pg} (hp : pageOf page = some (pg, i)) (ha : page % 0x1000 = 0)
include hp ha

/-- The pages of these blocks lie outside those of BPM and SWC and the words of the interrupts. -/
theorem sinkFree_dma {k : Nat} (hk : keyPage k = page) (hd : pg = .DMA) : sinkFree k := by
  subst hd
  obtain ⟨hpage, hi⟩ := page_addr hp ha (b := 0x700000) (n := 8) (by decide)
  refine ⟨by unfold pageBPM; omega, by unfold pageSWC; omega, ?_⟩
  unfold evtWord
  unfold keyPage pageBase win0Size at hk
  omega

/-- The words put back lie in the page at 0x040 and 0x044. -/
theorem putBack_pxe (hd : pg = .PXE) : (PXE_STS.SERVICE.on i).base = page + 0x044 ∧ (PXE_CTL.RETIRE.on i).base = page + 0x040 := by
  subst hd
  obtain ⟨rfl, -⟩ := page_addr hp ha (b := 0x100000) (n := 128) (by decide)
  simp only [PXE_STS.SERVICE, PXE_CTL.RETIRE, Field.on]
  omega

theorem putBack_ene (hd : pg = .ENE) : (ENE_STS.SERVICE.on i).base = page + 0x044 ∧ (ENE_CTL.RETIRE.on i).base = page + 0x040 := by
  subst hd
  obtain ⟨rfl, -⟩ := page_addr hp ha (b := 0x180000) (n := 32) (by decide)
  simp only [ENE_STS.SERVICE, ENE_CTL.RETIRE, Field.on]
  omega

theorem keyPage_page {off : Nat} (ho : off < 0x1000) : keyPage (page + off) = page := by
  obtain ⟨b, n, hmem, hi, hb⟩ := pageBase_of hp
  have hpage : page = b + 0x1000 * i := by unfold pageBase at hb; omega
  rw [hpage]
  exact keyPage_off hmem hi ho

/-- The registers of the egress queues lie in pages of EGS. -/
theorem not_queueKey {k : Nat} (hk : keyPage k = page) (hne : pg ≠ .EGS) : isQueueKey k = false := by
  by_contra hq
  simp only [Bool.not_eq_false, isQueueKey, Bool.and_eq_true, decide_eq_true_eq] at hq
  obtain ⟨⟨⟨hlo, hhi⟩, -⟩, -⟩ := hq
  rw [hk] at hlo hhi
  have hj : pageOf page = some (.EGS, (page - 0x500000) / 0x1000) := by
    have := pageOf_mem (b := 0x500000) (n := 8) (i := (page - 0x500000) / 0x1000) (pg := .EGS) (off := 0) (by decide) (by omega) (by decide)
    rwa [show 0x500000 + 0x1000 * ((page - 0x500000) / 0x1000) + 0 = page by omega] at this
  rw [hp] at hj
  exact hne (Prod.mk.inj (Option.some.inj hj)).1

end

theorem blockWord_of {old : Dev} {pg : Pg} {i k : Nat}
    (hpxe : pg = .PXE → k ≠ (PXE_STS.SERVICE.on i).base ∧ (old.pxeService i = 3 → k ≠ (PXE_CTL.RETIRE.on i).base))
    (hene : pg = .ENE → old.eneService i = 3 → k ≠ (ENE_STS.SERVICE.on i).base ∧ k ≠ (ENE_CTL.RETIRE.on i).base)
    (hdma : pg = .DMA → sinkFree k) : blockWord old pg i k := by
  unfold blockWord
  split
  · exact hpxe rfl
  · exact hene rfl
  · exact hdma rfl
  · trivial

/-- The reset writes SRST last; other words are those of the block. -/
theorem Dev.afterSoftReset_word (d : Dev) {page i : Nat} {pg : Pg} (hm : pg ∈ selfContained) {k : Nat} (hk : k ≠ page + 0x008) (hb : blockWord d pg i k) :
    (d.afterSoftReset page pg i).word k = (d.resetPage page).word k := by
  have hs : (PAGE_CTL.SRST.page page).base ≠ k := by simp only [Field.page, PAGE_CTL.SRST]; omega
  exact (Dev.word_wr_ne _ _ _ hs (by simp [Field.page, PAGE_CTL.SRST])).trans ((Dev.resetBlock_keeps d _ i hm).word k hb)

theorem Dev.afterSoftReset_rd (d : Dev) {page : Nat} (i : Nat) (pg : Pg) (f : Field) (hw : f.wide = false) (hf : f.base ≠ page + 0x008) :
    (d.afterSoftReset page pg i).rd f = (Dev.resetBlock d (d.resetPage page) pg i).rd f :=
  Dev.rd_wr_word _ (PAGE_CTL.SRST.page page) f 0 rfl hw (by simp only [Field.page, PAGE_CTL.SRST]; omega)

theorem Dev.afterSoftReset_wPending (d : Dev) (page i : Nat) {pg : Pg} (hm : pg ∈ selfContained) :
    (d.afterSoftReset page pg i).wPending page = false := by
  have hw : (d.afterSoftReset page pg i).wpend = (d.resetPage page).wpend :=
    (Dev.wr_wpend _ _ _).trans (Dev.resetBlock_keeps d (d.resetPage page) i hm).wpend
  unfold Dev.wPending
  rw [hw]
  exact d.resetPage_wPending page

section
variable (d : Dev) {page i : Nat} {pg : Pg} (hp : pageOf page = some (pg, i)) (ha : page % 0x1000 = 0)
include hp ha

/-- The header word of PAGE_CTL is no word of a block. -/
theorem blockWord_ctl : blockWord d pg i (page + 0x008) := by
  have hkp := keyPage_page hp ha (off := 0x008) (by decide)
  refine blockWord_of (fun hd => ?_) (fun hd _ => ?_) (fun hd => sinkFree_dma hp ha hkp hd)
  · obtain ⟨h1, h2⟩ := putBack_pxe hp ha hd
    exact ⟨by omega, fun _ => by omega⟩
  · obtain ⟨h1, h2⟩ := putBack_ene hp ha hd
    exact ⟨by omega, by omega⟩

variable (hm : pg ∈ selfContained)
include hm

/-- A field of PAGE_CTL beside SRST keeps its value. -/
theorem Dev.afterSoftReset_ctl (f : Field) (hw : f.wide = false) (hf : f.base = 0x008) (hd : 2 ≤ f.lsb ∨ f.lsb + f.width ≤ 1) :
    (d.afterSoftReset page pg i).bit (f.page page) = d.bit (f.page page) := by
  have hword : (Dev.resetBlock d (d.resetPage page) pg i).word (f.page page).base = d.word (f.page page).base := by
    have hb : (f.page page).base = page + 0x008 := by simp only [Field.page, hf]; omega
    rw [hb, (Dev.resetBlock_keeps d _ i hm).word _ (blockWord_ctl d hp ha)]
    exact d.resetPage_word_header (by omega)
  have hbeside := Dev.bit_wr_beside (Dev.resetBlock d (d.resetPage page) pg i) (PAGE_CTL.SRST.page page) (f.page page) 0 rfl hw
    (by simp only [Field.page, PAGE_CTL.SRST, hf]) (by simp [Field.page, PAGE_CTL.SRST]) (by simpa [Field.page, PAGE_CTL.SRST] using hd)
  exact hbeside.trans (Dev.bit_of_word (f := f.page page) hw hword)

/-- The words of other pages stay, those of a DMA engine's neighbours where no frame waits for the host. -/
theorem Dev.afterSoftReset_other {k : Nat} (hk : keyPage k ≠ page) (hdma : pg = .DMA → ∀ q < 8, d.hostq q = []) :
    (d.afterSoftReset page pg i).word k = d.word k := by
  have hpage : ∀ off < 0x1000, k ≠ page + off := fun off ho he => hk (he ▸ keyPage_page hp ha ho)
  rw [← d.resetPage_word_other hk]
  by_cases hd : pg = .DMA
  · have hs : (PAGE_CTL.SRST.page page).base ≠ k := by
      have := hpage 0x008 (by decide)
      simp only [Field.page, PAGE_CTL.SRST]; omega
    refine (Dev.word_wr_ne _ _ _ hs (by simp [Field.page, PAGE_CTL.SRST])).trans (Dev.word_congr ?_ k)
    rw [hd]
    exact Dev.resetBlock_dma_empty d _ i (hdma hd)
  · refine Dev.afterSoftReset_word d hm (hpage 0x008 (by decide)) (blockWord_of (fun he => ?_) (fun he _ => ?_) (fun he => absurd he hd))
    · obtain ⟨h1, h2⟩ := putBack_pxe hp ha he
      exact ⟨h1 ▸ hpage 0x044 (by decide), fun _ => h2 ▸ hpage 0x040 (by decide)⟩
    · obtain ⟨h1, h2⟩ := putBack_ene hp ha he
      exact ⟨h1 ▸ hpage 0x044 (by decide), h2 ▸ hpage 0x040 (by decide)⟩

end

/-- A retired or serving engine keeps its state (R196, R217). -/
theorem Dev.afterSoftReset_pxe (d : Dev) {page i : Nat} (hp : pageOf page = some (.PXE, i)) (ha : page % 0x1000 = 0) :
    (d.afterSoftReset page .PXE i).pxeService i = d.pxeService i ∧
    (d.pxeService i = 3 → (d.afterSoftReset page .PXE i).bit (PXE_CTL.RETIRE.on i) = true) := by
  obtain ⟨hs, hr⟩ := putBack_pxe hp ha rfl
  refine ⟨?_, fun h3 => ?_⟩
  · exact (d.afterSoftReset_rd i .PXE (PXE_STS.SERVICE.on i) rfl (by omega)).trans (Dev.resetBlock_pxe_service d _ i)
  · have := Dev.resetBlock_pxe_retire d (d.resetPage page) i h3
    unfold Dev.bit at this ⊢
    rwa [d.afterSoftReset_rd i .PXE (PXE_CTL.RETIRE.on i) rfl (by omega)]

theorem Dev.afterSoftReset_ene (d : Dev) {page i : Nat} (hp : pageOf page = some (.ENE, i)) (ha : page % 0x1000 = 0)
    (h3 : d.eneService i = 3) :
    (d.afterSoftReset page .ENE i).eneService i = 3 ∧ (d.afterSoftReset page .ENE i).bit (ENE_CTL.RETIRE.on i) = true := by
  obtain ⟨hs, hr⟩ := putBack_ene hp ha rfl
  obtain ⟨hservice, hretire⟩ := Dev.resetBlock_ene_retired d (d.resetPage page) i h3
  refine ⟨(d.afterSoftReset_rd i .ENE (ENE_STS.SERVICE.on i) rfl (by omega)).trans hservice, ?_⟩
  unfold Dev.bit at hretire ⊢
  rwa [d.afterSoftReset_rd i .ENE (ENE_CTL.RETIRE.on i) rfl (by omega)]

/-- Settles O14: the page's words by `resetPage`, what its block puts back by `resetBlock`, PAGE_CTL and the other pages by the frame of both. -/
theorem softResetReturnsThePage : Obligations.SoftResetReturnsThePage := by
  intro s t d page pg i h hp ha hm hr hc ht
  cases (h.softResetDone hp ha hm hr hc).symm.trans ht
  have hne : pg ≠ .EGS := fun he => absurd (he ▸ hm) (by decide)
  refine ⟨fun k hk hoff hpxe hene => ?_, fun hd => ?_, fun hd h3 => ?_, fun k hk hdma => ?_, ?_, ?_, ?_, ?_, ?_⟩
  · rw [State.after_word, Dev.afterSoftReset_word d hm (by omega)
      (blockWord_of hpxe hene (fun hd => sinkFree_dma hp ha hk hd)), Dev.resetPage_word, if_pos]
    simp [hk, hoff, not_queueKey hp ha hk hne]
  · subst hd
    exact d.afterSoftReset_pxe hp ha
  · subst hd
    exact d.afterSoftReset_ene hp ha h3
  · exact Dev.afterSoftReset_other d hp ha hm hk hdma
  · exact Dev.bit_wr_zero _ (PAGE_CTL.SRST.page page) rfl (by simp [Field.page, PAGE_CTL.SRST])
  · exact Dev.afterSoftReset_ctl d hp ha hm PAGE_CTL.EN rfl rfl (.inr (by decide))
  · exact Dev.afterSoftReset_ctl d hp ha hm PAGE_CTL.FRZ rfl rfl (.inl (by decide))
  · exact Dev.afterSoftReset_ctl d hp ha hm PAGE_CTL.WHOLD rfl rfl (.inl (by decide))
  · exact Dev.afterSoftReset_wPending d page i hm

end Sys2Proof.Machine
end

section
/-! Writes of registers in the pages whose registers have no effect beyond them (R27 to R31). -/

namespace Sys2Proof.Machine

/-! Live writes that wait for a stopped clock. -/

/-- What waits under a key: the bits written, their values, and the W1C bits to clear. -/
def Dev.held (d : Dev) (k : Nat) : Word × Word × Word := storeGet (fun _ => (0, 0, 0)) d.liveHeld k

theorem Dev.holdLive_frame (d : Dev) (k : Nat) (m v clr : Word) : ∃ l, d.holdLive k m v clr = { d with liveHeld := l } := by
  unfold Dev.holdLive
  dsimp only
  split
  · exact ⟨d.liveHeld, rfl⟩
  · exact ⟨_, rfl⟩

@[simp] theorem Dev.holdLive_word (d : Dev) (k : Nat) (m v clr : Word) (j : Nat) : (d.holdLive k m v clr).word j = d.word j := by
  obtain ⟨l, h⟩ := d.holdLive_frame k m v clr
  rw [h]
  rfl

@[simp] theorem Dev.holdLive_wpend (d : Dev) (k : Nat) (m v clr : Word) : (d.holdLive k m v clr).wpend = d.wpend := by
  obtain ⟨l, h⟩ := d.holdLive_frame k m v clr
  rw [h]

theorem Dev.holdLive_held (d : Dev) (k : Nat) (m v clr : Word) : (d.holdLive k m v clr).held k =
    ((d.held k).1 ||| m, mergeWord m (d.held k).2.1 v, (d.held k).2.2 ||| clr) := by
  unfold Dev.holdLive
  dsimp only
  split
  · rename_i h
    obtain ⟨rfl, rfl⟩ := h
    simp [mergeWord]
  · exact storeGet_set_self _ _ _ _

/-! Words merged. -/

theorem mergeWord_zero (w v : Word) : mergeWord 0 w v = w := by simp [mergeWord]

/-- The bits of the mask are those written. -/
theorem mergeWord_and (m w v : Word) : mergeWord m w v &&& m = v &&& m := by
  apply BitVec.eq_of_getLsbD_eq
  intro i hi
  simp only [mergeWord, BitVec.getLsbD_and, BitVec.getLsbD_or, BitVec.getLsbD_not, hi, decide_true, Bool.true_and]
  cases m.getLsbD i <;> simp

/-- Where the bits of a mask are already those of `v`, more of `v` leaves them so. -/
theorem mergeWord_keeps (m m' w v : Word) (h : w &&& m = v &&& m) : mergeWord m' w v &&& m = v &&& m := by
  apply BitVec.eq_of_getLsbD_eq
  intro i hi
  have hb := congrArg (fun x => BitVec.getLsbD x i) h
  simp only [BitVec.getLsbD_and] at hb
  simp only [mergeWord, BitVec.getLsbD_and, BitVec.getLsbD_or, BitVec.getLsbD_not, hi, decide_true, Bool.true_and]
  cases m'.getLsbD i <;> simp [hb]

theorem or_and_self (w m : Word) : (w ||| m) &&& m = m := by
  apply BitVec.eq_of_getLsbD_eq
  intro i _
  simp only [BitVec.getLsbD_and, BitVec.getLsbD_or]
  cases m.getLsbD i <;> simp

theorem or_keeps (w m m' : Word) (h : w &&& m = m) : (w ||| m') &&& m = m := by
  apply BitVec.eq_of_getLsbD_eq
  intro i _
  have hb := congrArg (fun x => BitVec.getLsbD x i) h
  simp only [BitVec.getLsbD_and, BitVec.getLsbD_or] at hb ⊢
  cases hm : m.getLsbD i <;> simp_all

/-! The key of a register. -/

theorem keyOf_off {d : Dev} {a i k : Nat} {b : Bank} (h : d.keyOf a i b = some k) : k % 0x1000 = a % 0x1000 := by
  have bank : ∀ n, (a + win0Size * n) % 0x1000 = a % 0x1000 := fun n => by unfold win0Size; omega
  have home : homeKey a % 0x1000 = a % 0x1000 := by
    unfold homeKey keyPage pageBase win0Size
    split <;> omega
  cases b
  case none => cases h; rfl
  case egsqsel =>
    cases h
    unfold win0Size
    omega
  case arbreqsel =>
    simp only [Dev.keyOf] at h
    split at h <;> cases h
    exact bank _
  all_goals
    cases h
    exact bank _

/-! PAGE_STS.IDLE of the pages with -I fields among the plain ones. -/

/-- The plain pages that have -I fields in registers of one word. -/
def idlePages : List Pg := [.RCT, .PSE, .CLS0, .CLS3, .BPM, .BGS]

/-- The offsets of the words that their IDLE depends on: PAGE_CTL, FLT_PEND, and the status words of BGS. -/
def idleOffs : List Nat := [0x008, 0x040, 0x050, 0x0C8]

section
variable {d e : Dev} (hw : ∀ j, j % 0x1000 ∈ idleOffs → e.word j = d.word j)
include hw

theorem Dev.bit_agrees (f : Field) (hf : f.wide = false) (ho : f.base % 0x1000 ∈ idleOffs) : e.bit f = d.bit f :=
  Dev.bit_of_word hf (hw _ ho)

theorem Dev.ctl_agrees {page : Nat} (ha : page % 0x1000 = 0) (f : Field) (hf : f.wide = false) (hb : f.base = 0x008) :
    e.bit (f.page page) = d.bit (f.page page) := by
  have ho : (f.page page).base % 0x1000 = 0x008 := by simp only [Field.page, hb]; omega
  exact Dev.bit_agrees hw (f.page page) hf (by rw [ho]; decide)

theorem Dev.idleUnless_agrees {page : Nat} (ha : page % 0x1000 = 0) (busy stopped : Bool) :
    e.idleUnless page busy stopped = d.idleUnless page busy stopped := by
  simp only [Dev.idleUnless, Dev.enabled, Dev.frozen, Dev.ctl_agrees hw ha PAGE_CTL.EN rfl rfl, Dev.ctl_agrees hw ha PAGE_CTL.FRZ rfl rfl,
    Dev.ctl_agrees hw ha PAGE_CTL.SRST rfl rfl]

theorem Dev.open_agrees {page : Nat} (ha : page % 0x1000 = 0) : e.open_ page = d.open_ page := by
  simp only [Dev.open_, Dev.enabled, Dev.frozen, Dev.safe, Dev.ctl_agrees hw ha PAGE_CTL.EN rfl rfl,
    Dev.ctl_agrees hw ha PAGE_CTL.FRZ rfl rfl, Dev.ctl_agrees hw ha PAGE_CTL.SRST rfl rfl, Dev.bit_agrees hw FLT_PEND.SAFE rfl (by decide)]

/-- Devices with the same words at these offsets, the same network path and the same pools, have the same IDLE. -/
theorem Dev.pageIdle_agrees {pg : Pg} (i : Nat) {page : Nat} (hpg : pg ∈ idlePages) (ha : page % 0x1000 = 0) (hnet : e.net = d.net)
    (hpools : e.pools = d.pools) (hwaits : e.bpmWaits = d.bpmWaits) : e.pageIdle pg i page = d.pageIdle pg i page := by
  have works : e.pageWorks pg i = d.pageWorks pg i := by
    cases pg
    case RCT | CLS3 => rfl
    case PSE => simp only [Dev.pageWorks, Dev.pse, hnet]
    case CLS0 => simp only [Dev.pageWorks, hnet, Dev.open_agrees hw (by decide : pageCLS 0 % 0x1000 = 0)]
    case BPM => simp only [Dev.pageWorks, Dev.bpmBusy, Dev.pool, hpools, hwaits]
    case BGS =>
      simp only [Dev.pageWorks, Dev.open_agrees hw (by decide : pageBGS % 0x1000 = 0), Dev.bit_agrees hw BGS_CAL_STS.BUSY rfl (by decide),
        Dev.bit_agrees hw BGS_PMB_STS.BUSY rfl (by decide)]
    all_goals exact absurd hpg (by decide)
  cases pg
  case RCT | CLS3 | PSE | CLS0 | BPM | BGS => simp only [Dev.pageIdle, works, Dev.idleUnless_agrees hw ha]
  all_goals exact absurd hpg (by decide)

end

/-! The fields of a register in these pages. -/

theorem regDesc_mem {pg : Pg} {i off : Nat} {r : RegDesc} (h : regDesc pg i off = some r) : r ∈ regTable pg ∧ (r.count = 1 → off = r.off) := by
  have hhas := List.find?_some h
  refine ⟨List.mem_of_find?_eq_some h, fun hc => ?_⟩
  simp only [descHas, hc, if_true, Bool.and_eq_true, beq_iff_eq] at hhas
  exact hhas.1.2

theorem plain_idle_regs : ∀ pg : Pg, plainPage pg = true → ∀ r ∈ regTable pg, r.half = .single →
    (maskI r.fields = 0 ∧ maskI (r.fields.drop 1) = 0) ∨ (pg ∈ idlePages ∧ r.count = 1 ∧ r.off ∉ idleOffs) := by
  intro pg; cases pg <;> decide

theorem fieldsAt_cases (pg : Pg) (off bank : Nat) (fs : List FieldAcc) : fieldsAt pg off bank fs = fs ∨ fieldsAt pg off bank fs = fs.drop 1 := by
  unfold fieldsAt
  split
  · exact .inr rfl
  · exact .inl rfl

theorem Dev.putWrap_frame (d : Dev) (page k : Nat) (fs : List FieldAcc) (v : Word) : ∃ w, d.putWrap page k fs v = { d with wpend := w } := by
  unfold Dev.putWrap
  dsimp only
  split
  · exact ⟨d.wpend, rfl⟩
  · exact ⟨_, rfl⟩

@[simp] theorem Dev.putWrap_word (d : Dev) (page k : Nat) (fs : List FieldAcc) (v : Word) (j : Nat) :
    (d.putWrap page k fs v).word j = d.word j := by
  obtain ⟨w, h⟩ := d.putWrap_frame page k fs v
  rw [h]
  rfl

@[simp] theorem Dev.putWrap_held (d : Dev) (page k : Nat) (fs : List FieldAcc) (v : Word) (j : Nat) :
    (d.putWrap page k fs v).held j = d.held j := by
  obtain ⟨w, h⟩ := d.putWrap_frame page k fs v
  rw [h]
  rfl

/-- What -L and W1C fields make of the word: those take what is written, these clear where 1 is written. -/
def Dev.liveWord (d : Dev) (k : Nat) (fs : List FieldAcc) (v : Word) : Word := mergeWord (maskL fs) (d.word k) v &&& ~~~(v &&& maskC fs)

theorem Dev.putLive_clocked (d : Dev) (k : Nat) (fs : List FieldAcc) (v : Word) : d.putLive true k fs v = d.setWord k (d.liveWord k fs v) := (rfl)

theorem Dev.putLive_stopped (d : Dev) (k : Nat) (fs : List FieldAcc) (v : Word) :
    d.putLive false k fs v = d.holdLive k (maskL fs) v (v &&& maskC fs) := (rfl)

theorem Dev.putLive_frame (d : Dev) (run : Bool) (k : Nat) (fs : List FieldAcc) (v : Word) :
    ∃ r l, d.putLive run k fs v = { d with regs := r, liveHeld := l } := by
  cases run with
  | true => exact ⟨_, d.liveHeld, rfl⟩
  | false =>
    obtain ⟨l, h⟩ := d.holdLive_frame k (maskL fs) v (v &&& maskC fs)
    exact ⟨d.regs, l, by rw [Dev.putLive_stopped, h]⟩

theorem Dev.putLive_word_ne (d : Dev) (run : Bool) (fs : List FieldAcc) (v : Word) {k j : Nat} (h : k ≠ j) :
    (d.putLive run k fs v).word j = d.word j := by
  cases run with
  | true => rw [Dev.putLive_clocked, Dev.word_setWord_ne _ _ h]
  | false => rw [Dev.putLive_stopped, Dev.holdLive_word]

/-- In these pages an -I field asks for IDLE alone: with the clock running it is written at once. -/
theorem Dev.putIdle_clocked (d : Dev) {pg : Pg} (hpl : plainPage pg = true) (i page off k : Nat) (fs : List FieldAcc) (v : Word) :
    d.putIdle true pg i page off k fs v =
      if maskI fs = 0 then d
      else if d.pageIdle pg i page then d.setWord k (mergeWord (maskI fs) (d.word k) v)
      else if d.word k &&& maskI fs = v &&& maskI fs then d else d.ignored page off := by
  have hene : pg ≠ .ENE := fun h => absurd (h ▸ hpl) (by decide)
  have hchn : pg ≠ .CHN := fun h => absurd (h ▸ hpl) (by decide)
  simp [Dev.putIdle, Dev.takesIdle, hene, hchn]

/-- And while it is stopped it waits. -/
theorem Dev.putIdle_stopped (d : Dev) {pg : Pg} (hpl : plainPage pg = true) (i page off k : Nat) (fs : List FieldAcc) (v : Word) :
    d.putIdle false pg i page off k fs v =
      if maskI fs = 0 then d
      else if d.pageIdle pg i page then d.holdLive k (maskI fs) v 0
      else if d.shown k &&& maskI fs = v &&& maskI fs then d else d.ignored page off := by
  have hene : pg ≠ .ENE := fun h => absurd (h ▸ hpl) (by decide)
  have hchn : pg ≠ .CHN := fun h => absurd (h ▸ hpl) (by decide)
  simp [Dev.putIdle, Dev.takesIdle, hene, hchn]

/-- What a write of -I fields can do: nothing, the register's word, a write that waits, or the record of an ignored write. -/
inductive IdleStep (page off k : Nat) (d : Dev) : Dev → Prop
  | same : IdleStep page off k d d
  | word (w : Word) : IdleStep page off k d (d.setWord k w)
  | waits (m v : Word) : IdleStep page off k d (d.holdLive k m v 0)
  | ignored : IdleStep page off k d (d.ignored page off)

theorem Dev.putIdle_step (d : Dev) (clocked : Bool) {pg : Pg} (hpl : plainPage pg = true) (i page off k : Nat) (fs : List FieldAcc)
    (v : Word) : IdleStep page off k d (d.putIdle clocked pg i page off k fs v) := by
  cases clocked with
  | true =>
    rw [Dev.putIdle_clocked _ hpl]
    split_ifs
    · exact .same
    · exact .word _
    · exact .same
    · exact .ignored
  | false =>
    rw [Dev.putIdle_stopped _ hpl]
    split_ifs
    · exact .same
    · exact .waits _ _
    · exact .same
    · exact .ignored

/-- The device with -L, W1C and -W fields written. -/
def Dev.putFirst (d : Dev) (pg : Pg) (i page k : Nat) (fs : List FieldAcc) (v : Word) : Dev :=
  (d.putLive (d.pageClocked pg i) k fs v).putWrap page k fs v

/-- And then the -I fields. -/
def Dev.putFields (d : Dev) (pg : Pg) (i page off k : Nat) (fs : List FieldAcc) (v : Word) : Dev :=
  (d.putFirst pg i page k fs v).putIdle (d.pageClocked pg i) pg i page off k fs v

theorem mayWrite_plain (rq : Requester) {pg : Pg} (hpl : plainPage pg = true) (i off : Nat) : mayWrite rq pg i off = true := by
  cases pg
  case SEC | HCCC | HCC => exact absurd hpl (by decide)
  all_goals rfl

theorem Dev.unknownOp_plain (d : Dev) {pg : Pg} (hpl : plainPage pg = true) (off : Nat) (v : Word) : d.unknownOp pg off v = d := by
  cases pg
  case SEC | HCCC => exact absurd hpl (by decide)
  all_goals rfl

theorem Dev.writeWord_plain (d : Dev) (now : Nat) (rq : Requester) {a i k : Nat} {pg : Pg} {r : RegDesc} (v : Word)
    (hp : pageOf a = some (pg, i)) (hpl : plainPage pg = true) (ho : 0x040 ≤ a % 0x1000) (hr : regDesc pg i (a % 0x1000) = some r)
    (hk : d.keyOf a i r.bank = some k) : d.writeWord now rq a (a % 0x1000) v =
      Dev.afterWrite d (d.putFields pg i (pageBase a) (a % 0x1000) k (fieldsAt pg (a % 0x1000) (k / win0Size - 1) r.fields) v) now pg i
        (pageBase a) (a % 0x1000) := by
  have hpci : pg ≠ .PCI := fun h => absurd (h ▸ hpl) (by decide)
  have hflt : pg ≠ .FLT1 := fun h => absurd (h ▸ hpl) (by decide)
  simp [Dev.writeWord, hp, mayWrite_plain rq hpl, hpci, hflt, Dev.unknownOp_plain _ hpl, Nat.not_lt.2 ho, hr, hk, Dev.putFields, Dev.putFirst]

/-- What follows from a write in these pages: a timer of CLS and a pending SWAP may go.  The budgets of WDP are written by a command of their own. -/
theorem Dev.afterWrite_plain (old d : Dev) (now : Nat) {pg : Pg} (hpl : plainPage pg = true) (i page off : Nat)
    (hwdp : pg = .WDP → off = 0x048 ∨ off = 0x04C → old.word (page + off) = d.word (page + off)) :
    ∃ n w, Dev.afterWrite old d now pg i page off = { d with net := n, wpend := w } ∧
      w = if pg = .ARB ∧ off = 0x05C then (d.dropSwap i).wpend else d.wpend := by
  have same : ∀ p : Pg, p ≠ .ARB → d.wpend = if p = .ARB ∧ off = 0x05C then (d.dropSwap i).wpend else d.wpend := fun p hne => by
    rw [if_neg (fun hc => hne hc.1)]
  cases pg
  case WDP => exact ⟨d.net, d.wpend, if_neg (fun hc => hc.2 (hwdp rfl hc.1)), same .WDP (by decide)⟩
  case CLS3 =>
    simp only [Dev.afterWrite]
    split
    · split
      · exact ⟨d.net, d.wpend, rfl, same .CLS3 (by decide)⟩
      · exact ⟨_, d.wpend, rfl, same .CLS3 (by decide)⟩
    · exact ⟨d.net, d.wpend, rfl, same .CLS3 (by decide)⟩
  case ARB =>
    simp only [Dev.afterWrite, true_and]
    split
    · refine ⟨d.net, _, ?_, rfl⟩
      unfold Dev.dropSwap
      dsimp only
      split <;> rfl
    · exact ⟨d.net, d.wpend, rfl, rfl⟩
  case GLB | RCT | PSEC | PSE | CLS0 | CLS1 | CLS2 | BPM | EGS | BGS | ANT | CLK => exact ⟨d.net, d.wpend, rfl, same _ (by decide)⟩
  all_goals exact absurd hpl (by decide)

/-! An ignored write (R25, R31). -/

theorem Dev.ignored_word_ne (d : Dev) (page off : Nat) {j : Nat} (h : j ≠ page + 0x00C) : (d.ignored page off).word j = d.word j := by
  have hb : ∀ f : Field, f.base = 0x00C → (f.page page).base ≠ j := fun f hf => by simp only [Field.page, hf]; omega
  unfold Dev.ignored
  split
  · rfl
  · rw [Dev.word_wr_ne _ (PAGE_STS.WIGN.page page) _ (hb _ rfl) (by simp [Field.page, PAGE_STS.WIGN]),
      Dev.word_wr_ne _ (PAGE_STS.WIGN_OFF.page page) _ (hb _ rfl) (by simp [Field.page, PAGE_STS.WIGN_OFF])]

/-- What PAGE_STS becomes depends on PAGE_STS alone. -/
theorem Dev.ignored_word_congr {d e : Dev} (page off : Nat) (h : e.word (page + 0x00C) = d.word (page + 0x00C)) :
    (e.ignored page off).word (page + 0x00C) = (d.ignored page off).word (page + 0x00C) := by
  have hb : page + 0x00C = 0x00C + page := Nat.add_comm _ _
  rw [hb] at h ⊢
  unfold Dev.ignored
  rw [Dev.bit_of_word (f := PAGE_STS.WIGN.page page) rfl h]
  split
  · exact h
  · rw [Dev.wr_narrow _ _ _ rfl, Dev.wr_narrow _ _ _ rfl, Dev.wr_narrow _ _ _ rfl, Dev.wr_narrow _ _ _ rfl]
    simp only [Field.page, PAGE_STS.WIGN, PAGE_STS.WIGN_OFF, Dev.word_setWord_self, h]

@[simp] theorem Dev.ignored_held (d : Dev) (page off k : Nat) : (d.ignored page off).held k = d.held k := by
  unfold Dev.ignored
  split
  · rfl
  · unfold Dev.held
    rw [Dev.wr_liveHeld, Dev.wr_liveHeld]

theorem IdleStep.word_ne {page off k j : Nat} {d e : Dev} (h : IdleStep page off k d e) (hk : j ≠ k) (hw : j ≠ page + 0x00C) :
    e.word j = d.word j := by
  cases h with
  | same => rfl
  | word w => exact Dev.word_setWord_ne _ _ hk.symm
  | waits m v => exact Dev.holdLive_word _ _ _ _ _ _
  | ignored => exact Dev.ignored_word_ne _ _ _ hw

theorem IdleStep.posted {page off k : Nat} {d e : Dev} (h : IdleStep page off k d e) : e.posted = d.posted := by
  cases h with
  | same => rfl
  | word w => rfl
  | waits m v => exact Dev.holdLive_posted _ _ _ _ _
  | ignored => exact Dev.ignored_posted _ _ _

/-! The fields written. -/

section
variable (d : Dev) {pg : Pg} (hpl : plainPage pg = true) (i page off k : Nat) (fs : List FieldAcc) (v : Word)

theorem Dev.putFirst_frame (pg : Pg) : ∃ r l w, d.putFirst pg i page k fs v = { d with regs := r, liveHeld := l, wpend := w } := by
  obtain ⟨r, l, h⟩ := d.putLive_frame (d.pageClocked pg i) k fs v
  obtain ⟨w, h'⟩ := (d.putLive (d.pageClocked pg i) k fs v).putWrap_frame page k fs v
  exact ⟨r, l, w, by rw [Dev.putFirst, h', h]⟩

theorem Dev.putFirst_word_ne (pg : Pg) {j : Nat} (h : k ≠ j) : (d.putFirst pg i page k fs v).word j = d.word j :=
  (Dev.putWrap_word _ _ _ _ _ _).trans (d.putLive_word_ne _ fs v h)

theorem Dev.putFirst_word_clocked (hc : d.pageClocked pg i = true) : (d.putFirst pg i page k fs v).word k = d.liveWord k fs v := by
  refine (Dev.putWrap_word _ _ _ _ _ _).trans ?_
  rw [hc, Dev.putLive_clocked, Dev.word_setWord_self]

theorem Dev.putFirst_word_stopped (hc : d.pageClocked pg i = false) (j : Nat) : (d.putFirst pg i page k fs v).word j = d.word j := by
  refine (Dev.putWrap_word _ _ _ _ _ _).trans ?_
  rw [hc, Dev.putLive_stopped, Dev.holdLive_word]

theorem Dev.putFirst_held_stopped (hc : d.pageClocked pg i = false) : (d.putFirst pg i page k fs v).held k =
    ((d.held k).1 ||| maskL fs, mergeWord (maskL fs) (d.held k).2.1 v, (d.held k).2.2 ||| (v &&& maskC fs)) := by
  refine (Dev.putWrap_held _ _ _ _ _ _).trans ?_
  rw [hc, Dev.putLive_stopped, Dev.holdLive_held]

include hpl

/-- Words beside the register's and PAGE_STS stay. -/
theorem Dev.putFields_word_ne {j : Nat} (hk : j ≠ k) (hw : j ≠ page + 0x00C) : (d.putFields pg i page off k fs v).word j = d.word j :=
  ((d.putFirst pg i page k fs v).putIdle_step _ hpl i page off k fs v).word_ne hk hw |>.trans
    (d.putFirst_word_ne i page k fs v pg hk.symm)

theorem Dev.putFields_posted : (d.putFields pg i page off k fs v).posted = d.posted := by
  obtain ⟨r, l, w, h⟩ := d.putFirst_frame i page k fs v pg
  refine ((d.putFirst pg i page k fs v).putIdle_step _ hpl i page off k fs v).posted.trans ?_
  rw [h]

/-- Without -I fields nothing more is written. -/
theorem Dev.putFields_no_idle (h : maskI fs = 0) : d.putFields pg i page off k fs v = d.putFirst pg i page k fs v := by
  unfold Dev.putFields
  cases d.pageClocked pg i with
  | true => rw [Dev.putIdle_clocked _ hpl, if_pos h]
  | false => rw [Dev.putIdle_stopped _ hpl, if_pos h]

section
variable (hk : k ≠ page + 0x00C)
  (hidle : maskI fs ≠ 0 → (d.putFirst pg i page k fs v).pageIdle pg i page = d.pageIdle pg i page)
include hk hidle

theorem Dev.putFields_word_clocked (hc : d.pageClocked pg i = true) : (d.putFields pg i page off k fs v).word k =
    if d.pageIdle pg i page then mergeWord (maskI fs) (d.liveWord k fs v) v else d.liveWord k fs v := by
  have hlive := d.putFirst_word_clocked i page k fs v hc
  by_cases hm : maskI fs = 0
  · rw [d.putFields_no_idle hpl i page off k fs v hm, hlive, hm, mergeWord_zero, ite_self]
  · rw [Dev.putFields, hc, Dev.putIdle_clocked _ hpl, if_neg hm, hidle hm, ← hlive]
    split_ifs
    · exact Dev.word_setWord_self _ _ _
    · rfl
    · exact Dev.ignored_word_ne _ _ _ hk

theorem Dev.putFields_sts_clocked (hc : d.pageClocked pg i = true) : (d.putFields pg i page off k fs v).word (page + 0x00C) =
    (if d.pageIdle pg i page = true ∨ d.liveWord k fs v &&& maskI fs = v &&& maskI fs then d else d.ignored page off).word
      (page + 0x00C) := by
  have hlive := d.putFirst_word_clocked i page k fs v hc
  have hsts := d.putFirst_word_ne i page k fs v pg hk
  by_cases hm : maskI fs = 0
  · rw [d.putFields_no_idle hpl i page off k fs v hm, hsts, if_pos (.inr (by simp [hm]))]
  · rw [Dev.putFields, hc, Dev.putIdle_clocked _ hpl, if_neg hm, hidle hm, ← hlive]
    by_cases hi : d.pageIdle pg i page = true
    · rw [if_pos hi, if_pos (.inl hi), Dev.word_setWord_ne _ _ hk, hsts]
    · rw [if_neg hi]
      by_cases hv : (d.putFirst pg i page k fs v).word k &&& maskI fs = v &&& maskI fs
      · rw [if_pos hv, if_pos (.inr hv), hsts]
      · rw [if_neg hv, if_neg (not_or.2 ⟨hi, hv⟩)]
        exact Dev.ignored_word_congr page off hsts

end

/-- While the clock is stopped the register's word stays. -/
theorem Dev.putFields_word_stopped (hk : k ≠ page + 0x00C) (hc : d.pageClocked pg i = false) :
    (d.putFields pg i page off k fs v).word k = d.word k := by
  rw [← d.putFirst_word_stopped i page k fs v hc k, Dev.putFields, hc, Dev.putIdle_stopped _ hpl]
  split_ifs
  · rfl
  · exact Dev.holdLive_word _ _ _ _ _ _
  · rfl
  · exact Dev.ignored_word_ne _ _ _ hk

/-- -L and W1C bits wait, whatever -I bits do. -/
theorem Dev.putFields_held_stopped (hc : d.pageClocked pg i = false) :
    ((d.putFields pg i page off k fs v).held k).1 &&& maskL fs = maskL fs ∧
    ((d.putFields pg i page off k fs v).held k).2.1 &&& maskL fs = v &&& maskL fs ∧
    ((d.putFields pg i page off k fs v).held k).2.2 &&& (v &&& maskC fs) = v &&& maskC fs := by
  have hfirst := d.putFirst_held_stopped i page k fs v hc
  have hbits : ((d.putFirst pg i page k fs v).held k).1 &&& maskL fs = maskL fs ∧
      ((d.putFirst pg i page k fs v).held k).2.1 &&& maskL fs = v &&& maskL fs ∧
      ((d.putFirst pg i page k fs v).held k).2.2 &&& (v &&& maskC fs) = v &&& maskC fs := by
    rw [hfirst]
    exact ⟨or_and_self _ _, mergeWord_and _ _ _, or_and_self _ _⟩
  obtain ⟨h1, h2, h3⟩ := hbits
  rw [Dev.putFields, hc, Dev.putIdle_stopped _ hpl]
  split_ifs
  · exact ⟨h1, h2, h3⟩
  · rw [Dev.holdLive_held]
    exact ⟨or_keeps _ _ _ h1, mergeWord_keeps _ _ _ _ h2, or_keeps _ _ _ h3⟩
  · exact ⟨h1, h2, h3⟩
  · rw [Dev.ignored_held]
    exact ⟨h1, h2, h3⟩

/-- A register whose bits all wait keeps its word. -/
theorem Dev.putFields_word_same (hl : maskL fs = 0) (hi : maskI fs = 0) (hc : maskC fs = 0) (j : Nat) :
    (d.putFields pg i page off k fs v).word j = d.word j := by
  rw [d.putFields_no_idle hpl i page off k fs v hi]
  cases hrun : d.pageClocked pg i with
  | false => exact d.putFirst_word_stopped i page k fs v hrun j
  | true =>
    by_cases hj : k = j
    · rw [← hj, d.putFirst_word_clocked i page k fs v hrun]
      simp only [Dev.liveWord, hl, hc, mergeWord_zero]
      simp
    · exact d.putFirst_word_ne i page k fs v pg hj

end

/-! A write of a register. -/

/-- The budget registers of WDP have no field of the qualifiers here. -/
theorem wdp_budget_fields {i off : Nat} {r : RegDesc} (ho : off = 0x048 ∨ off = 0x04C) (hr : regDesc .WDP i off = some r) :
    r.fields = [.own 19 0] := by
  rcases ho with rfl | rfl <;> cases hr <;> rfl

/-- The key of a register is no key of a header word. -/
theorem key_ne_sts {d : Dev} {a i k : Nat} {b : Bank} (ho : 0x040 ≤ a % 0x1000) (hk : d.keyOf a i b = some k) : k ≠ pageBase a + 0x00C := by
  have := keyOf_off hk
  unfold pageBase
  omega

section
variable {s : State} {d : Dev} (h : s.Ready d) {a i k : Nat} {pg : Pg} {r : RegDesc} (hp : pageOf a = some (pg, i))
  (hpl : plainPage pg = true) (ho : 0x040 ≤ a % 0x1000) (hr : regDesc pg i (a % 0x1000) = some r) (hk : d.keyOf a i r.bank = some k)
include hp hpl ho hr hk

omit hp ho in
/-- A write of the register itself leaves the IDLE that its -I fields ask for. -/
theorem Dev.putFirst_idle (v : Word) (hs : r.half = .single)
    (hm : maskI (fieldsAt pg (a % 0x1000) (k / win0Size - 1) r.fields) ≠ 0) :
    (d.putFirst pg i (pageBase a) k (fieldsAt pg (a % 0x1000) (k / win0Size - 1) r.fields) v).pageIdle pg i (pageBase a) =
      d.pageIdle pg i (pageBase a) := by
  obtain ⟨hmem, hoff⟩ := regDesc_mem hr
  have hreg : pg ∈ idlePages ∧ r.count = 1 ∧ r.off ∉ idleOffs := by
    refine (plain_idle_regs pg hpl r hmem hs).resolve_left (fun ⟨h0, h1⟩ => hm ?_)
    rcases fieldsAt_cases pg (a % 0x1000) (k / win0Size - 1) r.fields with he | he <;> rw [he] <;> assumption
  obtain ⟨hpg, hc, hno⟩ := hreg
  have hko : k % 0x1000 ∉ idleOffs := by rw [keyOf_off hk, hoff hc]; exact hno
  obtain ⟨regs, live, wp, he⟩ := d.putFirst_frame i (pageBase a) k (fieldsAt pg (a % 0x1000) (k / win0Size - 1) r.fields) v pg
  refine Dev.pageIdle_agrees (fun j hj => ?_) i hpg (Nat.mul_mod_left _ _) ?_ ?_ ?_
  · exact d.putFirst_word_ne i _ k _ v pg (fun hkj => hko (hkj ▸ hj))
  all_goals rw [he]

include h

/-- The write leaves the device `e` with the fields written, beside what `afterWrite_plain` lets go. -/
theorem State.Ready.plainWrite (rq : Requester) (data : Nat) (ha : a % 4 = 0) (hs : r.half = .single) : ∃ e n w,
    e = d.putFields pg i (pageBase a) (a % 0x1000) k (fieldsAt pg (a % 0x1000) (k / win0Size - 1) r.fields) (BitVec.ofNat 32 data) ∧
    exec (.registerWrite rq a false data) s = .next (s.withDev { e with net := n, wpend := w }) ∧
    w = if pg = .ARB ∧ a % 0x1000 = 0x05C then (e.dropSwap i).wpend else e.wpend := by
  have hh : halfAt a = .single := by
    unfold halfAt
    rw [hp]
    dsimp only
    rw [hr]
    exact hs
  have hwdp : pg = .WDP → a % 0x1000 = 0x048 ∨ a % 0x1000 = 0x04C → d.word (pageBase a + a % 0x1000) =
      (d.putFields pg i (pageBase a) (a % 0x1000) k (fieldsAt pg (a % 0x1000) (k / win0Size - 1) r.fields)
        (BitVec.ofNat 32 data)).word (pageBase a + a % 0x1000) := by
    rintro rfl hoff
    rw [wdp_budget_fields hoff hr]
    exact (Dev.putFields_word_same d hpl i _ _ k _ _ rfl rfl rfl _).symm
  obtain ⟨n, w, he, hw⟩ := Dev.afterWrite_plain d _ s.now hpl i (pageBase a) (a % 0x1000) hwdp
  refine ⟨_, n, w, rfl, ?_, hw⟩
  rw [h.registerWrite_single rq data ha (by simp [hp]) hh, Dev.writeWord_plain d s.now rq _ hp hpl ho hr hk, he]
  exact congrArg _ (State.after_quiet _ ((Dev.putFields_posted d hpl i _ _ k _ _).trans h.posted))

end

/-- Settles O12: the write is `putFields`, whose word, PAGE_STS and waiting writes the lemmas above give. -/
theorem fieldsAreWrittenByTheirQualifiers : Obligations.FieldsAreWrittenByTheirQualifiers := by
  intro s t d rq a data k pg i r h ha hp hpl ho hr hs hk ht
  obtain ⟨e, n, w, rfl, he, -⟩ := h.plainWrite hp hpl ho hr hk rq data ha hs
  cases he.symm.trans ht
  intro fs v live
  have hsts : k ≠ pageBase a + 0x00C := key_ne_sts ho hk
  have hidle : maskI fs ≠ 0 → (d.putFirst pg i (pageBase a) k fs v).pageIdle pg i (pageBase a) = d.pageIdle pg i (pageBase a) :=
    Dev.putFirst_idle hpl hr hk v hs
  have word : ∀ j, (s.withDev { d.putFields pg i (pageBase a) (a % 0x1000) k fs v with net := n, wpend := w }).dev.word j =
      (d.putFields pg i (pageBase a) (a % 0x1000) k fs v).word j := fun j => rfl
  refine ⟨fun hc => ⟨fun hi => ?_, fun hi => ?_, ?_⟩, fun hc => ⟨?_, ?_⟩, fun j hj hw => ?_, rfl, rfl, rfl⟩
  · rw [word, d.putFields_word_clocked hpl i _ _ k fs v hsts hidle hc, if_pos hi]
    rfl
  · rw [word, d.putFields_word_clocked hpl i _ _ k fs v hsts hidle hc, if_neg (by simp [hi])]
    rfl
  · rw [word, d.putFields_sts_clocked hpl i _ _ k fs v hsts hidle hc]
    rfl
  · exact d.putFields_word_stopped hpl i _ _ k fs v hsts hc
  · exact d.putFields_held_stopped hpl i _ _ k fs v hc
  · exact d.putFields_word_ne hpl i _ _ k fs v hj hw

end Sys2Proof.Machine
end

section
/-! Writes that wait for their boundary (R29). -/

namespace Sys2Proof.Machine

/-! An entry put into a list in which no other satisfies a test. -/

theorem find_storeIns {α : Type} {q : Nat × α → Bool} {k : Nat} {v : α} {m : List (Nat × α)} (hm : ∀ e ∈ m, q e = false)
    (hq : q (k, v) = true) : (storeIns k v m).find? q = some (k, v) := by
  induction m with
  | nil => simp [storeIns, hq]
  | cons e r ih =>
    obtain ⟨j, x⟩ := e
    have hr : ∀ e ∈ r, q e = false := fun e he => hm e (by simp [he])
    simp only [storeIns]
    split
    · simp [hq]
    · split
      · simp [hq]
      · rw [List.find?_cons_of_neg (by simp [hm (j, x) (by simp)]), ih hr]

theorem filter_storeIns {α : Type} {q : Nat × α → Bool} {k : Nat} {v : α} {m : List (Nat × α)} (hm : ∀ e ∈ m, q e = false)
    (hq : q (k, v) = true) : (storeIns k v m).filter q = [(k, v)] := by
  have none : ∀ l : List (Nat × α), (∀ e ∈ l, q e = false) → l.filter q = [] := fun l hl =>
    List.filter_eq_nil_iff.2 (fun e he => by simp [hl e he])
  induction m with
  | nil => simp [storeIns, hq]
  | cons e r ih =>
    obtain ⟨j, x⟩ := e
    have hr : ∀ e ∈ r, q e = false := fun e he => hm e (by simp [he])
    simp only [storeIns]
    split
    · rw [List.filter_cons_of_pos hq, none _ hm]
    · split
      · rw [List.filter_cons_of_pos hq, none _ hr]
      · rw [List.filter_cons_of_neg (by simp [hm (j, x) (by simp)]), ih hr]

/-! Latches. -/

/-- No latch while WHOLD is 1. -/
theorem Dev.latch_held (d : Dev) {page : Nat} (h : d.bit (PAGE_CTL.WHOLD.page page) = true) : d.latch page = d := if_pos h

theorem Dev.latch_free (d : Dev) {page : Nat} (h : d.bit (PAGE_CTL.WHOLD.page page) = false) :
    d.latch page = d.latchKeys (fun k => keyPage k == page) := by
  unfold Dev.latch Dev.latchIf
  rw [if_neg (by simp [h])]
  simp only [Bool.and_true]

theorem Dev.latchKeys_wpend (d : Dev) (p : Nat → Bool) : (d.latchKeys p).wpend = d.wpend.filter (fun e => !p e.1) := by
  have hf : ∀ (l : List (Nat × Word × Word)) (e : Dev), (e.forEach l (fun d e => d.setWord (homeKey e.1)
      ((d.word (homeKey e.1) &&& ~~~e.2.1) ||| (e.2.2 &&& e.2.1)))).wpend = e.wpend := by
    intro l
    induction l with
    | nil => exact fun e => rfl
    | cons x r ih => exact fun e => ih _
  exact hf _ _

/-- After a latch nothing of the page waits. -/
theorem Dev.latch_wPending (d : Dev) {page : Nat} (h : d.bit (PAGE_CTL.WHOLD.page page) = false) : (d.latch page).wPending page = false := by
  rw [d.latch_free h, Dev.wPending, Dev.latchKeys_wpend]
  simp

/-- A latch of one write that waits puts its bits into the word. -/
theorem Dev.latch_word_of_one (d : Dev) {page k : Nat} {x : Word × Word} (h : d.bit (PAGE_CTL.WHOLD.page page) = false)
    (hf : d.wpend.filter (fun e => keyPage e.1 == page) = [(k, x)]) :
    (d.latch page).word (homeKey k) = (d.word (homeKey k) &&& ~~~x.1) ||| (x.2 &&& x.1) := by
  rw [d.latch_free h]
  unfold Dev.latchKeys Dev.forEach
  dsimp only
  rw [hf]
  exact Dev.word_setWord_self _ _ _

/-! -W fields of a register kept under its own address, outside the egress queues. -/

/-- What waits after -W fields are written: the new write in place of what waited for the register. -/
def Dev.wrapped (d : Dev) (k : Nat) (m v : Word) : List (Nat × (Word × Word)) :=
  storeIns k ((d.pendingAt k).1 ||| m, mergeWord m (d.pendingAt k).2 v) (d.wpend.filter (fun e => homeKey e.1 != k))

theorem Dev.putWrap_wpend (d : Dev) {page k : Nat} (hk : pendKey page k = k) {fs : List FieldAcc} (hm : maskW fs ≠ 0) (v : Word) :
    (d.putWrap page k fs v).wpend = d.wrapped k (maskW fs) v := by
  have hne : ((d.pendingAt k).1 ||| maskW fs, mergeWord (maskW fs) (d.pendingAt k).2 v) ≠ (0, 0) := by
    intro he
    have h0 := (Prod.mk.inj he).1
    have := or_and_self (d.pendingAt k).1 (maskW fs)
    rw [h0] at this
    exact hm (by rw [← this]; simp)
  unfold Dev.putWrap
  dsimp only
  rw [if_neg hm, hk]
  exact if_neg hne

section
variable {d e : Dev} {k : Nat} {m v : Word} (he : e.wpend = d.wrapped k m v) (hk : homeKey k = k)
include he hk

theorem Dev.pendingAt_wrapped : e.pendingAt k = ((d.pendingAt k).1 ||| m, mergeWord m (d.pendingAt k).2 v) := by
  have hf : e.wpend.find? (fun x => homeKey x.1 == k) =
      some (k, ((d.pendingAt k).1 ||| m, mergeWord m (d.pendingAt k).2 v)) := by
    rw [he]
    exact find_storeIns (fun x hx => by simpa using (List.mem_filter.1 hx).2) (by simp [hk])
  unfold Dev.pendingAt at hf ⊢
  rw [hf]

/-- The write waits in its page. -/
theorem Dev.wPending_wrapped : e.wPending (keyPage k) = true := by
  have hf : e.wpend.find? (fun x => homeKey x.1 == k) = some (k, ((d.pendingAt k).1 ||| m, mergeWord m (d.pendingAt k).2 v)) := by
    rw [he]
    exact find_storeIns (fun x hx => by simpa using (List.mem_filter.1 hx).2) (by simp [hk])
  exact List.any_eq_true.2 ⟨_, List.mem_of_find?_eq_some hf, by simp⟩

/-- Alone in its page it is in force after the next latch. -/
theorem Dev.latch_wrapped (hp : d.wPending (keyPage k) = false) (hq : d.pendingAt k = (0, 0))
    (hw : e.bit (PAGE_CTL.WHOLD.page (keyPage k)) = false) : (e.latch (keyPage k)).word k = mergeWord m (e.word k) v := by
  have hone : e.wpend.filter (fun x => keyPage x.1 == keyPage k) = [(k, (m, mergeWord m 0 v))] := by
    have h0 : (0 : Word) ||| m = m := by simp
    rw [he, Dev.wrapped, hq, h0]
    refine filter_storeIns (fun x hx => ?_) (by simp)
    have := List.any_eq_false.1 hp x (List.mem_filter.1 hx).1
    simpa using this
  have hl := e.latch_word_of_one hw hone
  rw [hk] at hl
  rw [hl, mergeWord_and]
  rfl

end

/-! SWAP of an arbiter's slot table (R301). -/

/-- The lowest bit of a word written says whether the number is odd. -/
theorem ofNat_and_one (n : Nat) : BitVec.ofNat 32 n &&& 1 = 0 ↔ n % 2 = 0 := by
  have hn : (BitVec.ofNat 32 n &&& 1).toNat = n % 2 := by
    rw [BitVec.toNat_and]
    change n % 2 ^ 32 &&& 1 = n % 2
    rw [Nat.and_one_is_mod]
    omega
  rw [← BitVec.toNat_inj, hn]
  rfl

/-- The slot table's SWAP goes where nothing else waited and it is written 0. -/
theorem Dev.dropSwap_even {d e : Dev} {n : Nat} {v : Word} (he : e.wpend = d.wrapped (ARB_SLOT_CTL.SWAP.on n).base 1 v)
    (hk : homeKey (ARB_SLOT_CTL.SWAP.on n).base = (ARB_SLOT_CTL.SWAP.on n).base) (hv : v &&& 1 = 0) (hd : d.wpend = []) :
    (e.dropSwap n).wpend = [] := by
  have hp := Dev.pendingAt_wrapped he hk
  unfold Dev.dropSwap
  dsimp only
  rw [if_pos (by rw [hp, mergeWord_and, hv])]
  simp [he, Dev.wrapped, hd, storeIns, storeDel]

theorem Dev.dropSwap_odd {d e : Dev} {n : Nat} {v : Word} (he : e.wpend = d.wrapped (ARB_SLOT_CTL.SWAP.on n).base 1 v)
    (hk : homeKey (ARB_SLOT_CTL.SWAP.on n).base = (ARB_SLOT_CTL.SWAP.on n).base) (hv : v &&& 1 ≠ 0) : e.dropSwap n = e := by
  have hp := Dev.pendingAt_wrapped he hk
  exact if_neg (by rw [hp, mergeWord_and]; exact hv)

/-! A write of a register all of whose bits wait. -/

/-- Such a register of a plain page is kept under its own address; SWAP is the one of ARB at 0x05C. -/
theorem plain_wrap_regs : ∀ pg : Pg, plainPage pg = true → ∀ r ∈ regTable pg, r.half = .single →
    maskL r.fields = 0 → maskI r.fields = 0 → maskC r.fields = 0 → maskW r.fields ≠ 0 →
    r.count = 1 ∧ r.bank = .none ∧ pg ≠ .EGS ∧ (pg = .ARB → r.off ≠ 0x048 ∧ (r.off = 0x05C → maskW r.fields = 1)) := by
  intro pg; cases pg <;> decide

section
variable {a i : Nat} {pg : Pg} (hp : pageOf a = some (pg, i))
include hp

theorem pageOf_pageBase : pageOf (pageBase a) = some (pg, i) := by
  obtain ⟨b, n, hm, hi, hb⟩ := pageBase_of hp
  rw [hb]
  exact pageOf_mem hm hi (off := 0) (by decide)

theorem keyPage_addr : keyPage a = pageBase a := by
  unfold keyPage
  rw [Nat.mod_eq_of_lt (win0_of_page hp)]

theorem pendKey_addr : pendKey (pageBase a) a = a := by
  have hle : pageBase a ≤ a := Nat.div_mul_le_self _ _
  rw [pendKey, keyPage_addr hp]
  omega

theorem homeKey_addr (hne : pg ≠ .EGS) : homeKey a = a := by
  have hq : isQueueKey a = false := not_queueKey (pageOf_pageBase hp) (Nat.mul_mod_left _ _) (keyPage_addr hp) hne
  unfold homeKey
  rw [hq]
  rfl

/-- The address of SWAP. -/
theorem swap_base (hpg : pg = .ARB) (ho : a % 0x1000 = 0x05C) : (ARB_SLOT_CTL.SWAP.on i).base = a := by
  subst hpg
  obtain ⟨hb, -⟩ := page_addr (b := 0x620000) (n := 32) (pageOf_pageBase hp) (Nat.mul_mod_left _ _) (by decide)
  unfold pageBase at hb
  simp only [Field.on, ARB_SLOT_CTL.SWAP]
  omega

theorem Dev.putFields_wpend (d : Dev) (hpl : plainPage pg = true) (off : Nat) {fs : List FieldAcc} (hi : maskI fs = 0) (hw : maskW fs ≠ 0)
    (v : Word) : (d.putFields pg i (pageBase a) off a fs v).wpend = d.wrapped a (maskW fs) v := by
  obtain ⟨r, l, h⟩ := d.putLive_frame (d.pageClocked pg i) a fs v
  rw [d.putFields_no_idle hpl i _ _ a fs v hi, Dev.putFirst, Dev.putWrap_wpend _ (pendKey_addr hp) hw, h]
  rfl

end

/-- Settles O13: the write waits as `wrapped` says, beside a SWAP written 0, and the latch of the page finds it. -/
theorem wrapWritesWaitForTheirBoundary : Obligations.WrapWritesWaitForTheirBoundary := by
  intro s t d rq a data k pg i r h ha hp hpl ho hr hs hl hi hc hm hk ht
  obtain ⟨hmem, hoff⟩ := regDesc_mem hr
  obtain ⟨hone, hbank, hegs, harb⟩ := plain_wrap_regs pg hpl r hmem hs hl hi hc hm
  obtain ⟨e, n, w, he, hx, hw⟩ := h.plainWrite hp hpl ho hr hk rq data ha hs
  cases hx.symm.trans ht
  obtain rfl : a = k := by rw [hbank] at hk; exact Option.some.inj hk
  have hfs : fieldsAt pg (a % 0x1000) (a / win0Size - 1) r.fields = r.fields :=
    if_neg (fun hc => (harb hc.1).1 (by rw [← hoff hone]; exact hc.2.1))
  rw [hfs] at he
  have hwp : e.wpend = d.wrapped a (maskW r.fields) (BitVec.ofNat 32 data) := by
    rw [he]; exact d.putFields_wpend hp hpl _ hi hm _
  have hhome : homeKey a = a := homeKey_addr hp hegs
  have hpage : keyPage a = pageBase a := keyPage_addr hp
  have words : ∀ j, e.word j = d.word j := fun j => by
    rw [he]; exact d.putFields_word_same hpl i _ _ a _ _ hl hi hc j
  have swap : pg = .ARB → a % 0x1000 = 0x05C →
      e.wpend = d.wrapped (ARB_SLOT_CTL.SWAP.on i).base 1 (BitVec.ofNat 32 data) ∧
        homeKey (ARB_SLOT_CTL.SWAP.on i).base = (ARB_SLOT_CTL.SWAP.on i).base := fun hpg h5 => by
    rw [swap_base hp hpg h5, hwp, (harb hpg).2 (by rw [← hoff hone, h5])]
    exact ⟨rfl, hhome⟩
  refine ⟨words, fun hpg h5 heven hd => ?_, fun hodd => ?_⟩
  · obtain ⟨hwp', hhome'⟩ := swap hpg h5
    change w = []
    rw [hw, if_pos ⟨hpg, h5⟩]
    exact Dev.dropSwap_even hwp' hhome' ((ofNat_and_one data).2 heven) hd
  · have hkeep : w = e.wpend := by
      rw [hw]
      split
      · rename_i hsw
        obtain ⟨hpg, h5⟩ := hsw
        obtain ⟨hwp', hhome'⟩ := swap hpg h5
        have hv : BitVec.ofNat 32 data &&& 1 ≠ 0 := fun h0 => by
          have := (ofNat_and_one data).1 h0
          have := hodd hpg h5
          omega
        rw [Dev.dropSwap_odd hwp' hhome' hv]
      · rfl
    have hwt : (s.withDev { e with net := n, wpend := w }).dev.wpend = d.wrapped a (maskW r.fields) (BitVec.ofNat 32 data) :=
      hkeep.trans hwp
    have hbit : (s.withDev { e with net := n, wpend := w }).dev.bit (PAGE_CTL.WHOLD.page (pageBase a)) =
        d.bit (PAGE_CTL.WHOLD.page (pageBase a)) := Dev.bit_of_word rfl (words _)
    have hword : (s.withDev { e with net := n, wpend := w }).dev.word a = d.word a := words a
    generalize (s.withDev { e with net := n, wpend := w }).dev = t at hwt hbit hword ⊢
    rw [← hpage] at hbit ⊢
    refine ⟨Dev.wPending_wrapped hwt hhome, ?_, fun hnone hzero hhold => ⟨?_, ?_⟩, fun hhold => ?_, Dev.resetPage_wPending _ _⟩
    · rw [Dev.pendingAt_wrapped hwt hhome]
      exact mergeWord_and _ _ _
    · rw [Dev.latch_wrapped hwt hhome hnone hzero (hbit.trans hhold), hword]
    · exact t.latch_wPending (hbit.trans hhold)
    · exact t.latch_held (hbit.trans hhold)

end Sys2Proof.Machine
end

section
/-! The commands of a stream channel: what CHN_CMD accepts, what the firmware completes, and the end of a drain (R50 to R55, R116). -/

namespace Sys2Proof.Machine

/-! A command that begins: BUSY, and the command posted (R55). -/

/-- The device with a command of channel `c` begun. -/
def Dev.begun (d : Dev) (c : Nat) (op : ChOp) : Dev := (d.wr (CHN_CMD_STS.BUSY.on c) 1).upCh c (fun x => { x with posted := some op })

/-- BUSY lies in CHN_CMD_STS, at 0x044 of its page: a field at another offset keeps its value. -/
theorem Dev.begun_rd (d : Dev) (c : Nat) (op : ChOp) {f : Field} (hw : f.wide = false) (h : f.base % 0x1000 ≠ 0x044) :
    (d.begun c op).rd f = d.rd f :=
  Dev.rd_wr_word d (CHN_CMD_STS.BUSY.on c) f 1 rfl hw (by simp only [Field.on, CHN_CMD_STS.BUSY]; omega)

theorem Field.on_offset (f : Field) (i : Nat) : (f.on i).base % 0x1000 = f.base % 0x1000 := Nat.add_mul_mod_self_left _ _ _

theorem Dev.begun_rd_on (d : Dev) (c i : Nat) (op : ChOp) {f : Field} (hw : f.wide = false) (h : f.base % 0x1000 ≠ 0x044) :
    (d.begun c op).rd (f.on i) = d.rd (f.on i) :=
  d.begun_rd c op hw (by rwa [Field.on_offset])

section
variable (d : Dev) (c i : Nat) (op : ChOp)

@[simp] theorem Dev.begun_chState : (d.begun c op).chState i = d.chState i := d.begun_rd_on c i op rfl (by decide)

@[simp] theorem Dev.begun_isDecode : (d.begun c op).isDecode i = d.isDecode i :=
  congrArg (· == 1) (d.begun_rd_on c i op (f := CHN_MODE.KIND) rfl (by decide))

@[simp] theorem Dev.begun_isMember : (d.begun c op).isMember i = d.isMember i := by
  unfold Dev.isMember
  rw [Dev.begun_isDecode, Dev.begun_rd_on _ _ _ _ rfl (by decide)]

@[simp] theorem Dev.begun_leaderOf : (d.begun c op).leaderOf i = d.leaderOf i := by
  unfold Dev.leaderOf
  rw [Dev.begun_isMember, Dev.begun_rd_on _ _ _ _ rfl (by decide)]

@[simp] theorem Dev.begun_membersOf : (d.begun c op).membersOf i = d.membersOf i := by
  unfold Dev.membersOf
  simp only [Dev.begun_isMember, Dev.begun_chState, Dev.begun_rd_on d c _ op (f := CHN_GROUP.LEADER) rfl (by decide)]

end

/-! Commands that are taken (R55). -/

theorem Field.page_offset {f : Field} (c : Nat) (h : f.base % 0x1000 ≠ 0x044) : (f.page (pageCHN c)).base % 0x1000 ≠ 0x044 := by
  simp only [Field.page, pageCHN]
  omega

/-- Channel `c` takes the command `op`: no safe state, its page enabled and not frozen, and its state one in which the command is allowed. -/
structure Dev.Takes (d : Dev) (c : Nat) (op : ChOp) : Prop where
  safe : d.safe = false
  enabled : d.enabled (pageCHN c) = true
  frozen : d.frozen (pageCHN c) = false
  allowed : opAllowed op (d.chState c) = true

namespace Dev.Takes
variable {d : Dev} {c : Nat} {op : ChOp}

theorem begun (h : d.Takes c op) : (d.begun c op).Takes c op where
  safe := (congrArg (· == 1) (d.begun_rd c op rfl (by decide))).trans h.safe
  enabled := (congrArg (· == 1) (d.begun_rd c op (f := PAGE_CTL.EN.page (pageCHN c)) rfl (Field.page_offset c (by decide)))).trans h.enabled
  frozen := (congrArg (· == 1) (d.begun_rd c op (f := PAGE_CTL.FRZ.page (pageCHN c)) rfl (Field.page_offset c (by decide)))).trans h.frozen
  allowed := by rw [Dev.begun_chState]; exact h.allowed

/-! What a command that is taken does (R55): those that the firmware carries out wait for it. -/
theorem tryCommand_configure (h : d.Takes c .configure) (e : Env) : d.tryCommand e c .configure = d := by
  simp [Dev.tryCommand, h.safe, h.enabled, h.frozen, h.allowed]

theorem tryCommand_open_ (h : d.Takes c .open_) (e : Env) (hs : d.bit (CHN_STATE.STALE.on c) = false) : d.tryCommand e c .open_ = d := by
  simp [Dev.tryCommand, h.safe, h.enabled, h.frozen, h.allowed, hs]

theorem tryCommand_close (h : d.Takes c .close) (e : Env) : d.tryCommand e c .close = d := by
  simp [Dev.tryCommand, h.safe, h.enabled, h.frozen, h.allowed]

theorem tryCommand_drain (h : d.Takes c .drain) (e : Env) (hg : d.groupBusy c = false) :
    d.tryCommand e c .drain = (d.startDrain e c).cmdResult c 0 0 := by
  simp [Dev.tryCommand, h.safe, h.enabled, h.frozen, h.allowed, hg]

theorem tryCommand_abort (h : d.Takes c .abort) (e : Env) : d.tryCommand e c .abort = (d.abortChannel e.now c).cmdResult c 0 0 := by
  simp [Dev.tryCommand, h.safe, h.enabled, h.frozen, h.allowed]

end Dev.Takes

/-! What CHN_CMD answers out of reset. -/

/-- The commands of CHN_CMD of channel `c`, each with its operation. -/
def chnCommands (c : Fin 256) : List (Instr × ChOp) :=
  [(.configure c, .configure), (.openChannel c, .open_), (.drain c, .drain), (.abort c, .abort), (.close c, .close)]

theorem Dev.command_busy {d : Dev} {c : Nat} (h : d.bit (CHN_CMD_STS.BUSY.on c) = true) (e : Env) (op : ChOp) :
    d.command e c op = d.wr (CHN_CMD_STS.REJECT.on c) 1 := if_pos h

theorem Dev.command_begun {d : Dev} {c : Nat} (h : d.bit (CHN_CMD_STS.BUSY.on c) = false) (e : Env) (op : ChOp) :
    d.command e c op = (d.begun c op).tryCommand e c op := if_neg (by simp [h])

section
variable {s : State} {d : Dev} (h : s.Ready d) {c : Fin 256} {i : Instr} {op : ChOp} (hi : (i, op) ∈ chnCommands c)
include h hi

theorem State.Ready.chnCommand : exec i s = .next (s.after (d.command s.env c op)) := by
  simp only [chnCommands, List.mem_cons, Prod.mk.injEq, List.not_mem_nil, or_false] at hi
  obtain ⟨rfl, rfl⟩ | ⟨rfl, rfl⟩ | ⟨rfl, rfl⟩ | ⟨rfl, rfl⟩ | ⟨rfl, rfl⟩ := hi <;> exact h.run _

theorem State.Ready.chnCommand_begun (hb : d.bit (CHN_CMD_STS.BUSY.on c) = false) :
    exec i s = .next (s.after ((d.begun c op).tryCommand s.env c op)) := by
  rw [h.chnCommand hi, Dev.command_begun hb]

/-- One that the firmware carries out leaves the channel BUSY, and nothing else changes. -/
theorem State.Ready.chnCommand_posted (hb : d.bit (CHN_CMD_STS.BUSY.on c) = false)
    (hp : (d.begun c op).tryCommand s.env c op = d.begun c op) : exec i s = .next (s.withDev (d.begun c op)) := by
  rw [h.chnCommand_begun hi hb, hp, State.after_quiet]
  exact (Dev.wr_posted d _ _).trans h.posted

theorem State.Ready.chnCommand_rejected (hb : d.bit (CHN_CMD_STS.BUSY.on c) = true) :
    exec i s = .next (s.withDev (d.wr (CHN_CMD_STS.REJECT.on c) 1)) := by
  rw [h.chnCommand hi, Dev.command_busy hb, State.after_quiet]
  exact (Dev.wr_posted d _ _).trans h.posted

end

/-- ABORT of an active channel is completed at once (R52). -/
theorem State.Ready.abort {s : State} {d : Dev} (h : s.Ready d) {c : Fin 256} (hb : d.bit (CHN_CMD_STS.BUSY.on c) = false)
    (ht : d.Takes c .abort) :
    exec (.abort c) s = .next (s.after (((d.begun c .abort).abortChannel s.now c).cmdResult c 0 0)) := by
  rw [h.chnCommand_begun (op := .abort) (by simp [chnCommands]) hb, ht.begun.tryCommand_abort]
  rfl

/-- Settles O17: a command that is taken begins, and does what `Takes` says of it; one written while BUSY is rejected. -/
theorem channelCommandsAreAccepted : Obligations.ChannelCommandsAreAccepted := by
  intro s d c h hsafe hen hfrz
  have takes {op : ChOp} (ha : opAllowed op (d.chState c) = true) : d.Takes c op := ⟨hsafe, hen, hfrz, ha⟩
  refine ⟨fun hb => ⟨fun hst => ?_, fun hst hstale => ?_, fun hst => ?_, fun hst hg => ?_, fun hst => ?_⟩, fun hb i hi => ?_⟩
  · have ht := takes (op := .configure) (by simpa [opAllowed, or_assoc] using hst)
    exact h.chnCommand_posted (by simp [chnCommands]) hb (ht.begun.tryCommand_configure _)
  · have ht := takes (op := .open_) (by simpa [opAllowed, or_assoc] using hst)
    refine h.chnCommand_posted (by simp [chnCommands]) hb (ht.begun.tryCommand_open_ _ ?_)
    exact (congrArg (· == 1) (d.begun_rd_on c c .open_ rfl (by decide))).trans hstale
  · have ht := takes (op := .close) (by simpa [opAllowed, or_assoc] using hst)
    exact h.chnCommand_posted (by simp [chnCommands]) hb (ht.begun.tryCommand_close _)
  · have ht := takes (op := .drain) (by simpa [opAllowed, or_assoc] using hst)
    rw [h.chnCommand_begun (op := .drain) (by simp [chnCommands]) hb, ht.begun.tryCommand_drain _ hg]
    rfl
  · exact h.abort hb (takes (by simpa [opAllowed, or_assoc] using hst))
  · obtain ⟨⟨_, op⟩, hop, rfl⟩ := List.mem_map.1 (show i ∈ (chnCommands c).map Prod.fst from hi)
    exact h.chnCommand_rejected hop hb

/-! What the firmware and the channel's own work complete. -/

section
variable {s : State} {d : Dev} (h : s.Ready d) (c : Fin 256) (place : Option Placement) (ht : d.firmwareTakes c = true)
include h ht

theorem State.Ready.configureDone (hp : (d.ch c).posted = some .configure) :
    exec (.cmdDone c place) s = .next (s.after (d.doneConfigure c place)) := by
  refine (h.run _).trans ?_
  simp only [ht, hp, Bool.not_true, Bool.false_eq_true, if_false]

theorem State.Ready.openDone (hp : (d.ch c).posted = some .open_) (hw : d.openWaits c = false) :
    exec (.cmdDone c place) s = .next (s.after (d.doneOpen s.now c)) := by
  refine (h.run _).trans ?_
  simp only [ht, hp, hw, Bool.not_true, Bool.false_eq_true, if_false, State.env_now]

theorem State.Ready.closeDone (hp : (d.ch c).posted = some .close) : exec (.cmdDone c place) s = .next (s.after (d.doneClose c)) := by
  refine (h.run _).trans ?_
  simp only [ht, hp, Bool.not_true, Bool.false_eq_true, if_false]

end

section
variable {s : State} {d : Dev} (h : s.Ready d) (c : Fin 256)
include h

theorem State.Ready.drainComplete (hd : d.drained c = true) :
    exec (.drainComplete c) s = .next (s.after ((((d.discard c).setState c 1).release c).event (CHN_EVT.DRAINED.on c))) := by
  refine (h.run _).trans ?_
  simp only [hd, if_true]

theorem State.Ready.forceIrap (hk : d.isDecode c = false) (hst : d.chState c = 2 ∨ d.chState c = 3) :
    exec (.encForceIrap c) s = .next (s.after (d.forceRap c)) := by
  have hrun : (d.isDecode c || !(d.chState c == 2 || d.chState c == 3)) = false := by simpa [hk, ← or_iff_not_imp_left] using hst
  refine (h.run _).trans ?_
  simp only [hrun, Bool.false_eq_true, if_false]

end

/-- Settles O18: each of these commands answers its effect where its condition holds. -/
theorem channelWorkCompletes : Obligations.ChannelWorkCompletes := by
  intro s d c h
  exact ⟨fun place ht hp => h.configureDone c place ht hp, fun place ht hp hw => h.openDone c place ht hp hw,
    fun place ht hp => h.closeDone c place ht hp, h.drainComplete c, h.forceIrap c⟩

end Sys2Proof.Machine
end

section
/-! ABORT of a channel (R52, R59): what it does to the channels, the dispatcher's table and the network. -/

namespace Sys2Proof.Machine

/-! The channels, the dispatcher and the network. The operations on engines, pools, rings and registers leave all three. -/

/-- What the device holds of its streams: the channels, the dispatcher's table and the network path. -/
structure Streams where
  chans : List (Nat × Chan)
  wdp : Wdp
  net : Net

def Dev.streams (d : Dev) : Streams := ⟨d.chans, d.wdp, d.net⟩

theorem Dev.streams_eq {d e : Dev} (hc : e.chans = d.chans) (hw : e.wdp = d.wdp) (hn : e.net = d.net) : e.streams = d.streams := by
  unfold Dev.streams
  rw [hc, hw, hn]

theorem foldl_streams {α : Type} {f : Dev → α → Dev} (h : ∀ d a, (f d a).streams = d.streams) (l : List α) (d : Dev) :
    (d.forEach l f).streams = d.streams := by
  induction l generalizing d with
  | nil => rfl
  | cons a r ih => exact (ih (f d a)).trans (h d a)

section
variable (d : Dev)

@[simp] theorem Dev.setWord_streams (k : Nat) (w : Word) : (d.setWord k w).streams = d.streams := (rfl)
@[simp] theorem Dev.wr_streams (f : Field) (v : Nat) : (d.wr f v).streams = d.streams := Dev.streams_eq (by simp) (by simp) (by simp)
@[simp] theorem Dev.count_streams (f : Field) (n : Nat) : (d.count f n).streams = d.streams := d.wr_streams f _
@[simp] theorem Dev.flag_streams (f : Field) : (d.flag f).streams = d.streams := d.wr_streams f _
@[simp] theorem Dev.event_streams (f : Field) : (d.event f).streams = d.streams := Dev.streams_eq (by simp) (by simp) (by simp)
@[simp] theorem Dev.upPx_streams (e : Nat) (f : Pxe → Pxe) : (d.upPx e f).streams = d.streams := (rfl)
@[simp] theorem Dev.setEn_streams (e : Nat) (x : Ene) : (d.setEn e x).streams = d.streams := (rfl)
@[simp] theorem Dev.setPool_streams (p : Nat) (x : Pool) : (d.setPool p x).streams = d.streams := (rfl)

theorem Dev.unbound_streams (l : List EntJob) : ({ d with unbound := l } : Dev).streams = d.streams := rfl

theorem Dev.latchKeys_streams (p : Nat → Bool) : (d.latchKeys p).streams = d.streams := by
  unfold Dev.latchKeys
  dsimp only
  rw [foldl_streams (fun d e => d.setWord_streams _ _)]
  rfl

@[simp] theorem Dev.latch_streams (page : Nat) : (d.latch page).streams = d.streams := by
  unfold Dev.latch Dev.latchIf
  split
  · rfl
  · exact d.latchKeys_streams _

/-! Pixel engines. -/

@[simp] theorem Dev.quarantine_streams (e : Nat) : (d.quarantine e).streams = d.streams := by simp [Dev.quarantine]

@[simp] theorem Dev.startOpp_streams (e : Nat) : (d.startOpp e).streams = d.streams := by
  unfold Dev.startOpp
  dsimp only
  split
  · rfl
  · split <;> simp

@[simp] theorem Dev.pxeBoundary_streams (e : Nat) : (d.pxeBoundary e).streams = d.streams := by
  unfold Dev.pxeBoundary
  dsimp only
  split
  · rfl
  · split <;> simp

@[simp] theorem Dev.pxeFree_streams (e : Nat) : (d.pxeFree e).streams = d.streams := by
  unfold Dev.pxeFree
  dsimp only
  split <;> simp

@[simp] theorem Dev.pxeSpent_streams (e : Nat) (cycles : Option Nat) : (d.pxeSpent e cycles).streams = d.streams := by
  cases cycles <;> exact (Dev.upPx_streams _ _ _).trans ((Dev.count_streams _ _ _).trans (Dev.count_streams _ _ _))

@[simp] theorem Dev.pxeLose_streams (e : Nat) : (d.pxeLose e).streams = d.streams := by simp [Dev.pxeLose]

/-! Entropy engines. -/

@[simp] theorem Dev.eneLose_streams (e : Nat) : (d.eneLose e).streams = d.streams :=
  (Dev.count_streams _ _ _).trans (Dev.count_streams _ _ _)

@[simp] theorem Dev.dropEntropyOf_streams (c : Nat) : (d.dropEntropyOf c).streams = d.streams := by
  unfold Dev.dropEntropyOf
  dsimp only
  rw [Dev.unbound_streams]
  refine foldl_streams (fun d e => ?_) _ d
  split <;> simp

@[simp] theorem Dev.cancelMoves_streams (p : Nat → Nat → Bool) : (d.cancelMoves p).streams = d.streams := by
  refine foldl_streams (fun d e => ?_) _ d
  dsimp only
  split <;> simp

@[simp] theorem Dev.unbind_streams (c : Nat) : (d.unbind c).streams = d.streams := by simp [Dev.unbind]

/-! Buffer pools. -/

@[simp] theorem Dev.spill_streams (p n : Nat) : (d.spill p n).streams = d.streams := by
  induction n generalizing d with
  | zero => rfl
  | succ n ih => exact (ih _).trans rfl

@[simp] theorem Dev.pushFree_streams (p i : Nat) : (d.pushFree p i).streams = d.streams := by
  unfold Dev.pushFree
  dsimp only
  split
  · rfl
  · split <;> simp

@[simp] theorem Dev.free_streams (req p g a : Nat) : (d.free_ req p g a).streams = d.streams := by
  unfold Dev.free_
  dsimp only
  split
  · simp
  · split <;> simp

@[simp] theorem Dev.requestFree_streams (req p g a : Nat) : (d.requestBpm (.free req p g a)).streams = d.streams := by
  unfold Dev.requestBpm
  split
  · exact d.free_streams req p g a
  · rfl

@[simp] theorem Dev.freeAll_streams (p : Nat) (l : List (Nat × Nat)) : (d.freeAll p l).streams = d.streams :=
  foldl_streams (fun d (e : Nat × Nat) => d.requestFree_streams 0x0B3 p e.1 e.2) l d

/-! Rings, and the state of a channel. -/

@[simp] theorem Dev.cutRing_streams (c : Nat) (r : RingId) : (d.cutRing c r).streams = d.streams := by
  unfold Dev.cutRing
  split <;> rfl

@[simp] theorem Dev.takeGen_streams (c : Nat) : (d.takeGen c).streams = d.streams := by
  unfold Dev.takeGen
  dsimp only
  split <;> simp

@[simp] theorem Dev.setState_streams (c st : Nat) : (d.setState c st).streams = d.streams := by
  unfold Dev.setState
  dsimp only
  split
  · rfl
  · split <;> split <;> simp

end

/-! Channels and jobs, as the streams hold them. -/

section
variable {d e : Dev} (h : e.streams = d.streams)
include h

theorem Dev.ch_of_streams (k : Nat) : e.ch k = d.ch k := congrArg (fun x : Streams => storeGet (fun _ => Chan.reset) x.chans k) h
theorem Dev.jobs_of_streams : e.jobs = d.jobs := congrArg (fun x : Streams => x.wdp.jobs) h
theorem Dev.queues_of_streams : e.net.queues = d.net.queues := congrArg (fun x : Streams => x.net.queues) h

theorem Dev.upCh_streams (c : Nat) (f : Chan → Chan) : (e.upCh c f).streams = (d.upCh c f).streams :=
  congrArg (fun x : Streams => { x with chans := storeSet (fun _ => Chan.reset) x.chans c (f (storeGet (fun _ => Chan.reset) x.chans c)) }) h

end

theorem Dev.ch_upCh_self (d : Dev) (c : Nat) (f : Chan → Chan) : (d.upCh c f).ch c = f (d.ch c) := storeGet_set_self _ _ _ _
theorem Dev.ch_upCh_ne (d : Dev) {c k : Nat} (f : Chan → Chan) (h : k ≠ c) : (d.upCh c f).ch k = d.ch k := storeGet_set_ne _ _ _ (Ne.symm h)

/-! What is discarded of a channel (R52). -/

/-- A channel without its work. -/
def Chan.emptied (x : Chan) : Chan := { x with
  slc := [], jbBufs := [], pics := [], claims := [], ringHead := 0, out := [], src := [], storing := none, dropping := false, stores := []
  scaled := [], anaPics := []
  dec := { x.dec with jb := [], part := 0, partPkts := 0, frag := false, tsOn := false, aus := [], dpb := [], outQ := [], stop := none }
  hold := { x.hold with expected := none, dues := [], enterNext := none, stillDue := false } }

theorem Dev.dropJobsOf_streams (d : Dev) (c : Nat) :
    (d.dropJobsOf c).streams = (d.setJobs (d.jobs.filter (fun j => j.chn != c))).streams :=
  foldl_streams (fun d e => d.pxeLose_streams e) _ _

theorem Dev.discard_streams (d : Dev) (c : Nat) :
    (d.discard c).streams = ((d.setJobs (d.jobs.filter (fun j => j.chn != c))).upCh c Chan.emptied).streams := by
  refine Dev.upCh_streams ?_ c Chan.emptied
  rw [Dev.cutRing_streams, Dev.freeAll_streams, Dev.freeAll_streams, Dev.dropEntropyOf_streams, Dev.dropJobsOf_streams]

section
variable (d : Dev) (c : Nat)

theorem Dev.discard_ch_self : (d.discard c).ch c = (d.ch c).emptied :=
  (Dev.ch_of_streams (d.discard_streams c) c).trans (Dev.ch_upCh_self _ _ _)

theorem Dev.discard_ch_ne {k : Nat} (h : k ≠ c) : (d.discard c).ch k = d.ch k :=
  (Dev.ch_of_streams (d.discard_streams c) k).trans (Dev.ch_upCh_ne _ _ h)

theorem Dev.discard_jobs : (d.discard c).jobs = d.jobs.filter (fun j => j.chn != c) := Dev.jobs_of_streams (d.discard_streams c)

theorem Dev.discard_queues : (d.discard c).net.queues = d.net.queues :=
  (Dev.queues_of_streams (d.discard_streams c)).trans rfl

end

/-! Source pictures that nobody needs any more (R85). -/

/-- The channel with the source pictures of `y`. -/
def Chan.withSrcOf (x y : Chan) : Chan := { x with src := y.src, storing := y.storing }

/-- From `d` to `e` leader `l` let go of source pictures, with their analysis jobs, and nothing else of the streams changed. -/
structure Dev.LetsGo (l : Nat) (d e : Dev) : Prop where
  others : ∀ k, k ≠ l → e.ch k = d.ch k
  leader : (e.ch l).withSrcOf (d.ch l) = d.ch l
  src : (e.ch l).src ⊆ (d.ch l).src
  jobs : e.jobs ⊆ d.jobs
  kept : ∀ j ∈ d.jobs, (j.chn = l → j.stage ≠ 0) → j ∈ e.jobs
  queues : e.net.queues = d.net.queues

namespace Dev.LetsGo
variable {l : Nat} {d e f : Dev}

theorem refl (d : Dev) : LetsGo l d d :=
  ⟨fun _ _ => rfl, rfl, List.Subset.refl _, List.Subset.refl _, fun _ hj _ => hj, rfl⟩

theorem trans (h : LetsGo l d e) (g : LetsGo l e f) : LetsGo l d f where
  others k hk := (g.others k hk).trans (h.others k hk)
  leader := (congrArg (fun x => x.withSrcOf (d.ch l)) g.leader).trans h.leader
  src := List.Subset.trans g.src h.src
  jobs := List.Subset.trans g.jobs h.jobs
  kept j hj hs := g.kept j (h.kept j hj hs) hs
  queues := g.queues.trans h.queues

/-- The leader's channel keeps all but its source pictures, and gains none. -/
theorem rest (h : LetsGo l d e) (k : Nat) : (e.ch k).withSrcOf (d.ch k) = d.ch k := by
  by_cases hk : k = l
  · exact hk ▸ h.leader
  · rw [h.others k hk]
    rfl

theorem srcs (h : LetsGo l d e) (k : Nat) : (e.ch k).src ⊆ (d.ch k).src := by
  by_cases hk : k = l
  · exact hk ▸ h.src
  · rw [h.others k hk]
    exact List.Subset.refl _

theorem srcDiscard (d : Dev) (l idx : Nat) : LetsGo l d (d.srcDiscard l idx) where
  others _ hk := Dev.ch_upCh_ne _ _ hk
  leader := by rw [Dev.srcDiscard, Dev.ch_upCh_self]; rfl
  src := by rw [Dev.srcDiscard, Dev.ch_upCh_self]; exact List.filter_sublist.subset
  jobs := List.filter_sublist.subset
  kept j hj hs := List.mem_filter.2 ⟨hj, by
    by_cases hl : j.chn = l
    · simp [hs hl]
    · simp [hl]⟩
  queues := rfl

theorem srcFree (d : Dev) (l idx : Nat) : LetsGo l d (d.srcFree l idx) := by
  unfold Dev.srcFree
  split
  · exact refl d
  · dsimp only
    split
    · exact srcDiscard d l idx
    · exact refl d

theorem forEach {α : Type} {g : Dev → α → Dev} (hg : ∀ d x, LetsGo l d (g d x)) (xs : List α) (d : Dev) : LetsGo l d (d.forEach xs g) := by
  induction xs generalizing d with
  | nil => exact refl d
  | cons x r ih => exact (hg d x).trans (ih (g d x))

theorem sweepSrc (d : Dev) (l : Nat) : LetsGo l d (d.sweepSrc l) := forEach (fun d (p : SrcPic) => srcFree d l p.idx) _ d

theorem discardOne (d : Dev) (c : Nat) : LetsGo (d.leaderOf c) (d.discard c) (d.discardOne c) := by
  unfold Dev.discardOne
  split
  · exact sweepSrc _ _
  · exact refl _

end Dev.LetsGo

/-! ABORT of an encode channel without members. -/

theorem Dev.discardOne_leader {d : Dev} {c : Nat} (h : d.isMember c = false) : d.discardOne c = d.discard c := if_neg (by simp [h])

theorem Dev.abortChannel_alone {d : Dev} {c : Nat} (now : Nat) (hk : d.isDecode c = false) (hm : d.membersOf c = []) :
    d.abortChannel now c = d.abortOne c := by
  simp [Dev.abortChannel, Dev.forEach, hk, hm]

/-- A channel without its reservation. -/
def Chan.released (x : Chan) : Chan := { x with reserved := false, resLive := false }

/-- A channel whose command has completed. -/
def Chan.answered (x : Chan) : Chan := { x with posted := none }

theorem Dev.abortOne_streams (d : Dev) (c : Nat) : (d.abortOne c).streams = ((d.discardOne c).upCh c Chan.released).streams :=
  (Dev.unbind_streams _ c).trans (Dev.upCh_streams (Dev.setState_streams _ c 1) c Chan.released)

theorem Dev.cmdResult_streams (d : Dev) (c result detail : Nat) : (d.cmdResult c result detail).streams = (d.upCh c Chan.answered).streams := by
  unfold Dev.cmdResult
  dsimp only
  rw [Dev.event_streams]
  exact Dev.upCh_streams (by simp only [Dev.wr_streams]) c Chan.answered

/-- What ABORT of channel `c` leaves of the streams of `d`, the command posted included: the work of the channel goes, with its reservation,
and the leader of a member lets go of source pictures. -/
structure Dev.AbortedTo (c : Nat) (d e : Dev) : Prop where
  own : e.ch c = ((d.discardOne c).ch c).released.answered
  others : ∀ k, k ≠ c → e.ch k = (d.discardOne c).ch k
  jobs : e.jobs = (d.discardOne c).jobs
  queues : e.net.queues = (d.discardOne c).net.queues

theorem Dev.abortedTo_of_streams {c : Nat} {d e : Dev} (h : e.streams = (((d.discardOne c).upCh c Chan.released).upCh c Chan.answered).streams) :
    Dev.AbortedTo c d e where
  own := by rw [Dev.ch_of_streams h, Dev.ch_upCh_self, Dev.ch_upCh_self]
  others k hk := by rw [Dev.ch_of_streams h, Dev.ch_upCh_ne _ _ hk, Dev.ch_upCh_ne _ _ hk]
  jobs := (Dev.jobs_of_streams h).trans rfl
  queues := (Dev.queues_of_streams h).trans rfl

theorem State.after_abort (s : State) {d : Dev} {c : Nat} (hk : d.isDecode c = false) (hm : d.membersOf c = []) :
    Dev.AbortedTo c d (s.after ((d.abortChannel s.now c).cmdResult c 0 0)).dev := by
  refine Dev.abortedTo_of_streams (Eq.trans (Dev.cmdResult_streams _ c 0 0) ?_)
  rw [Dev.abortChannel_alone s.now hk hm]
  exact Dev.upCh_streams (d.abortOne_streams c) c Chan.answered

theorem Dev.begun_ch_ne (d : Dev) {c k : Nat} (op : ChOp) (h : k ≠ c) : (d.begun c op).ch k = d.ch k :=
  (Dev.ch_upCh_ne _ _ h).trans (Dev.ch_of_streams (d.wr_streams _ _) k)

theorem Dev.begun_jobs (d : Dev) (c : Nat) (op : ChOp) : (d.begun c op).jobs = d.jobs := congrArg Wdp.jobs (d.wr_wdp _ _)
theorem Dev.begun_queues (d : Dev) (c : Nat) (op : ChOp) : (d.begun c op).net.queues = d.net.queues := congrArg Net.queues (d.wr_net _ _)

namespace Dev.AbortedTo
variable {c : Nat} {d e : Dev} (h : Dev.AbortedTo c d e)
include h

/-- The channel is left without reservation and work. -/
theorem empty : (e.ch c).reserved = false ∧ (e.ch c).src = [] ∧ (e.ch c).pics = [] ∧ (e.ch c).out = [] ∧ (e.ch c).slc = [] := by
  have hr := (LetsGo.discardOne d c).rest c
  have hs := (LetsGo.discardOne d c).srcs c
  rw [Dev.discard_ch_self] at hr hs
  rw [h.own]
  exact ⟨rfl, List.subset_nil.1 hs, congrArg Chan.pics hr, congrArg Chan.out hr, congrArg Chan.slc hr⟩

theorem jobs_of {j : Job} (hj : j ∈ e.jobs) : j ∈ d.jobs ∧ j.chn ≠ c := by
  rw [h.jobs] at hj
  simpa [Dev.discard_jobs] using (LetsGo.discardOne d c).jobs hj

theorem jobs_kept {j : Job} (hj : j ∈ d.jobs) (hc : j.chn ≠ c) (hl : d.isMember c = true → j.chn = d.leaderOf c → j.stage ≠ 0) :
    j ∈ e.jobs := by
  have hd : j ∈ (d.discard c).jobs := by simpa [Dev.discard_jobs] using ⟨hj, hc⟩
  rw [h.jobs]
  by_cases hm : d.isMember c = true
  · exact (LetsGo.discardOne d c).kept j hd (hl hm)
  · rwa [Dev.discardOne_leader (by simpa using hm)]

theorem jobs_leader (hm : d.isMember c = false) : e.jobs = d.jobs.filter (fun j => j.chn != c) := by
  rw [h.jobs, Dev.discardOne_leader hm, Dev.discard_jobs]

theorem other_rest {k : Nat} (hk : k ≠ c) : (e.ch k).withSrcOf (d.ch k) = d.ch k := by
  have hr := (LetsGo.discardOne d c).rest k
  rwa [Dev.discard_ch_ne _ _ hk, ← h.others k hk] at hr

theorem other_same {k : Nat} (hk : k ≠ c) (hl : d.isMember c = true → k ≠ d.leaderOf c) : e.ch k = d.ch k := by
  rw [h.others k hk, ← Dev.discard_ch_ne d c hk]
  by_cases hm : d.isMember c = true
  · exact (LetsGo.discardOne d c).others k (hl hm)
  · rw [Dev.discardOne_leader (by simpa using hm)]

theorem queues_same : e.net.queues = d.net.queues :=
  h.queues.trans ((LetsGo.discardOne d c).queues.trans (d.discard_queues c))

end Dev.AbortedTo

/-- Settles O19: the abort acts on the streams as `AbortedTo` says, from those of the device with the command posted. -/
theorem abortEmptiesTheChannel : Obligations.AbortEmptiesTheChannel := by
  intro s t d c h hsafe hen hfrz hb hst hk hm ht
  have hrun := h.abort hb ⟨hsafe, hen, hfrz, by simpa [opAllowed, or_assoc] using hst⟩
  cases hrun.symm.trans ht
  have ha := s.after_abort (d := d.begun c .abort) (c := c) (by simpa using hk) (by simpa using hm)
  have htime : (s.after (((d.begun c .abort).abortChannel s.now c).cmdResult c 0 0)).time = s.time := rfl
  generalize s.after (((d.begun c .abort).abortChannel s.now c).cmdResult c 0 0) = t at ha htime ⊢
  obtain ⟨hres, hsrc, hpics, hout, hslc⟩ := ha.empty
  have hjobs := d.begun_jobs c .abort
  have hmem := d.begun_isMember c c .abort
  have hlead := d.begun_leaderOf c c .abort
  refine ⟨hres, hsrc, hpics, hout, hslc, fun j hj => hjobs ▸ ha.jobs_of hj, fun j hj hc hl => ?_, fun hmb => ?_, fun k hkc => ?_,
    fun k hkc hl => ?_, ha.queues_same.trans (d.begun_queues c .abort), htime⟩
  · exact ha.jobs_kept (hjobs ▸ hj) hc (by rwa [hmem, hlead])
  · rw [← hjobs]
    exact ha.jobs_leader (hmem.trans hmb)
  · rw [← d.begun_ch_ne .abort hkc]
    exact ha.other_rest hkc
  · rw [← d.begun_ch_ne .abort hkc]
    exact ha.other_same hkc (by rwa [hmem, hlead])

end Sys2Proof.Machine
end

section
/-! Source pictures from the network (R376), the picture clock of a leader (R85, R161), and what holds it (R165, R167, R178). -/

namespace Sys2Proof.Machine

/-! The deadline that takes effect: a noted one before that of the picture clock. -/

section
variable {d : Dev} {now l t : Nat}

theorem Dev.sourceDeadline_noted {x : Nat × Nat × Due} (hn : (d.passGood now l).nextNoted l = some x) (hx : x.1 ≤ now) :
    d.sourceDeadline now l = (d.passGood now l).noted now l x := by
  simp only [Dev.sourceDeadline, hn, if_neg (Nat.not_lt.2 hx)]

variable (hn : (d.passGood now l).nextNoted l = none) (hd : (d.passGood now l).deadlineOf l = some t) (ht : t ≤ now)
include hn hd ht

theorem Dev.sourceDeadline_missed (hst : (d.passGood now l).chState l = 2 ∨ (d.passGood now l).chState l = 3)
    (hw : (d.passGood now l).watches l = true) : d.sourceDeadline now l = (d.passGood now l).deadline now l t := by
  have hrun : (d.passGood now l).chState l ≠ 4 := by omega
  simp only [Dev.sourceDeadline, hn, hd, if_neg (Nat.not_lt.2 ht), if_neg hrun, if_pos (And.intro hst hw)]

/-- In DRAINING the picture being stored is completed. -/
theorem Dev.sourceDeadline_draining {i : Nat} (hst : (d.passGood now l).chState l = 4)
    (hi : ((d.passGood now l).ch l).storing = some i) : d.sourceDeadline now l = (d.passGood now l).completeBad now l i := by
  simp only [Dev.sourceDeadline, hn, hd, if_neg (Nat.not_lt.2 ht), if_pos hst, hi]

end

/-! What the commands answer out of reset. -/

/-- The device with the still picture of leader `c` due at the next deadline (R165). -/
def Dev.askStill (d : Dev) (c : Nat) : Dev := d.upCh c (fun x => { x with hold := { x.hold with stillDue := true } })

theorem State.after_askStill (s : State) {d : Dev} (c : Nat) (hp : d.posted = []) : s.after (d.askStill c) = s.withDev (d.askStill c) :=
  s.after_quiet ((Dev.upCh_posted d c _).trans hp)

section
variable {s : State} {d : Dev} (h : s.Ready d)
include h

/-- The packet's buffer is returned to its pool once the packet is read. -/
theorem State.Ready.ingestUnpack {flow : Fin 8} (p : IngestPkt) {l : Nat} (hu : (d.takeSink 9).flowUser flow = some l)
    (ho : d.bpmOpen = true) (ha : ((d.takeSink 9).alloc 0 ((d.takeSink 9).rd (BPM_MAP.PKT.bk l))).1 = 0) :
    let r := (d.takeSink 9).alloc 0 ((d.takeSink 9).rd (BPM_MAP.PKT.bk l))
    exec (.ingestUnpack flow p) s = .next (s.after
      ((r.2.2.free_ 0x0B3 0 ((d.takeSink 9).rd (BPM_MAP.PKT.bk l)) r.2.1).ingest s.now flow l p)) := by
  refine (h.run _).trans ?_
  simp only [ho, hu, ha, Bool.not_true, Bool.false_eq_true, if_false, if_true, State.env_now]

variable {c : Fin 256} (hl : d.isLeader c = true)
include hl

theorem State.Ready.sourceDeadline {e : Dev} (he : d.sourceDeadline s.now c = e) :
    exec (.sourceDeadline c) s = .next (s.after (e.resumeLink s.env c)) := by
  refine (h.run _).trans ?_
  rw [if_pos hl, State.env_now, he]

theorem State.Ready.holdCmdEnter :
    exec (.holdCmdEnter c) s = .next (s.after ((d.passGood s.now c).wr (CHN_HOLD_STS.FORCED.on c) 1)) := by
  refine (h.run _).trans ?_
  rw [if_pos hl, State.env_now]

/-- The deadlines that passed under ENTER are judged before FORCED is cleared. -/
theorem State.Ready.holdCmdRelease :
    let r := (Dev.judgePassed s.now c (d.ch c).hold.dues.length d).wr (CHN_HOLD_STS.FORCED.on c) 0
    exec (.holdCmdRelease c) s = .next (s.after (if r.chState c = 2 then r.refresh c else r)) := by
  refine (h.run _).trans ?_
  simp only [hl, Bool.not_true, Bool.false_eq_true, if_false, State.env_now]

variable (hst : d.chState c = 3) (hen : d.bit (CHN_HOLD_CFG.STILL_EN.on c) = true) (hno : (d.ch c).hold.stillDone = false)
include hst hen hno

theorem State.Ready.stillTimer (hms : max 100 (d.rd (CHN_HOLD_STILL_MS.MS.on c)) * 1000000 ≤ s.now - (d.ch c).hold.since) :
    exec (.stillTimer c) s = .next (s.withDev (d.askStill c)) := by
  rw [← s.after_askStill c h.posted]
  refine (h.run _).trans ?_
  rw [if_pos (by simpa [hl, hst, hen, hno] using hms)]
  rfl

theorem State.Ready.holdCmdStillNow : exec (.holdCmdStillNow c) s = .next (s.withDev (d.askStill c)) := by
  rw [← s.after_askStill c h.posted]
  refine (h.run _).trans ?_
  rw [if_pos (by simp [hl, hst, hen, hno])]
  rfl

end

/-- Settles O20: each command by its own rule above, a deadline by which one takes effect. -/
theorem sourcesAndHolding : Obligations.SourcesAndHolding := by
  intro s d h
  exact ⟨fun _ p _ hu ho ha => h.ingestUnpack p hu ho ha,
    fun _ _ hl hn hd ht hst hw => h.sourceDeadline hl (Dev.sourceDeadline_missed hn hd ht hst hw),
    fun _ _ _ hl hn hd ht hst hi => h.sourceDeadline hl (Dev.sourceDeadline_draining hn hd ht hst hi),
    fun _ _ hl hn hx => h.sourceDeadline hl (Dev.sourceDeadline_noted hn hx),
    fun _ hl hst hen hno hms => h.stillTimer hl hst hen hno hms,
    fun _ hl => ⟨h.holdCmdEnter hl, h.holdCmdRelease hl⟩,
    fun _ hl hst hen hno => h.holdCmdStillNow hl hst hen hno⟩

end Sys2Proof.Machine
end

section
/-! Jobs of the pixel engines (R127, R207, R234, R240 to R244): issued by the dispatcher, given their rows, and how they end. -/

namespace Sys2Proof.Machine

section
variable {s : State} {d : Dev} (h : s.Ready d)
include h

/-! WDP issues a job.  `u` is the device once it is noted which jobs are ready and whether no engine holds an allowed one's generation. -/

section
variable {overhead : Nat} {allowed : List Job} {u : Dev} (ho : d.open_ pageWDP = true)
  (ha : (d.noteReady overhead).jobs.filter (fun j => (d.noteReady overhead).jobAllowed j overhead) = allowed)
  (hu : (if allowed.any (fun j => !(d.noteReady overhead).genHeld j.gen) then (d.noteReady overhead).event WDP_EVT.NO_ENGINE
    else d.noteReady overhead) = u)
include ho ha hu

/-- The live job of the earliest deadline goes first. -/
theorem State.Ready.jobIssue_live {j : Job} {e : Nat}
    (hj : u.earliest ((allowed.filter (fun j => u.genHeld j.gen)).filter (fun j => j.live && !(u.enginesFor j).isEmpty)) = some j)
    (he : u.engineFor j = some e) : exec (.jobIssue overhead) s = .next (s.after (u.issue j e overhead)) := by
  refine (h.run _).trans ?_
  simp only [ho, Bool.not_true, Bool.false_eq_true, if_false, ha, hu, hj, he]

/-- Where no live job can run, the round picks a scheduled one. -/
theorem State.Ready.jobIssue_scheduled {v : Dev} {j : Job} {e : Nat}
    (hn : u.earliest ((allowed.filter (fun j => u.genHeld j.gen)).filter (fun j => j.live && !(u.enginesFor j).isEmpty)) = none)
    (hj : u.pickScheduled ((allowed.filter (fun j => u.genHeld j.gen)).filter (fun j => !j.live)) = (v, some j))
    (he : v.engineFor j = some e) : exec (.jobIssue overhead) s = .next (s.after (v.issue j e overhead)) := by
  refine (h.run _).trans ?_
  simp only [ho, Bool.not_true, Bool.false_eq_true, if_false, ha, hu, hn, hj, he]

end

/-! What happens to the job on an engine. -/

section
variable {e : Fin 128} {j : Job} (hj : d.jobOn e = some j)
include hj

/-- The next row of the slice, within its hard allowance. -/
theorem State.Ready.rowQuantiser {row sofar : Nat} (others : List (Nat × Nat)) {p : Pic} {sl : Slice} (hst : j.stage = 2)
    (hp : (d.ch j.chn).pic j.pic = some p) (hsl : p.slice j.slice = some sl) (hrow : row = d.rowFrom j.chn j.slice + sl.rowQ.length)
    (hlt : row < d.rowTo j.chn j.slice) (hle : sofar ≤ sl.h) :
    exec (.rowQuantiser e row ⟨sofar, others⟩) s = .next (s.after
      ((d.upPic j.chn j.pic (fun _ => p.produced j.slice others)).takeRow j (p.produced j.slice others) sl row sofar)) := by
  refine (h.run _).trans ?_
  simp only [hj, hst, hp, Option.bind_some, hsl]
  rw [if_neg (by decide), if_neg (by simp [← hrow, hlt, hle])]

theorem State.Ready.jobCommit {r : JobResult} (hd : d.entryDead e j = false) (hs : d.jobStalled e j = false)
    (hb : d.readsBad s.env j = false) (hf : d.resultFits s.env j r = true) (hc : r.cycles ≤ d.jobLimit e) :
    exec (.jobCommit e r) s = .next (s.after (((d.noteReady 0).commitJob s.env e j r).noteReady 0)) := by
  refine (h.run _).trans ?_
  simp only [hj]
  rw [if_neg (by simp [hd, hs, hb, hf, hc])]

theorem State.Ready.jobFault_damage (kind : Fin 8) (a : FaultPlace) (x : Damage) {p : Pic} (hst : j.stage = 4)
    (hp : (d.ch j.chn).pic j.pic = some p) : exec (.jobFault e kind a (some x)) s = .next (s.after (d.damageOf s.env j.chn p.idx x)) := by
  refine (h.run _).trans ?_
  simp only [hj, hst, if_true, hp]

theorem State.Ready.jobWatchdog {ctu cycles : Nat} (hc : cycles > d.jobLimit e) :
    exec (.jobWatchdog e ⟨ctu, cycles⟩) s =
      .next (s.after (((d.noteReady 0).pxeFault s.now e 3 (some ctu) (some cycles)).noteReady 0)) := by
  refine (h.run _).trans ?_
  rw [if_pos ⟨by simp [hj], hc⟩, State.env_now]

end

section
variable {e : Fin 128}

/-- Beyond its limit, or where it is dead, stalled or reads what cannot be read, the job does not commit: its end is another command's. -/
theorem State.Ready.jobCommit_refused {r : JobResult} (hr : r.cycles > d.jobLimit e ∨
    ∃ j, d.jobOn e = some j ∧ (d.entryDead e j = true ∨ d.jobStalled e j = true ∨ d.readsBad s.env j = true)) :
    exec (.jobCommit e r) s = .next s := by
  refine ((h.run _).trans ?_).trans (congrArg Host.Outcome.next h.after_self)
  cases hj : d.jobOn e with
  | none => rfl
  | some j =>
    have hc : (d.entryDead e j || d.jobStalled e j || d.readsBad s.env j || !d.resultFits s.env j r ||
        decide (r.cycles > d.jobLimit e)) = true := by
      obtain hc | ⟨k, hk, hc⟩ := hr
      · simp [hc]
      · cases hj.symm.trans hk
        obtain hc | hc | hc := hc <;> simp [hc]
    exact congrArg (fun u => Host.Outcome.next (s.after u)) (if_pos hc)

theorem State.Ready.jobFault {kind : Fin 8} {a : FaultPlace}
    (hk : kind.val ∈ [1, 4, 6] ∨ (kind.val = 2 ∧ d.ucIllegal e a.addr a.cond = true)) :
    exec (.jobFault e kind a none) s = .next (s.after (((d.noteReady 0).pxeFault s.now e kind (some a.ctu) none).noteReady 0)) := by
  refine (h.run _).trans ?_
  simp only [State.env_now]
  rw [if_pos (by simpa [or_assoc] using hk)]

end

end

/-- Settles O22: the issue by which kind of job is chosen, every other command by its own rule above. -/
theorem jobsRunOnEngines : Obligations.JobsRunOnEngines := by
  intro s d h
  exact ⟨fun _ _ _ ho hj he => h.jobIssue_live ho rfl rfl hj he,
    fun _ _ _ _ ho hn hj he => h.jobIssue_scheduled ho rfl rfl hn hj he,
    fun _ _ _ others _ _ _ hj hst hp hsl hrow hlt hle => h.rowQuantiser hj others hst hp hsl hrow hlt hle,
    fun _ _ _ hj hd hs hb hf hc => h.jobCommit hj hd hs hb hf hc,
    fun _ _ hr => h.jobCommit_refused hr,
    fun _ _ _ _ _ hk => h.jobFault hk,
    fun _ kind _ _ _ x _ _ hj hst hp => h.jobFault_damage hj kind _ x hst hp,
    fun _ _ _ _ hj hc => h.jobWatchdog hj hc⟩

end Sys2Proof.Machine
end

section
/-! Generations assigned (R252), the admission budget compared with the reservations (R256), and the staged model's commit (R137). -/

namespace Sys2Proof.Machine

@[simp] theorem Dev.assignAll_posted (d : Dev) (gen : Nat) : (d.assignAll gen).posted = d.posted :=
  (foldl_posted _ _ (fun d c => d.assignGen_posted c gen) _).trans (d.wr_posted _ _)

/-! The comparison of the budget with the reservations (R256). -/

/-- OVERCOMMIT shows the comparison; its event is set where it goes from 0 to 1. -/
theorem Dev.compareBudget_cases (d : Dev) :
    d.rd WDP_LIVE_RSV.MPCS ≤ d.rd WDP_ADMIT_BUDGET.MPCS ∧ d.compareBudget = d.wr WDP_STS.OVERCOMMIT 0 ∨
    d.rd WDP_ADMIT_BUDGET.MPCS < d.rd WDP_LIVE_RSV.MPCS ∧ d.bit WDP_STS.OVERCOMMIT = true ∧
      d.compareBudget = d.wr WDP_STS.OVERCOMMIT 1 ∨
    d.rd WDP_ADMIT_BUDGET.MPCS < d.rd WDP_LIVE_RSV.MPCS ∧ d.bit WDP_STS.OVERCOMMIT = false ∧
      d.compareBudget = (d.wr WDP_STS.OVERCOMMIT 1).event WDP_EVT.OVERCOMMIT := by
  unfold Dev.compareBudget
  obtain hle | hlt := le_or_gt (d.rd WDP_LIVE_RSV.MPCS) (d.rd WDP_ADMIT_BUDGET.MPCS)
  · exact .inl ⟨hle, if_neg (Nat.not_lt.2 hle)⟩
  · cases hw : d.bit WDP_STS.OVERCOMMIT with
    | true => exact .inr (.inl ⟨hlt, rfl, by simp only [hlt, if_true]⟩)
    | false => exact .inr (.inr ⟨hlt, rfl, by simp only [hlt, if_true, Bool.false_eq_true, if_false]⟩)

@[simp] theorem Dev.compareBudget_posted (d : Dev) : d.compareBudget.posted = d.posted := by
  obtain ⟨-, e⟩ | ⟨-, -, e⟩ | ⟨-, -, e⟩ := d.compareBudget_cases <;> simp [e]

/-- The comparison moves no field but OVERCOMMIT, the event and what an event touches. -/
theorem Dev.compareBudget_rd (d : Dev) {g : Field} (hg : g.wide = false) (hk : ¬ evtWord g.base) (he : WDP_EVT.OVERCOMMIT.base ≠ g.base)
    (hw : ∀ v, (d.wr WDP_STS.OVERCOMMIT v).rd g = d.rd g) : d.compareBudget.rd g = d.rd g := by
  obtain ⟨-, e⟩ | ⟨-, -, e⟩ | ⟨-, -, e⟩ := d.compareBudget_cases <;> rw [e]
  · exact hw 0
  · exact hw 1
  · exact (Dev.event_rd _ _ g rfl hg he hk).trans (hw 1)

theorem Dev.compareBudget_rd_word (d : Dev) {g : Field} (hg : g.wide = false) (hk : ¬ evtWord g.base)
    (he : WDP_EVT.OVERCOMMIT.base ≠ g.base) (hs : WDP_STS.OVERCOMMIT.base ≠ g.base) : d.compareBudget.rd g = d.rd g :=
  d.compareBudget_rd hg hk he (fun v => d.rd_wr_word _ g v rfl hg hs)

@[simp] theorem Dev.compareBudget_budget (d : Dev) : d.compareBudget.rd WDP_ADMIT_BUDGET.MPCS = d.rd WDP_ADMIT_BUDGET.MPCS :=
  d.compareBudget_rd_word rfl (by simp [evtWord, WDP_ADMIT_BUDGET.MPCS]) (by decide) (by decide)

@[simp] theorem Dev.compareBudget_reservation (d : Dev) : d.compareBudget.rd WDP_LIVE_RSV.MPCS = d.rd WDP_LIVE_RSV.MPCS :=
  d.compareBudget_rd_word rfl (by simp [evtWord, WDP_LIVE_RSV.MPCS]) (by decide) (by decide)

@[simp] theorem Dev.compareBudget_genDefault (d : Dev) : d.compareBudget.rd WDP_STS.GEN_DEFAULT = d.rd WDP_STS.GEN_DEFAULT :=
  d.compareBudget_rd rfl (by simp [evtWord, WDP_STS.GEN_DEFAULT]) (by decide)
    (fun v => d.rd_wr_beside _ _ v rfl rfl rfl (by decide) (by decide))

theorem Dev.compareBudget_overcommit (d : Dev) :
    d.compareBudget.bit WDP_STS.OVERCOMMIT = true ↔ d.rd WDP_ADMIT_BUDGET.MPCS < d.rd WDP_LIVE_RSV.MPCS := by
  have h1 : (d.wr WDP_STS.OVERCOMMIT 1).bit WDP_STS.OVERCOMMIT = true := d.bit_wr_one _ rfl rfl (by decide)
  obtain ⟨hle, e⟩ | ⟨hlt, -, e⟩ | ⟨hlt, -, e⟩ := d.compareBudget_cases <;> rw [e]
  · simp [d.bit_wr_zero WDP_STS.OVERCOMMIT rfl (by decide), hle]
  · exact iff_of_true h1 hlt
  · refine iff_of_true ?_ hlt
    unfold Dev.bit at h1 ⊢
    rwa [Dev.event_rd _ _ _ rfl rfl (by decide) (by simp [evtWord, WDP_STS.OVERCOMMIT])]

theorem Dev.compareBudget_event (d : Dev) (hw : d.bit WDP_STS.OVERCOMMIT = false)
    (hlt : d.rd WDP_ADMIT_BUDGET.MPCS < d.rd WDP_LIVE_RSV.MPCS) :
    d.compareBudget.bit WDP_EVT.OVERCOMMIT = true := by
  obtain ⟨hle, -⟩ | ⟨-, ht, -⟩ | ⟨-, -, e⟩ := d.compareBudget_cases
  · omega
  · simp [hw] at ht
  · rw [e]
    exact Dev.event_bit _ _ rfl rfl (by decide) (by simp [evtWord, WDP_EVT.OVERCOMMIT])

/-- The register that a write of the budget, or of the reservations, goes to. -/
def budgetField (reservation : Bool) : Field := if reservation then WDP_LIVE_RSV.MPCS else WDP_ADMIT_BUDGET.MPCS

section
variable (d : Dev) (r : Bool) (mpcs : Nat)

theorem Dev.setBudget_clocked (hc : d.pageClocked .WDP 0 = true) : d.setBudget r mpcs = (d.wr (budgetField r) mpcs).compareBudget :=
  if_pos hc

theorem Dev.setBudget_stopped (hc : d.pageClocked .WDP 0 = false) :
    d.setBudget r mpcs = d.holdLive (if r then 0x1D004C else 0x1D0048) 0xFFFFF (BitVec.ofNat 32 mpcs) 0 := by
  have hm : maskOf 19 0 = 0xFFFFF := by decide
  refine (if_neg (by simp [hc])).trans ?_
  rw [hm]
  cases r <;> rfl

theorem Dev.wr_budgetField_budget :
    (d.wr (budgetField r) mpcs).rd WDP_ADMIT_BUDGET.MPCS = if r then d.rd WDP_ADMIT_BUDGET.MPCS else mpcs % 2 ^ 20 := by
  cases r with
  | true => exact d.rd_wr_word _ _ _ rfl rfl (by decide)
  | false => exact d.rd_wr_self _ _ rfl (by decide)

theorem Dev.wr_budgetField_reservation :
    (d.wr (budgetField r) mpcs).rd WDP_LIVE_RSV.MPCS = if r then mpcs % 2 ^ 20 else d.rd WDP_LIVE_RSV.MPCS := by
  cases r with
  | true => exact d.rd_wr_self _ _ rfl (by decide)
  | false => exact d.rd_wr_word _ _ _ rfl rfl (by decide)

/-- WDP_STS is another register. -/
theorem Dev.wr_budgetField_sts {g : Field} (hg : g.wide = false) (hb : g.base = WDP_STS.OVERCOMMIT.base) :
    (d.wr (budgetField r) mpcs).rd g = d.rd g := by
  refine d.rd_wr_word _ g mpcs ?_ hg ?_ <;> cases r <;> simp [hb, budgetField, WDP_LIVE_RSV.MPCS, WDP_ADMIT_BUDGET.MPCS, WDP_STS.OVERCOMMIT]

end

/-! What the commands answer out of reset; WDP_GEN_CMD is held whole under its key while the clock is stopped (R28). -/

theorem maskOf_word : maskOf 31 0 = 0xFFFFFFFF := by decide
theorem genCmd_key : pageWDP + 0x058 = 0x1D0058 := (rfl)

section
variable {s : State} {d : Dev} (h : s.Ready d)
include h

/-- A command whose effect posts no memory write answers the device alone. -/
theorem State.Ready.run_quiet {f : Env → Dev → Dev} {e : Dev} (hf : f s.env d = e) (hp : e.posted = d.posted) :
    s.run f = .next (s.withDev e) := by
  rw [h.run, hf, s.after_quiet (hp.trans h.posted)]

section
variable {gen : Fin 65536} (hg : gen.val ≠ 0)
include hg

theorem State.Ready.genAssignAll_clocked (hc : d.pageClocked .WDP 0 = true) :
    exec (.genAssignAll gen) s = .next (s.withDev (d.assignAll gen)) :=
  h.run_quiet (by simp only [hg, hc, if_false, if_true]) (by simp)

theorem State.Ready.genAssignAll_stopped (hc : d.pageClocked .WDP 0 = false) : exec (.genAssignAll gen) s = .next (s.withDev
    ({ d with liveHeld := storeDrop (fun j => cmdKey 0x1D0058 0 ≤ j && j % win0Size == 0x1D0058) d.liveHeld }.holdLive
      (cmdKey 0x1D0058 0) 0xFFFFFFFF (BitVec.ofNat 32 (2 ^ 31 + gen)) 0)) :=
  h.run_quiet (by simp only [hg, hc, if_false, Bool.false_eq_true, genCmd_key, maskOf_word]) (by simp)

theorem State.Ready.genAssignChn_clocked (c : Fin 256) (hc : d.pageClocked .WDP 0 = true) :
    exec (.genAssignChn c gen) s = .next (s.withDev (d.assignGen c gen)) :=
  h.run_quiet (by simp only [hg, hc, if_false, if_true]) (by simp)

theorem State.Ready.genAssignChn_stopped (c : Fin 256) (hc : d.pageClocked .WDP 0 = false) : exec (.genAssignChn c gen) s = .next (s.withDev
    (d.holdLive (cmdKey 0x1D0058 (1 + c)) 0xFFFFFFFF (BitVec.ofNat 32 (65536 * c + gen)) 0)) :=
  h.run_quiet (by simp only [hg, hc, if_false, Bool.false_eq_true, genCmd_key, maskOf_word]) (by simp)

end

theorem State.Ready.admitBudgetWrite_stopped (r : Bool) (mpcs : Nat) (hc : d.pageClocked .WDP 0 = false) :
    exec (.admitBudgetWrite r mpcs) s = .next (s.withDev
      (d.holdLive (if r then 0x1D004C else 0x1D0048) 0xFFFFF (BitVec.ofNat 32 mpcs) 0)) :=
  h.run_quiet (d.setBudget_stopped r mpcs hc) (by simp)

theorem State.Ready.admitBudgetWrite_clocked (r : Bool) (mpcs : Nat) (hc : d.pageClocked .WDP 0 = true) :
    exec (.admitBudgetWrite r mpcs) s = .next (s.withDev (d.wr (budgetField r) mpcs).compareBudget) :=
  h.run_quiet (d.setBudget_clocked r mpcs hc) (by simp)

end

/-- Settles O23: a generation goes to a channel by whether it is active, OVERCOMMIT and its event follow from the comparison. -/
theorem dispatchAndRateRegisters : Obligations.DispatchAndRateRegisters := by
  intro s d h
  refine ⟨fun _ hg hc => h.genAssignAll_clocked hg hc, fun _ hg hc => h.genAssignAll_stopped hg hc, fun c gen hg hc ha => ?_,
    fun c gen hg hc ha => ?_, fun c _ hg hc => h.genAssignChn_stopped hg c hc, h.admitBudgetWrite_stopped, fun r mpcs hc => ?_,
    fun _ => h.run_quiet rfl rfl⟩
  · rw [h.genAssignChn_clocked hg c hc, Dev.assignGen, if_pos ha]
  · rw [h.genAssignChn_clocked hg c hc, Dev.assignGen, if_neg (by simp [ha])]
  · have hsts : (d.wr (budgetField r) mpcs).bit WDP_STS.OVERCOMMIT = d.bit WDP_STS.OVERCOMMIT :=
      congrArg (· == 1) (d.wr_budgetField_sts r mpcs rfl rfl)
    refine ⟨_, h.admitBudgetWrite_clocked r mpcs hc, ?_, ?_, ?_, fun hw ho => ?_, ?_, rfl, rfl⟩
    · exact (Dev.compareBudget_budget _).trans (d.wr_budgetField_budget r mpcs)
    · exact (Dev.compareBudget_reservation _).trans (d.wr_budgetField_reservation r mpcs)
    · simpa using Dev.compareBudget_overcommit _
    · exact Dev.compareBudget_event _ (hsts.trans hw) ((Dev.compareBudget_overcommit _).1 ho)
    · exact (Dev.compareBudget_genDefault _).trans (d.wr_budgetField_sts r mpcs rfl rfl)

end Sys2Proof.Machine
end

section
/-! The packets of decode channels, the wait in front of a gap (R149), and the host's side of the output ring (R173). -/

namespace Sys2Proof.Machine

section
variable {s : State} {d : Dev} (h : s.Ready d) (c : Fin 256)
include h

/-- While the buffer pools are enabled the oldest packet waiting at output 8 leaves it; the operand is what the sink reads in it
(log entry 70). -/
theorem State.Ready.decodePacket (p : DecPkt) : exec (.decodePacket c p) s =
    .next (s.after ((if d.bpmOpen then d.takeSink 8 else d).decodePacket s.env c p)) :=
  h.run _

/-! A gap in front of the buffer's first packet.  The wait runs from the first packet of the unit it holds up: of the unit being
assembled where it lies inside one, of the unit behind it otherwise. -/

section
variable {p : JbPkt} {q : Nat} {rest : List JbPkt} (hjb : (d.dc c).jb = p :: rest) (hq : (d.dc c).nextSeq = some q) (hlt : q < p.seq)
  (hstop : (d.dc c).stop = none)
  (hbetween : (d.dc c).partPkts = 0 → p.arrival + p.wait * 1000000 ≤ s.now)
  (hinside : (d.dc c).partPkts ≠ 0 → (d.dc c).partAt + (d.dc c).partWait * 1000000 ≤ s.now)
include hjb hq hlt hstop hbetween hinside

/-- Whichever wait runs, once it is over only the kind of the gap decides. -/
theorem State.Ready.jbTimeout : exec (.jbTimeout c) s = .next (s.after (if (d.dc c).boundary p then
    Dev.jbAdvance s.env c (p :: rest).length (d.acceptGap c p.seq) else d.transportDamage s.env c 0x07 (q % 65536))) := by
  refine (h.run _).trans ?_
  simp only [hjb, hq, State.env_now]
  rw [if_neg (by simp [hlt, hstop])]
  by_cases hpart : (d.dc c).partPkts = 0
  · have hw := hbetween hpart
    rw [if_neg (by simp [hpart]), if_neg (by simp [hw])]
  · have hw := hinside hpart
    rw [if_neg (by simp [hw]), if_neg (by simp [hpart])]

theorem State.Ready.jbTimeout_boundary (hb : (d.dc c).boundary p = true) :
    exec (.jbTimeout c) s = .next (s.after (Dev.jbAdvance s.env c (p :: rest).length (d.acceptGap c p.seq))) := by
  rw [h.jbTimeout c hjb hq hlt hstop hbetween hinside, if_pos hb]

theorem State.Ready.jbTimeout_inside (hb : (d.dc c).boundary p = false) :
    exec (.jbTimeout c) s = .next (s.after (d.transportDamage s.env c 0x07 (q % 65536))) := by
  rw [h.jbTimeout c hjb hq hlt hstop hbetween hinside, if_neg (by simp [hb])]

end

/-- A read position that names a store and does not pass the write position is taken. -/
theorem State.Ready.decOutRdWrite {idx : Fin 16} {wrap : Bool} (hidx : idx.val < d.rd (CHN_DEC_CFG.NOUT.on c))
    (hused : (ringPos (d.rd (CHN_DEC_CFG.NOUT.on c)) idx wrap + 2 * d.rd (CHN_DEC_CFG.NOUT.on c) -
      ringPos (d.rd (CHN_DEC_CFG.NOUT.on c)) (d.rd (CHN_DEC_OUT_RD.IDX.on c)) (d.bit (CHN_DEC_OUT_RD.WRAP.on c))) %
        max 1 (2 * d.rd (CHN_DEC_CFG.NOUT.on c)) ≤ d.outUsed c) :
    let r := (d.wr (CHN_DEC_OUT_RD.IDX.on c) idx).wr (CHN_DEC_OUT_RD.WRAP.on c) (ofBool wrap)
    exec (.decOutRdWrite c idx wrap) s = .next (s.after (if r.isDecode c ∧ r.chActive c then r.decodeStep s.env c else r)) := by
  refine (h.run _).trans ?_
  rw [if_neg (not_or.2 ⟨Nat.not_le.2 hidx, Nat.not_lt.2 hused⟩)]

end

/-- Settles O21: each command by its own rule above, the end of a wait by whether the gap lies on a boundary of units. -/
theorem decodeInputAndOutputRing : Obligations.DecodeInputAndOutputRing := by
  intro s d c h
  exact ⟨h.decodePacket c,
    fun _ _ _ hjb hq hlt hstop hbetween hinside =>
      ⟨h.jbTimeout_boundary c hjb hq hlt hstop hbetween hinside, h.jbTimeout_inside c hjb hq hlt hstop hbetween hinside⟩,
    fun _ _ hidx hused => h.decOutRdWrite c hidx hused⟩

end Sys2Proof.Machine
end

section
/-! Jobs of the entropy engines (R184, R185, R189, R192, R194, R239): how one starts, waits and ends, and machine checks. -/

namespace Sys2Proof.Machine

/-! The choice of the next job. -/

/-- A job whose channel has no pending move starts as it is. -/
theorem Dev.startFirst_unmoved {d : Dev} {e : Nat} {j : EntJob} (hj : entFirst (d.en e).ready = some j)
    (hm : (List.range 32).find? (fun f => (d.en f).moves.contains j.chn) = none) : d.startFirst e = d.takeEntropy e j := by
  simp only [Dev.startFirst, hj, hm]

/-- Job `k`, no longer dry, with the failed attempts of its slice so far (R197). -/
def Dev.woken (d : Dev) (k : EntJob) : EntJob :=
  { k with dry := false, tries := match ((d.ch k.chn).pic k.pic).bind (·.slice k.slice) with | some s => s.tries | none => k.tries }

/-- Engine `e` with its job `k` woken, where it stands. -/
def Dev.wake (d : Dev) (e : Nat) (k : EntJob) : Dev :=
  d.upEn e (fun x => { x with suspended := x.suspended.map (fun j => if j = k then d.woken k else j)
                              queue := x.queue.map (fun j => if j = k then d.woken k else j) })

/-- A unit found damaged: skipped while the channel waits for a random-access point (R154), too long for the channel's claim, or
damaged as reported. -/
def Dev.unitDamaged (u : Dev) (env : Env) (j : EntJob) (a : Au) (x : Damage) (rap : Bool) : Dev :=
  if (u.dc j.chn).skipping = true ∧ a.frames = 0 ∧ rap = false then u.skipUnit env j.chn a
  else if u.unitOver j.chn a.bytes then
    u.damage env j.chn { au := j.pic, code := 0x0A, aux := a.bytes, ctu := 0xFFFFF, frameNum := false, poc := x.poc }
  else u.damageOf env j.chn j.pic x

section
variable {s : State} {d : Dev} (h : s.Ready d) {e : Fin 32}
include h

/-! An engine takes a job.  `u` is the device once what was written is noted and the engine's output queue has given what it can. -/

section
variable {w : Written} {j : EntJob} {u : Dev} (hu : (d.noteWritten w).flushOut s.env e = u) (hs : u.eneInService e = true)
  (ho : u.open_ (pageENE e) = true)
include hu hs ho

theorem State.Ready.entropyJobStart_idle (hr : (u.en e).running = none) :
    exec (.entropyJobStart ⟨e, w⟩) s = .next (s.after (u.startFirst e)) := by
  refine (h.run _).trans ?_
  simp only [hu, hs, ho, Bool.not_true, Bool.or_self, Bool.false_eq_true, if_false, hr]

/-- A live slice that is not encoded whole has run dry, and makes way. -/
theorem State.Ready.entropyJobStart_dry (hr : (u.en e).running = some j) (hl : j.live = true) (hw : u.syntaxWhole j = false) :
    exec (.entropyJobStart ⟨e, w⟩) s = .next (s.after ((u.suspend e (u.ranDry j)).startFirst e)) := by
  refine (h.run _).trans ?_
  simp only [hu, hs, ho, Bool.not_true, Bool.or_self, Bool.false_eq_true, if_false, hr, hl, hw, Bool.not_false, Bool.and_self, if_true]

end

/-! A slice that ran dry goes on. -/

section
variable {c : Fin 256} {pic slice : Nat} {w : Written} {k : EntJob} {u : Dev} (hu : d.noteWritten w = u)
  (hk : ((u.en e).suspended ++ (u.en e).queue).find? (fun k => k.dry && k.chn == c.val && k.pic == pic && k.slice == slice) = some k)
  (hres : u.resumable k = true)
include hu hk hres

theorem State.Ready.followResume : exec (.followResume ⟨e, w⟩ c pic slice) s = .next (s.after
    (if ((u.wake e k).en e).running.isNone && entFirst ((u.wake e k).en e).ready == some (u.woken k) then
      (u.wake e k).takeEntropy e (u.woken k) else u.wake e k)) := by
  refine (h.run _).trans ?_
  simp only [hu, hk, hres, Bool.not_true, Bool.false_eq_true, if_false]
  rfl

theorem State.Ready.followResume_runs (hr : ((u.wake e k).en e).running = none)
    (hf : entFirst ((u.wake e k).en e).ready = some (u.woken k)) :
    exec (.followResume ⟨e, w⟩ c pic slice) s = .next (s.after ((u.wake e k).takeEntropy e (u.woken k))) := by
  rw [h.followResume hu hk hres, if_pos (by simp [hr, hf])]

theorem State.Ready.followResume_waits
    (hn : ((u.wake e k).en e).running ≠ none ∨ entFirst ((u.wake e k).en e).ready ≠ some (u.woken k)) :
    exec (.followResume ⟨e, w⟩ c pic slice) s = .next (s.after (u.wake e k)) := by
  rw [h.followResume hu hk hres, if_neg (by simpa [imp_iff_not_or] using hn)]

end

theorem State.Ready.livePreempt {w : Written} {j : EntJob} {u : Dev} (hu : d.noteWritten w = u) (hr : (u.en e).running = some j)
    (hl : j.live = false) (ha : (u.en e).ready.any (·.live) = true) (hfree : (u.en e).suspended.length < 16) :
    exec (.livePreempt ⟨e, w⟩) s = .next (s.after (u.suspend e j)) := by
  refine (h.run _).trans ?_
  simp only [hu, hr]
  rw [if_neg (by simp [hl, ha, hfree])]

/-! Output of the running job, and its end. -/

section
variable {j : EntJob} (hj : (d.en e).running = some j)
include hj

theorem State.Ready.entropyJobEnd_bytes (more : List Byte) (read : Nat) : exec (.entropyJobEnd e (.bytes more read)) s =
    .next (s.after (((d.noteReady 0).moreBytes s.env e j more read).noteReady 0)) := by
  refine (h.run _).trans ?_
  simp only [hj]

theorem State.Ready.entropyJobEnd_segment (frame : Nat) (info : AuInfo) (seg : Segment) (read : Nat) :
    exec (.entropyJobEnd e (.segment frame info seg read)) s =
      .next (s.after (((d.noteReady 0).moreSyntax s.env e j frame info seg read).noteReady 0)) := by
  refine (h.run _).trans ?_
  simp only [hj]

/-! An encode job ends in its turn, with as many bytes as the rate control gives the slice or the hold picture. -/

section
variable {p : Pic} {sl : Slice} (hp : ((d.noteReady 0).ch j.chn).pic j.pic = some p) (hsl : p.slice j.slice = some sl)
  (ht : (d.noteReady 0).codedTurn j p sl = true) (ho : (d.noteReady 0).bpmOpen = true)
include hp hsl ht ho

theorem State.Ready.entropyJobEnd_coded {bytes : List Byte} (bins cycles : Nat) (hd : j.decode = false) (hh : j.hold = false)
    (hlen : bytes.length = sliceLength p sl) : exec (.entropyJobEnd e (.coded bytes bins cycles)) s =
      .next (s.after (((d.noteReady 0).lastBytes s.env e j bytes 0 bins cycles).noteReady 0)) := by
  refine (h.run _).trans ?_
  simp only [hj, hp, Option.bind_some, hsl]
  rw [if_neg (by simp [hd, hh, ht, ho, hlen])]

theorem State.Ready.entropyJobEnd_hold {bytes filler : List Byte} {overhead : Nat} (bins cycles : Nat) (hh : j.hold = true)
    (hf : (d.noteReady 0).holdFits j.chn bytes.length overhead filler.length = true) :
    exec (.entropyJobEnd e (.hold bytes overhead filler bins cycles)) s =
      .next (s.after (((d.noteReady 0).lastBytes s.env e j (bytes ++ filler) filler.length bins cycles).noteReady 0)) := by
  refine (h.run _).trans ?_
  simp only [hj, hp, Option.bind_some, hsl]
  rw [if_neg (by simp [hh, ht, ho, hf])]

end

/-! A decode job ends once its output queue is empty.  `u` is the device with that queue flushed. -/

section
variable {u : Dev} (hu : (d.noteReady 0).flushOut s.env e = u) (hd : j.decode = true) (ho : u.bpmOpen = true)
  (hq : (u.en e).outq = []) (hr : (u.en e).running = some j)
include hu hd ho hq hr

theorem State.Ready.entropyJobEnd_decoded (frames : List (AuInfo × List Segment)) (shows : List Int) (bins cycles : Nat) :
    exec (.entropyJobEnd e (.decoded frames shows bins cycles)) s =
      .next (s.after (((u.entropyDone e bins cycles).unitDecoded s.env j frames shows).noteReady 0)) := by
  refine (h.run _).trans ?_
  simp only [hj, hu]
  rw [if_pos (by simp [hd, ho, hq, hr])]

theorem State.Ready.entropyJobEnd_damaged (x : Damage) (rap : Bool) {bins cycles : Nat} {a : Au}
    (ha : ((u.entropyDone e bins cycles).dc j.chn).aus.find? (fun a => a.idx == j.pic) = some a) :
    exec (.entropyJobEnd e (.damaged x rap bins cycles)) s =
      .next (s.after (((u.entropyDone e bins cycles).unitDamaged s.env j a x rap).noteReady 0)) := by
  refine (h.run _).trans ?_
  simp only [hj, hu]
  rw [if_neg (by simp [hd, ho, hq, hr])]
  simp only [ha, Bool.and_eq_true, beq_iff_eq, Bool.not_eq_true', and_assoc]
  rfl

end

end

/-! Machine checks. -/

theorem State.Ready.machineCheck_found {kind : Fin 4} (hkind : kind.val ≠ 0) {fetch : UcFetch} (sent : List Byte)
    (hne : (d.en e).checkKind kind ((d.en e).fetch fetch) ≠ 0) : exec (.machineCheck e kind fetch sent) s =
      .next (s.after (d.machineCheck s.env e ((d.en e).checkKind kind ((d.en e).fetch fetch)) ((d.en e).fetch fetch) sent)) :=
  (h.run _).trans (congrArg (fun u => Host.Outcome.next (s.after u)) (if_neg (not_or.2 ⟨hkind, hne⟩)))

/-- The fetch of a sound word is no machine check. -/
theorem State.Ready.machineCheck_sound {kind : Fin 4} {fetch : UcFetch} (sent : List Byte)
    (hk : (d.en e).checkKind kind ((d.en e).fetch fetch) = 0) : exec (.machineCheck e kind fetch sent) s = .next s := by
  refine ((h.run _).trans ?_).trans (congrArg Host.Outcome.next h.after_self)
  rw [if_pos (.inr hk)]

end

/-- Settles O24: each command by its own rule above. -/
theorem entropyJobsRun : Obligations.EntropyJobsRun := by
  intro s d e h
  exact ⟨fun _ _ hs ho =>
      ⟨fun hr hj hm => (h.entropyJobStart_idle rfl hs ho hr).trans (by rw [Dev.startFirst_unmoved hj hm]),
        fun hr hl hw => h.entropyJobStart_dry rfl hs ho hr hl hw⟩,
    fun _ _ _ _ _ hk hres => ⟨h.followResume_runs rfl hk hres, h.followResume_waits rfl hk hres⟩,
    fun _ _ hr hl ha hfree => h.livePreempt rfl hr hl ha hfree,
    fun _ more read hj => h.entropyJobEnd_bytes hj more read,
    fun _ frame info seg read hj => h.entropyJobEnd_segment hj frame info seg read,
    fun _ _ _ _ bins cycles hj hp hsl hd hh ht ho hlen => h.entropyJobEnd_coded hj hp hsl ht ho bins cycles hd hh hlen,
    fun _ _ _ _ _ _ bins cycles hj hp hsl hh ht ho hf => h.entropyJobEnd_hold hj hp hsl ht ho bins cycles hh hf,
    fun _ frames shows bins cycles hj hd ho hq hr => h.entropyJobEnd_decoded hj rfl hd ho hq hr frames shows bins cycles,
    fun _ x rap _ _ _ hj hd ho hq hr ha => h.entropyJobEnd_damaged hj rfl hd ho hq hr x rap ha,
    fun _ _ sent hkind => ⟨h.machineCheck_found hkind sent, h.machineCheck_sound sent⟩⟩

end Sys2Proof.Machine
end

section
/-! What firmware orders of an entropy engine (R183, R196, R199, R203): moves, its control store, its self-test and its service states. -/

namespace Sys2Proof.Machine

theorem Dev.moveOk_of {d : Dev} {c e : Nat} (hst : d.chState c = 2 ∨ d.chState c = 3) (hb : d.boundTo c ≠ none)
    (hs : d.eneInService e = true) (hen : d.bit (ENE_CTL.BIND_EN.on e) = true) : d.moveOk c e = true := by
  simp [Dev.moveOk, hst, hs, hen, Option.isSome_iff_ne_none, hb]

/-- A move that is admitted takes the place of those pending for its channel. -/
theorem Dev.eneMove_ok {d : Dev} {c e : Nat} (hok : d.moveOk c e = true) : d.eneMove e c =
    (d.forEach (List.range 32) (fun d f => d.upEn f (fun x => { x with moves := x.moves.filter (· != c) }))).upEn e
      (fun x => { x with moves := x.moves ++ [c] }) :=
  if_neg (by simp [hok])

@[simp] theorem Dev.eneMove_posted (d : Dev) (e c : Nat) : (d.eneMove e c).posted = d.posted := by
  unfold Dev.eneMove
  split
  · simp
  · exact (Dev.upEn_posted _ _ _).trans (foldl_posted _ _ (fun d f => d.upEn_posted f _) d)

section
variable {s : State} {d : Dev} (h : s.Ready d) {e : Fin 32}
include h

theorem State.Ready.eneMove (c : Fin 256) : exec (.eneMove e c) s = .next (s.withDev (d.eneMove e c)) := h.run_quiet rfl (by simp)

/-! The control store and the self-test, on an engine that is idle with no channel bound to it. -/

section
variable (hf : d.eneFree e = true)
include hf

theorem State.Ready.eneUcStore (hi : Nat) (hs : d.eneService e ≠ 3) :
    let a := d.rd (ENE_UC_ADDR.ADDR.on e)
    let w := d.rd (ENE_UC_LO.DATA.on e) + hi % 65536 * 2 ^ 32
    exec (.eneUcStore e hi) s = .next (s.withDev
      ((((d.upEn e (fun x => { x with ucode := storeSet (fun _ => 0) x.ucode a w })).wr (ENE_UC_ADDR.ADDR.on e) (a + 1)).wr
        (ENE_STS.SERVICE.on e) 2).wr (ENE_STS.ST_RESULT.on e) 0)) :=
  h.run_quiet (by simp only [hf, hs, Bool.not_true, Bool.false_eq_true, if_false]) (by simp)

theorem State.Ready.eneSelftest : exec (.eneSelftest e) s = .next (s.withDev (d.wr (ENE_CTL.SELFTEST.on e) 1)) :=
  h.run_quiet (if_neg (by simp [hf])) (by simp)

end

section
variable (hf : d.eneFree e = false)
include hf

theorem State.Ready.eneUcStore_busy (hi : Nat) : exec (.eneUcStore e hi) s = .next (s.withDev (d.ignored (pageENE e) 0x058)) :=
  h.run_quiet (if_pos (by simp [hf])) (by simp)

theorem State.Ready.eneSelftest_busy : exec (.eneSelftest e) s = .next (s.withDev (d.ignored (pageENE e) 0x040)) :=
  h.run_quiet (if_pos (by simp [hf])) (by simp)

end

theorem State.Ready.eneSelftestDone (pass : Bool) (ht : d.bit (ENE_CTL.SELFTEST.on e) = true) (hs : d.safe = false) :
    exec (.eneSelftestDone e pass) s = .next (s.withDev
      (((d.wr (ENE_CTL.SELFTEST.on e) 0).wr (ENE_STS.ST_RESULT.on e) (if pass then 1 else 2)).event (ENE_EVT.SELFTEST_DONE.on e))) :=
  h.run_quiet (if_neg (by simp [ht, hs])) (by simp)

/-! Release from quarantine and retirement, of an engine that is idle. -/

section
variable (hidle : d.eneIdle e = true)
include hidle

theorem State.Ready.eneRelease (hs : d.eneService e = 2) (hp : d.rd (ENE_STS.ST_RESULT.on e) = 1) :
    exec (.eneRelease e) s = .next (s.after ((d.wr (ENE_STS.SERVICE.on e) 1).bindWaiting)) := by
  refine (h.run _).trans ?_
  rw [if_neg (by simp [hidle]), if_pos ⟨hs, hp⟩]

theorem State.Ready.eneRetire : exec (.eneRetire e) s =
    .next (s.after (((d.wr (ENE_STS.SERVICE.on e) 3).wr (ENE_CTL.RETIRE.on e) 1).rebindAll s.env e [])) :=
  (h.run _).trans (congrArg (fun u => Host.Outcome.next (s.after u)) (if_neg (by simp [hidle])))

end

end

/-- Settles O25: each command by its own rule above. -/
theorem entropyEngineControl : Obligations.EntropyEngineControl := by
  intro s d e h
  exact ⟨fun c hst hb hs hen => (h.eneMove c).trans (by rw [Dev.eneMove_ok (Dev.moveOk_of hst hb hs hen)]; rfl),
    fun hi hf hs => h.eneUcStore hf hi hs,
    fun hf => h.eneSelftest hf,
    fun pass ht hs => h.eneSelftestDone pass ht hs,
    fun hidle hs hp => h.eneRelease hidle hs hp,
    fun hidle => h.eneRetire hidle,
    fun hf => ⟨h.eneUcStore_busy hf, h.eneSelftest_busy hf⟩⟩

end Sys2Proof.Machine
end

section
/-! Service states of the pixel engines (R217 to R221): quarantine at once or at the end of the job, the self-test, release, retirement
and the operating point. -/

namespace Sys2Proof.Machine

/-! Registers of an engine's page. -/

theorem Field.on_base_ne {f g : Field} (i : Nat) (h : f.base ≠ g.base) : (f.on i).base ≠ (g.on i).base :=
  fun he => h (Nat.add_right_cancel he)

/-- The pages of the pixel engines lie below the words that an event can touch. -/
theorem Field.on_not_evtWord {f : Field} (e : Fin 128) (h : f.base < 0x700000) : ¬ evtWord (f.on e).base := by
  simp only [evtWord, Field.on]
  omega

theorem pagePXE_flt (e : Nat) : pagePXE e + 0x01C = (PXE_FLT.SRAM_CE.on e).base := by
  simp only [pagePXE, PXE_FLT.SRAM_CE, Field.on]
  omega

/-- A field of one word, written, leaves the other words. -/
theorem Dev.word_wr_narrow (d : Dev) (f : Field) (v : Nat) {k : Nat} (hw : f.wide = false) (h : f.base ≠ k) : (d.wr f v).word k = d.word k :=
  d.word_wr_ne f v h (by simp [hw])

/-! Quarantine (R217). -/

section
variable (d : Dev) (e : Fin 128)

theorem Dev.quarantine_service : (d.quarantine e).pxeService e = 2 := by
  have hk : ¬ evtWord (PXE_STS.SERVICE.on e).base := Field.on_not_evtWord e (by decide)
  have hb : (PXE_EVT.QUARANTINED.on e).base ≠ (PXE_STS.SERVICE.on e).base := Field.on_base_ne _ (by decide)
  unfold Dev.pxeService Dev.quarantine
  rw [Dev.event_rd _ _ _ rfl rfl hb hk, Dev.rd_wr_beside _ (PXE_STS.ST_RESULT.on e) (PXE_STS.SERVICE.on e) _ rfl rfl rfl
      (Field.on_fits _ _ (by decide)) (.inr (by simp [PXE_STS.SERVICE, PXE_STS.ST_RESULT, Field.on])),
    Dev.rd_wr_self _ _ _ rfl (Field.on_fits _ _ (by decide))]
  rfl

theorem Dev.quarantine_event : (d.quarantine e).bit (PXE_EVT.QUARANTINED.on e) = true :=
  Dev.event_bit _ _ rfl rfl (Field.on_fits _ _ (by decide)) (Field.on_not_evtWord e (by decide))

/-- Beside PXE_STS and EVT_STS no register of the engine changes. -/
theorem Dev.quarantine_word {f : Field} (hs : PXE_STS.SERVICE.base ≠ f.base) (he : PXE_EVT.QUARANTINED.base ≠ f.base)
    (hf : f.base < 0x700000) : (d.quarantine e).word (f.on e).base = d.word (f.on e).base := by
  have hb : (PXE_STS.SERVICE.on e).base ≠ (f.on e).base := Field.on_base_ne _ hs
  unfold Dev.quarantine
  rw [Dev.event_word _ _ _ rfl (Field.on_base_ne _ he) (Field.on_not_evtWord e hf), Dev.word_wr_narrow _ (PXE_STS.ST_RESULT.on e) _ rfl hb,
    Dev.word_wr_narrow _ _ _ rfl hb]

@[simp] theorem Dev.quarantine_wpend (n : Nat) : (d.quarantine n).wpend = d.wpend := by simp [Dev.quarantine]

end

/-! The boundary of an engine for which nothing waits (R30). -/

theorem Dev.wPending_congr {d t : Dev} (h : t.wpend = d.wpend) (page : Nat) : t.wPending page = d.wPending page := by
  unfold Dev.wPending
  rw [h]

/-- A page in which nothing waits has nothing to latch. -/
theorem Dev.latch_none {d : Dev} {page : Nat} (h : d.wPending page = false) : d.latch page = d := by
  have hn : ∀ x ∈ d.wpend, (keyPage x.1 == page) = false := by simpa [Dev.wPending] using h
  have hdue : d.wpend.filter (fun x => keyPage x.1 == page) = [] := List.filter_eq_nil_iff.2 (fun x hx => by simp [hn x hx])
  have hkept : d.wpend.filter (fun x => !(keyPage x.1 == page)) = d.wpend := List.filter_eq_self.2 (fun x hx => by simp [hn x hx])
  cases hw : d.bit (PAGE_CTL.WHOLD.page page) with
  | true => exact d.latch_held hw
  | false =>
    rw [d.latch_free hw]
    unfold Dev.latchKeys
    rw [hdue, hkept]
    rfl

theorem Dev.rd_wrIf_beside (d : Dev) (b : Bool) (f g : Field) (v : Nat) (hf : f.wide = false) (hg : g.wide = false)
    (h : f.base = g.base) (hl : f.lsb + f.width ≤ 32) (hd : f.lsb + f.width ≤ g.lsb ∨ g.lsb + g.width ≤ f.lsb) :
    (d.wrIf b f v).rd g = d.rd g := by
  unfold Dev.wrIf
  split
  · exact d.rd_wr_beside f g v hf hg h hl hd
  · rfl

/-- The boundary then shows SPARE, where the engine's clock runs, and changes nothing else. -/
theorem Dev.pxeBoundary_none {d : Dev} {e : Nat} (h : d.wPending (pagePXE e) = false) :
    d.pxeBoundary e = d.wrIf (d.clockRuns e) (PXE_STS.SPARE_ACT.on e) (d.rd (PXE_CTL.SPARE.on e)) := by
  have hopp : ∀ v, (d.wr (PXE_STS.SPARE_ACT.on e) v).word (0x100048 + 0x1000 * e) = d.word (0x100048 + 0x1000 * e) := fun v =>
    d.word_wr_narrow _ v rfl (Field.on_base_ne (f := PXE_STS.SPARE_ACT) (g := PXE_OPP.VSET) e (by decide))
  unfold Dev.pxeBoundary Dev.wrIf
  cases d.clockRuns e with
  | false => rfl
  | true => simp only [Bool.not_true, Bool.false_eq_true, if_false, if_true, Dev.latch_none h, hopp]

/-! QUAR (R218). -/

theorem Dev.pxeQuar_free {d : Dev} {e : Nat} (hs : d.pxeService e = 1) (hj : d.bit (PXE_JOB.ACTIVE.on e) = false) :
    d.pxeQuar e = d.quarantine e := by simp [Dev.pxeQuar, hs, hj]

theorem Dev.pxeQuar_job {d : Dev} {e : Nat} (hs : d.pxeService e = 1) (hj : d.bit (PXE_JOB.ACTIVE.on e) = true) :
    d.pxeQuar e = d.upPx e (fun x => { x with quarAfter := true }) := by simp [Dev.pxeQuar, hs, hj]

/-- The engine without its job, quarantined by the QUAR that waited. -/
def Dev.quarAtEnd (d : Dev) (e : Nat) : Dev :=
  ((d.setWord (PXE_JOB.ACTIVE.on e).base 0).upPx e (fun x => { x with quarAfter := false })).quarantine e

theorem Dev.pxeFree_quarAfter {d : Dev} {e : Nat} (h : (d.px e).quarAfter = true) : d.pxeFree e = (d.quarAtEnd e).pxeBoundary e :=
  congrArg (fun u => Dev.pxeBoundary u e) (if_pos h)

@[simp] theorem Dev.quarAtEnd_wpend (d : Dev) (e : Nat) : (d.quarAtEnd e).wpend = d.wpend := by simp [Dev.quarAtEnd]

section
variable {d : Dev} {e : Fin 128} (hq : (d.px e).quarAfter = true) (hw : d.wPending (pagePXE e) = false)
include hq hw

/-- At the end of its job the engine is quarantined; the boundary it passes changes no more than SPARE_ACT. -/
theorem Dev.pxeFree_quarantined : d.pxeFree e =
    (d.quarAtEnd e).wrIf ((d.quarAtEnd e).clockRuns e) (PXE_STS.SPARE_ACT.on e) ((d.quarAtEnd e).rd (PXE_CTL.SPARE.on e)) := by
  rw [Dev.pxeFree_quarAfter hq, Dev.pxeBoundary_none ((Dev.wPending_congr (d.quarAtEnd_wpend e) _).trans hw)]

theorem Dev.pxeFree_service : (d.pxeFree e).pxeService e = 2 := by
  unfold Dev.pxeService
  rw [Dev.pxeFree_quarantined hq hw, Dev.rd_wrIf_beside _ _ (PXE_STS.SPARE_ACT.on e) (PXE_STS.SERVICE.on e) _ rfl rfl rfl
    (Field.on_fits _ _ (by decide)) (.inr (by simp [PXE_STS.SERVICE, PXE_STS.SPARE_ACT, Field.on]))]
  exact Dev.quarantine_service _ e

theorem Dev.pxeFree_event : (d.pxeFree e).bit (PXE_EVT.QUARANTINED.on e) = true := by
  rw [Dev.pxeFree_quarantined hq hw, Dev.bit_wrIf_word _ _ _ _ _ rfl rfl (Field.on_base_ne _ (by decide))]
  exact Dev.quarantine_event _ e

theorem Dev.pxeFree_flt : (d.pxeFree e).word (PXE_FLT.SRAM_CE.on e).base = d.word (PXE_FLT.SRAM_CE.on e).base := by
  rw [Dev.pxeFree_quarantined hq hw, Dev.word_wrIf_ne _ _ _ _ rfl (Field.on_base_ne _ (by decide)), Dev.quarAtEnd,
    Dev.quarantine_word _ e (by decide) (by decide) (by decide), Dev.word_upPx,
    Dev.word_setWord_ne _ _ (Field.on_base_ne (f := PXE_JOB.ACTIVE) _ (by decide))]

end

/-! What the commands answer out of reset. -/

/-- An engine that is idle, and not retired, takes its commands. -/
theorem Dev.pxeAccepts_idle {d : Dev} {e : Nat} (hs : d.pxeService e ≠ 3) (hi : d.pxeIdle e = true) (off : Nat) (f : Dev → Dev) :
    d.pxeAccepts e off f = f d := by simp [Dev.pxeAccepts, hs, hi]

section
variable {s : State} {d : Dev} (h : s.Ready d) {e : Fin 128}
include h

theorem State.Ready.pxeQuar_free (hs : d.pxeService e = 1) (hj : d.bit (PXE_JOB.ACTIVE.on e) = false) :
    exec (.pxeQuar e) s = .next (s.withDev (d.quarantine e)) := h.run_quiet (Dev.pxeQuar_free hs hj) (by simp)

theorem State.Ready.pxeQuar_job (hs : d.pxeService e = 1) (hj : d.bit (PXE_JOB.ACTIVE.on e) = true) :
    exec (.pxeQuar e) s = .next (s.withDev (d.upPx e (fun x => { x with quarAfter := true }))) :=
  h.run_quiet (Dev.pxeQuar_job hs hj) rfl

end

/-- Settles O28: QUAR leaves a mark on the engine with a job, and the end of the job turns the mark into quarantine. -/
theorem quarantineWaitsForTheJob : Obligations.QuarantineWaitsForTheJob := by
  intro s d e h hs hj
  refine ⟨_, h.pxeQuar_job hs hj, rfl, rfl, rfl, fun u hq hw => ⟨Dev.pxeFree_service hq hw, Dev.pxeFree_event hq hw, ?_⟩⟩
  rw [pagePXE_flt]
  exact Dev.pxeFree_flt hq hw

/-! The self-test, release, retirement and the operating point. -/

@[simp] theorem Dev.oppStep_posted (d : Dev) (e : Nat) (x : OppStep) : (d.oppStep e x).posted = d.posted := by
  cases x <;> exact d.wr_posted _ _

section
variable {s : State} {d : Dev} (h : s.Ready d) {e : Fin 128}
include h

section
variable (hs : d.pxeService e = 2) (hi : d.pxeIdle e = true)
include hs hi

theorem State.Ready.pxeSelftest_starts (hb : d.bankValid e 0 = true ∨ d.bankValid e 1 = true) : exec (.pxeSelftest e) s =
    .next (s.withDev ((d.wr (PXE_CTL.SELFTEST.on e) 1).upPx e (fun x => { x with op := .selftest, stFault := false, entry := 4 * 5 }))) := by
  have hn : (!d.bankValid e 0 && !d.bankValid e 1) = false := by obtain hb | hb := hb <;> simp [hb]
  refine h.run_quiet ((Dev.pxeAccepts_idle (by simp [hs]) hi _ _).trans ?_) (by simp)
  rw [if_neg (by simp [hs]), if_neg (by simp [hn])]

/-- Without a valid bank there is nothing to run: ST_RESULT tells it at once. -/
theorem State.Ready.pxeSelftest_bare (h0 : d.bankValid e 0 = false) (h1 : d.bankValid e 1 = false) :
    exec (.pxeSelftest e) s = .next (s.withDev (d.wr (PXE_STS.ST_RESULT.on e) 3)) := by
  refine h.run_quiet ((Dev.pxeAccepts_idle (by simp [hs]) hi _ _).trans ?_) (by simp)
  rw [if_neg (by simp [hs]), if_pos (by simp [h0, h1])]

theorem State.Ready.pxeRelease (hp : d.rd (PXE_STS.ST_RESULT.on e) = 1) : exec (.pxeRelease e) s =
    .next (s.withDev ((d.wr (PXE_STS.SERVICE.on e) 1).upPx e (fun x => { x with infoFree := true }))) :=
  h.run_quiet ((Dev.pxeAccepts_idle (by simp [hs]) hi _ _).trans (if_pos ⟨hs, hp⟩)) (by simp)

end

theorem State.Ready.pxeRetire (hs : d.pxeService e ≠ 3) (hi : d.pxeIdle e = true) :
    exec (.pxeRetire e) s = .next (s.withDev ((d.wr (PXE_STS.SERVICE.on e) 3).wr (PXE_CTL.RETIRE.on e) 1)) :=
  h.run_quiet (Dev.pxeAccepts_idle hs hi _ _) (by simp)

theorem State.Ready.pxeSelftestDone (pass : Bool) (ho : (d.px e).op = .selftest) (hf : d.safe = false) :
    exec (.pxeSelftestDone e pass) s = .next (s.after (d.selftestEnds s.now e pass)) :=
  (h.run _).trans (congrArg (fun u => Host.Outcome.next (s.after u)) (if_neg (by simp [ho, hf])))

/-- The steps of a change of the operating point that is in progress are applied in order; with that it ends. -/
theorem State.Ready.oppDone (ho : (d.px e).oppSteps ≠ []) : exec (.oppDone e) s = .next (s.withDev
    ((((((d.px e).oppSteps.foldl (fun d x => d.oppStep e x) d).wr (PXE_OPP_STS.CHANGING.on e) 0).upPx e
      (fun x => { x with oppSteps := [] })).event (PXE_EVT.OPP_DONE.on e)).antResume e)) := by
  refine h.run_quiet ?_ (by simp [foldl_posted])
  cases hl : (d.px e).oppSteps with
  | nil => exact absurd hl ho
  | cons x r => simp only [Dev.forEach]

end

/-- Settles O27: each command by its own rule above. -/
theorem pixelEngineService : Obligations.PixelEngineService := by
  intro s d e h
  exact ⟨h.pxeQuar_free, h.pxeQuar_job, h.pxeSelftest_starts, h.pxeSelftest_bare, h.pxeSelftestDone, h.pxeRelease, h.pxeRetire, h.oppDone⟩

end Sys2Proof.Machine
end

section
/-! Microcode banks of the pixel engines (R212, R213): what LOAD, CHECK and INVALIDATE start or end at once, and how a load or a check
ends. -/

namespace Sys2Proof.Machine

section
variable {s : State} {d : Dev} (h : s.Ready d) {e : Fin 128}
include h

/-! The commands, on an engine that is idle and not retired. -/

section
variable {bank : Bool} (hs : d.pxeService e ≠ 3) (hi : d.pxeIdle e = true)
include hs hi

/-- A bank is loaded where nothing uses it and the other bank does not validly hold the generation. -/
theorem State.Ready.pxeUcLoad_starts (hu : d.bankInUse e (ofBool bank) = false)
    (hg : d.bankValid e (1 - ofBool bank) = false ∨ d.bankGen e (1 - ofBool bank) ≠ d.rd (PXE_UC_LOADCFG.GEN.on e)) :
    exec (.pxeUcLoad e bank) s = .next (s.withDev
      ((d.setBank e (ofBool bank) false 0).upPx e (fun x => { x with op := .load (ofBool bank) }))) := by
  have hother : (d.bankValid e (1 - ofBool bank) && d.bankGen e (1 - ofBool bank) == d.rd (PXE_UC_LOADCFG.GEN.on e)) = false := by
    obtain hg | hg := hg <;> simp [hg]
  refine h.run_quiet ((Dev.pxeAccepts_idle hs hi _ _).trans ?_) (by simp)
  rw [if_neg (by simp [hu]), if_neg (by simp [hother])]

theorem State.Ready.pxeUcLoad_inUse (hu : d.bankInUse e (ofBool bank) = true) :
    exec (.pxeUcLoad e bank) s = .next (s.withDev (d.ucResult e (ofBool bank) 4)) :=
  h.run_quiet ((Dev.pxeAccepts_idle hs hi _ _).trans (if_pos hu)) (by simp)

theorem State.Ready.pxeUcCheck_starts (hv : d.bankValid e (ofBool bank) = true) :
    exec (.pxeUcCheck e bank) s = .next (s.withDev (d.upPx e (fun x => { x with op := .check (ofBool bank) }))) :=
  h.run_quiet ((Dev.pxeAccepts_idle hs hi _ _).trans (if_pos hv)) rfl

theorem State.Ready.pxeUcCheck_invalid (hv : d.bankValid e (ofBool bank) = false) :
    exec (.pxeUcCheck e bank) s = .next (s.withDev (d.ucResult e (ofBool bank) 3)) :=
  h.run_quiet ((Dev.pxeAccepts_idle hs hi _ _).trans (if_neg (by simp [hv]))) (by simp)

theorem State.Ready.pxeUcInvalidate (hu : d.bankInUse e (ofBool bank) = false) :
    exec (.pxeUcInvalidate e bank) s = .next (s.withDev ((d.setBank e (ofBool bank) false 0).ucResult e (ofBool bank) 1)) :=
  h.run_quiet ((Dev.pxeAccepts_idle hs hi _ _).trans (if_neg (by simp [hu]))) (by simp)

end

/-! The ends; none comes in safe state. -/

section
variable {b : Nat} (poison : Bool) (hf : d.safe = false)
include hf

theorem State.Ready.pxeUcDone_load (ho : (d.px e).op = .load b) (hh : d.loadHeld e = false) :
    exec (.pxeUcDone e poison) s = .next (s.after (d.loadEnds s.env e b poison)) := by
  refine (h.run _).trans ?_
  simp only [hf, ho, hh, Bool.false_eq_true, if_false]

theorem State.Ready.pxeUcDone_check (ho : (d.px e).op = .check b) : exec (.pxeUcDone e poison) s = .next (s.after
    (let r := (d.upPx e (fun x => { x with op := .none })).checkBank s.now e b
     (r.1.ucResult e b r.2).pxeBoundary e)) := by
  refine (h.run _).trans ?_
  simp only [hf, ho, Bool.false_eq_true, if_false, State.env_now]

end

end

/-- Settles O26: each command by its own rule above, an end by what the engine was at. -/
theorem pixelMicrocode : Obligations.PixelMicrocode := by
  intro s d e h
  exact ⟨fun _ hs hi => ⟨h.pxeUcLoad_starts hs hi, h.pxeUcLoad_inUse hs hi, h.pxeUcCheck_starts hs hi, h.pxeUcCheck_invalid hs hi,
      h.pxeUcInvalidate hs hi⟩,
    fun poison _ => h.pxeUcDone_load poison,
    fun poison _ => h.pxeUcDone_check poison⟩

end Sys2Proof.Machine
end

section
/-! Antler measurements (R474, R475), the promotion of a spare (R250, R251), and a round of the margin plan with the settings store's
next operation on the flash (R471, R476). -/

namespace Sys2Proof.Machine

/-! Antler measurements. -/

section
variable {d : Dev} {dom : Nat} (hb : d.bit (ANT_STS.BUSY.on dom) = false)
include hb

theorem Dev.antMeasure_starts (ho : (d.wr (ANT_STS.BUSY.on dom) 1).open_ (pageANT dom) = true)
    (hc : (d.wr (ANT_STS.BUSY.on dom) 1).changing dom = false) : d.antMeasure dom = d.wr (ANT_STS.BUSY.on dom) 1 := by
  simp [Dev.antMeasure, hb, ho, hc]

/-- A measurement does not overlap with a change of the operating point (R475). -/
theorem Dev.antMeasure_waits (hc : (d.wr (ANT_STS.BUSY.on dom) 1).changing dom = true) :
    d.antMeasure dom = (d.wr (ANT_STS.BUSY.on dom) 1).upAnts (fun l => dom :: l) := by
  simp [Dev.antMeasure, hb, hc]

end

section
variable {s : State} {d : Dev} (h : s.Ready d) {dom : Fin 221}
include h

theorem State.Ready.antMeasure {e : Dev} (he : d.antMeasure dom = e) : exec (.antMeasure dom) s = .next (s.withDev e) :=
  h.run_quiet he (he ▸ d.antMeasure_posted dom)

theorem State.Ready.measDone {m : Meas} (hm : d.measuring dom = true) (hl : m.slacks.length = 8) :
    exec (.measDone dom m) s = .next (s.after (d.endMeasure s.now dom m)) :=
  (h.run _).trans (congrArg (fun u => Host.Outcome.next (s.after u)) (if_neg (by simp [hm, hl])))

end

/-! What becomes of a quarantined engine. -/

section
variable {d : Dev} {e : Nat}

theorem Dev.beginSparing_replaced (hs : d.pxeSpare e = false) (hr : (d.replaceEngine e).2 = true) : d.beginSparing e =
    (((((d.replaceEngine e).1.setPlan e { (d.replaceEngine e).1.plan e with testing := true, phase := 0, short := false }).writeSpare e
      1).pxeSelftest e).antMeasure e) := by
  simp [Dev.beginSparing, hs, hr]

/-- Where a spare has taken its place, an engine that goes leaves the budget as it is (R251). -/
theorem Dev.sparingFails_replaced (hp : (d.plan e).short = false) : d.sparingFails e = (d.pxeRetire e).setPlan e
    { d.plan e with flags := (d.plan e).flags ||| 4, testing := false, phase := 0, short := false } := by
  simp [Dev.sparingFails, hp]

/-- An engine whose place a spare has taken comes back as a spare itself. -/
theorem Dev.sparingPasses_replaced (hp : (d.plan e).short = false) : d.sparingPasses e = (d.pxeRelease e).setPlan e
    { d.plan e with
      slack := d.rd (ANT_STS.SLACK.on e), vset := d.rd (PXE_OPP_STS.VSET.on e), freq := d.rd (PXE_OPP_STS.FREQ.on e)
      testing := false, phase := 0, short := false } := by
  simp [Dev.sparingPasses, hp]

/-- With no change of its point under way, a valid measurement that meets the guard of 25 ps lets the engine pass. -/
theorem Dev.sparingMeasured_guardMet (hp : (d.plan e).phase = 0) (hn : d.bit (ANT_STS.NOCLK.on e) = false)
    (hv : d.bit (ANT_STS.VALID.on e) = true) (hg : 25 ≤ d.rd (ANT_STS.SLACK.on e)) : d.sparingMeasured e = d.sparingPasses e := by
  simp [Dev.sparingMeasured, hp, hn, hv, hg]

/-- What the firmware does next for an engine in quarantine that awaits its test: by its plan and by the result of its self-test. -/
def Dev.sparingStep (d : Dev) (e : Nat) : Dev :=
  if !(d.plan e).testing || d.rd (PXE_STS.ST_RESULT.on e) == 0 then d.beginSparing e
  else if d.rd (PXE_STS.ST_RESULT.on e) = 2 ∨ (d.plan e).twice then d.sparingFails e
  else if d.rd (PXE_STS.ST_RESULT.on e) = 1 then d.sparingMeasured e
  else d.pxeSelftest e

theorem Dev.sparingStep_untested (hr : d.rd (PXE_STS.ST_RESULT.on e) = 0) : d.sparingStep e = d.beginSparing e :=
  if_pos (by simp [hr])

section
variable (ht : (d.plan e).testing = true)
include ht

theorem Dev.sparingStep_fails
    (hr : d.rd (PXE_STS.ST_RESULT.on e) = 2 ∨ (d.rd (PXE_STS.ST_RESULT.on e) = 1 ∧ (d.plan e).twice = true)) :
    d.sparingStep e = d.sparingFails e := by
  unfold Dev.sparingStep
  obtain hr | ⟨hr, h2⟩ := hr
  · simp [ht, hr]
  · simp [ht, hr, h2]

theorem Dev.sparingStep_measured (hr : d.rd (PXE_STS.ST_RESULT.on e) = 1) (h2 : (d.plan e).twice = false) :
    d.sparingStep e = d.sparingMeasured e := by
  simp [Dev.sparingStep, ht, hr, h2]

end

end

section
variable {s : State} {d : Dev} (h : s.Ready d)
include h

/-- While the firmware's core serves it, an engine in quarantine with no operation and no measurement under way takes its next step. -/
theorem State.Ready.sparePromotion {e : Fin 128} (hf : d.service 2 = true) (hq : d.pxeService e = 2) (ho : (d.px e).op = .none)
    (hb : d.bit (ANT_STS.BUSY.on e) = false) (hr : bitAt (d.plan e).flags 2 = false) :
    exec (.sparePromotion e) s = .next (s.after (d.sparingStep e)) :=
  (h.run _).trans (congrArg (fun u => Host.Outcome.next (s.after u)) (if_neg (by simp [hf, hq, ho, hb, hr])))

/-! The firmware's round: the settings store goes on first, and then the domains that the round names. -/

section
variable {doms : List (Fin 221)} {fails : Bool} {u : Dev} (hu : (if d.service 3 then d.flashStep s.env fails else d) = u)
include hu

theorem State.Ready.marginPlanRound_plans (hf : u.service 2 = true) (hd : doms ≠ []) : exec (.marginPlanRound ⟨doms, fails⟩) s =
    .next (s.after (doms.foldl (fun d k => d.planDomain s.env k.val) u).designateSpares.writePlan) := by
  subst hu
  exact (h.run _).trans (congrArg (fun u => Host.Outcome.next (s.after u)) (if_pos (by simp [hf, hd])))

theorem State.Ready.marginPlanRound_storeOnly (hn : u.service 2 = false ∨ doms = []) :
    exec (.marginPlanRound ⟨doms, fails⟩) s = .next (s.after u) := by
  subst hu
  refine (h.run _).trans (congrArg (fun u => Host.Outcome.next (s.after u)) (if_neg ?_))
  obtain hn | hn := hn <;> simp [hn]

end

end

/-- Settles O52: each command by its own rule above, a spare's promotion by the engine's plan and its self-test's result. -/
theorem marginsAndSpares : Obligations.MarginsAndSpares := by
  intro s d h
  refine ⟨fun dom hb => ⟨fun ho hc => h.antMeasure (Dev.antMeasure_starts hb ho hc), fun hc => h.antMeasure (Dev.antMeasure_waits hb hc)⟩,
    fun dom m => h.measDone, fun e hf hq ho hb hr => ?_,
    fun doms fails => ⟨h.marginPlanRound_plans rfl, h.marginPlanRound_storeOnly rfl⟩⟩
  rw [h.sparePromotion hf hq ho hb hr]
  refine ⟨fun h0 hs hp => ?_, fun ht hp => ⟨fun hres => ?_, fun h1 h2 hph hn hv hg => ?_⟩⟩
  · rw [Dev.sparingStep_untested h0, Dev.beginSparing_replaced hs hp]
  · rw [Dev.sparingStep_fails ht hres, Dev.sparingFails_replaced hp]
  · rw [Dev.sparingStep_measured ht h1 h2, Dev.sparingMeasured_guardMet hph hn hv hg, Dev.sparingPasses_replaced hp]

end Sys2Proof.Machine
end

section
/-! Arbiters of the HBM controllers (R295 to R300): requests and grants, locks and their watchdog, freezes, quota windows and slot
tables. -/

namespace Sys2Proof.Machine

@[simp] theorem Dev.unlock_posted (d : Dev) (n : Nat) : (d.unlock n).posted = d.posted := by simp [Dev.unlock]

/-- A frozen arbiter has drained where no grant goes on and its controller's queues are empty. -/
theorem Dev.arbDrained_iff {d : Dev} {n : Nat} :
    d.arbDrained n = true ↔ d.frozen (pageARB n) = true ∧ (d.hb n).granted = [] ∧ (d.hb n).queue = [] := by
  simp [Dev.arbDrained, and_assoc]

section
variable {s : State} {d : Dev} (h : s.Ready d)
include h

/-- A command out of reset answers the device of its effect, with the memory writes it posted carried out. -/
theorem State.Ready.run_after {f : Env → Dev → Dev} {e : Dev} (hf : f s.env d = e) : s.run f = .next (s.after e) := by rw [h.run, hf]

variable {n : Fin 32}

theorem State.Ready.hbmRequest {r : HbmReq} (hg : hbmReqGood n r = true) :
    exec (.hbmRequest n r) s = .next (s.withDev (d.upHb n (fun x => { x with waiting := x.waiting ++ [r] }))) :=
  h.run_quiet (if_pos hg) rfl

/-- The winner of a round takes the grant and admits a unit. -/
theorem State.Ready.arbGrant_won {slot : Fin 64} {w : HbmReq} {u d' : Dev} (hu : d.wr (ARB_STS.SLOT.on n) slot = u)
    (hl : u.bit (ARB_STS.LOCKED.on n) = false) (ho : u.open_ (pageARB n) = true) (hw : u.arbRound n slot = (some w, d')) :
    exec (.arbGrant n slot) s = .next (s.after ((d'.grantTo n w).admitNext s.env n)) := by
  refine h.run_after ?_
  subst hu
  simp only [hl, ho, hw, Bool.not_true, Bool.false_eq_true, if_false]

section
variable (hl : d.bit (ARB_STS.LOCKED.on n) = true)
include hl

/-- The lock ends, and the grant goes on for the units that are left. -/
theorem State.Ready.lockRelease : exec (.lockRelease n) s = .next (s.withDev (d.unlock n)) :=
  h.run_quiet (if_pos hl) (by simp)

/-- The watchdog ends the lock of a holder whose cycles have reached the limit. -/
theorem State.Ready.arbWdogExpire {r : HbmReq} {cycles : Nat} (hr : (d.hb n).holder = some r) (hc : (d.hb n).lockLimit ≤ cycles) :
    exec (.arbWdogExpire ⟨n, cycles⟩) s = .next (s.after (d.forceRelease s.now n r)) := by
  refine h.run_after ?_
  simp only [hr]
  rw [if_neg (by simp [hl, hc]), State.env_now]

end

theorem State.Ready.arbDrained (hd : d.arbDrained n = true) :
    exec (.arbDrained n) s = .next (s.withDev (d.event (ARB_EVT.DRAINED.on n))) := h.run_quiet (if_pos hd) (by simp)

theorem State.Ready.quotaWindowEnd : exec (.quotaWindowEnd n) s = .next (s.withDev ((((List.range 1024).filter isRequester).foldl
    (fun d r => d.wr ((ARB_REQ_STS.COUNT.on n).bk r) 0) d).latchIf (pageARB n) (fun k => k % 0x1000 == 0x050))) :=
  h.run_quiet rfl ((Dev.latchIf_posted _ _ _).trans (foldl_posted _ _ (fun d _ => d.wr_posted _ 0) d))

/-! A slot table wraps: `u` is the device at slot 0, what waited for SWAP latched. -/

section
variable {u : Dev} (hu : (d.wr (ARB_STS.SLOT.on n) 0).latchIf (pageARB n) (fun k => k % 0x1000 == 0x05C) = u)
include hu

theorem State.Ready.slotTableWrap_same (hs : u.bit (ARB_SLOT_CTL.SWAP.on n) = false) :
    exec (.slotTableWrap n) s = .next (s.withDev u) := by
  subst hu
  exact h.run_quiet (if_neg (by simp [hs])) (by simp)

theorem State.Ready.slotTableWrap_swaps (hs : u.bit (ARB_SLOT_CTL.SWAP.on n) = true) : exec (.slotTableWrap n) s = .next (s.withDev
    (((u.wr (ARB_STS.ACTIVE.on n) (1 - u.rd (ARB_STS.ACTIVE.on n))).wr (ARB_SLOT_CTL.SWAP.on n) 0).event (ARB_EVT.SWAPPED.on n))) := by
  subst hu
  exact h.run_quiet (if_pos hs) (by simp)

end

end

/-- Settles O29: each command by its own rule above, a wrap by whether SWAP is set at slot 0. -/
theorem arbiterCommands : Obligations.ArbiterCommands := by
  intro s d n h
  exact ⟨fun _ hg => h.hbmRequest hg,
    fun _ _ _ hl ho hw => h.arbGrant_won rfl hl ho hw,
    h.lockRelease,
    fun _ _ hl hr hc => h.arbWdogExpire hl hr hc,
    fun hf hg hq => h.arbDrained (Dev.arbDrained_iff.2 ⟨hf, hg, hq⟩),
    h.quotaWindowEnd,
    h.slotTableWrap_same rfl,
    h.slotTableWrap_swaps rfl⟩

end Sys2Proof.Machine
end

section
/-! Events of the HBM controllers (R289 to R293): read returns, command slots, refreshes, the stack's temperature and trims. -/

namespace Sys2Proof.Machine

section
variable {s : State} {d : Dev} (h : s.Ready d) {n : Fin 32}
include h

/-- The oldest access in flight on the pseudo-channel returns. -/
theorem State.Ready.hbmReadReturn {pc : Fin 2} {q : BankEntry} (r : HbmReturn)
    (hq : (d.hb n).inflight.find? (fun q => pcOf q.addr == pc.val) = some q) :
    exec (.hbmReadReturn n pc r) s = .next (s.after (d.readReturn s.now n pc q r)) := by
  refine h.run_after ?_
  simp only [hq, State.env_now]

theorem State.Ready.commandSlot_issues {pc : Fin 2} {q : BankEntry} {d' : Dev} (qpar : Bool) (ho : d.open_ (pageHMC n) = true)
    (hp : d.slotPick n pc = (some q, d')) : exec (.commandSlot n pc qpar) s = .next (s.after (d'.issueBurst n q qpar)) := by
  refine h.run_after ?_
  simp only [ho, hp, Bool.not_true, Bool.false_eq_true, if_false]

theorem State.Ready.refreshDue (pc : Fin 2) (bank : Fin 32) :
    exec (.refreshDue n pc bank) s = .next (s.withDev (d.refreshBank n (32 * pc.val + bank.val))) := h.run_quiet rfl (by simp)

theorem State.Ready.stackTempRead (temp : Fin 256) :
    exec (.stackTempRead n temp) s = .next (s.withDev (d.wr (HMC_STS.TEMP.on n) temp)) := h.run_quiet rfl (by simp)

theorem State.Ready.trimApply : exec (.trimApply n) s = .next (s.withDev (d.wr (HMC_STS.TRIM_PEND.on n) 1)) :=
  h.run_quiet rfl (by simp)

/-- The staged trims are copied to those in force, and TRIM_PEND ends. -/
theorem State.Ready.trimInForce (ht : d.bit (HMC_STS.TRIM_PEND.on n) = true) : exec (.trimInForce n) s = .next (s.withDev
    ((((List.range 6).foldl (fun d k => d.setWord (pageHMC n + 0x068 + 4 * k) (d.word (pageHMC n + 0x050 + 4 * k))) d).wr
      (HMC_STS.TRIM_PEND.on n) 0).event (HMC_EVT.TRIM_APPLIED.on n))) :=
  h.run_quiet (if_pos ht) (by simp [foldl_posted])

end

/-- Settles O30: each event by its own rule above. -/
theorem hbmControllerEvents : Obligations.HbmControllerEvents := by
  intro s d n h
  exact ⟨fun _ _ r hq => h.hbmReadReturn r hq,
    fun _ qpar _ _ ho hp => h.commandSlot_issues qpar ho hp,
    h.refreshDue,
    h.stackTempRead,
    h.trimApply,
    h.trimInForce⟩

end Sys2Proof.Machine
end

section
/-! What an Ethernet port receives (R317 to R319): frames by their length and their FCS, PAUSE and PFC by the port's flow-control mode. -/

namespace Sys2Proof.Machine

/-! The flow-control mode stands in a word that what is received and sent on the port leaves alone. -/

section
variable {d e : Dev} {g : Field} {p : Nat}

/-- A write on the port's page, narrow or wide, that lies in other words than `g`. -/
theorem Dev.Keeps.wr_on (h : d.Keeps (· = (g.on p).base) e) {f : Field} (v : Nat) (hb : f.base ≠ g.base) (hb' : f.base + 4 ≠ g.base) :
    d.Keeps (· = (g.on p).base) (e.wr (f.on p) v) :=
  h.wr_wide _ _ (Field.on_base_ne p hb) (by simp only [Field.on]; omega)

theorem Dev.Keeps.fcMode (h : d.Keeps (· = (ETH_FC.MODE.on p).base) e) : e.fcMode p = d.fcMode p := by
  have hrd : e.rd (ETH_FC.MODE.on p) = d.rd (ETH_FC.MODE.on p) := by rw [e.rd_narrow rfl, d.rd_narrow rfl, h.word _ rfl]
  unfold Dev.fcMode
  rw [hrd]

theorem Dev.Keeps.ctlIn (h : d.Keeps (· = (ETH_FC.MODE.on p).base) e) : d.Keeps (· = (ETH_FC.MODE.on p).base) (e.ctlIn p) :=
  (h.wr_on (f := ETH_CNT_RX_FRAMES.COUNT) _ (by decide) (by decide)).wr_on (f := ETH_CNT_RX_BYTES.COUNT) _ (by decide) (by decide)

end

@[simp] theorem Dev.ctlIn_fcMode (d : Dev) (p : Nat) : (d.ctlIn p).fcMode p = d.fcMode p := (Dev.Keeps.refl d).ctlIn.fcMode

/-! PAUSE and PFC frames count in their own mode, and as MAC control frames discarded in any other (R318). -/

section
variable {d : Dev} {p : Nat}

theorem Dev.pauseIn_pauses (q : Nat) (hm : d.fcMode p = 1) :
    d.pauseIn p q = (d.count (ETH_CNT_PAUSE_RX.COUNT.on p) 1).wr (ETH_STS.PAUSED.on p) (ofBool (q != 0)) := if_pos hm

theorem Dev.pauseIn_discards (q : Nat) (hm : d.fcMode p ≠ 1) : d.pauseIn p q = d.macDiscard p := if_neg hm

theorem Dev.pfcIn_discards (mask : Nat) (qs : List Nat) (hm : d.fcMode p ≠ 2) : d.pfcIn p mask qs = d.macDiscard p := if_neg hm

end

/-! A frame by its length with FCS (R317). -/

/-- The port's counters of frames and bytes received, with a frame of `n` bytes. -/
def Dev.rxCounted (d : Dev) (p n : Nat) : Dev := (d.count (ETH_CNT_RX_FRAMES.COUNT.on p) 1).count (ETH_CNT_RX_BYTES.COUNT.on p) n

section
variable {d : Dev} (now : Nat) {p : Nat} {bytes : List Byte}

theorem Dev.receive_runt (ok : Bool) (hl : bytes.length + 4 < 64) : d.receive now p bytes ok =
    ((d.rxCounted p (bytes.length + 4)).count (ETH_CNT_RX_RUNT.COUNT.on p) 1).countMal 1 := if_pos hl

section
variable (hl : 64 ≤ bytes.length + 4)
include hl

theorem Dev.receive_oversize (ok : Bool) (hm : (d.rxCounted p (bytes.length + 4)).maxFrame p < bytes.length + 4) :
    d.receive now p bytes ok = ((d.rxCounted p (bytes.length + 4)).count (ETH_CNT_RX_OVERSIZE.COUNT.on p) 1).countMal 3 :=
  (if_neg (Nat.not_lt.2 hl)).trans (if_pos hm)

/-- A good frame that is no MAC control frame is stamped and goes to the receive queue. -/
theorem Dev.receive_good (hm : bytes.length + 4 ≤ (d.rxCounted p (bytes.length + 4)).maxFrame p) (ht : beNat (slice bytes 12 2) ≠ 0x8808) :
    d.receive now p bytes true =
      let u := d.rxCounted p (bytes.length + 4)
      let r := u.stampAt now (u.rd (ETH_TS_LAT.RX.on p))
      r.2.toRxq p ⟨bytes, r.1, false⟩ := by
  have hctl : ¬ (true && beNat (slice bytes 12 2) == 0x8808) = true := by simp [ht]
  refine (if_neg (Nat.not_lt.2 hl)).trans ((if_neg (Nat.not_lt.2 hm)).trans ((if_neg hctl).trans ?_))
  simp only [if_true, Bool.not_true, Dev.rxCounted]

end

end

section
variable {s : State} {d : Dev} (h : s.Ready d) {p : Fin 8} (hr : d.portReceives p = true)
include h hr

theorem State.Ready.frameReceive (bytes : List Byte) (line : RxLine) : exec (.frameReceive p bytes line) s =
    .next (s.after ((d.countFec p line).receive s.now p bytes line.fcsOk)) := h.run_after (if_pos hr)

theorem State.Ready.pauseFrame (q : Fin 65536) : exec (.pauseFrame p q) s = .next (s.withDev ((d.ctlIn p).pauseIn p q)) :=
  h.run_quiet (if_pos hr) (by simp)

theorem State.Ready.pfcFrame (mask : Fin 256) (q : List (Fin 65536)) : exec (.pfcFrame p mask q) s =
    .next (s.withDev ((d.ctlIn p).pfcIn p mask (q.map (·.val)))) := h.run_quiet (if_pos hr) (by simp)

end

/-- Settles O31: a frame by its length and its type, a pause frame by the port's mode, which its arrival leaves alone. -/
theorem portsReceiveFrames : Obligations.PortsReceiveFrames := by
  intro s d p h hr
  refine ⟨fun bytes line hl => ?_, fun bytes line hl hm => ?_, fun bytes line hok hl hm ht => ?_, fun q hm => ?_, fun q hm => ?_,
    fun mask q _ => h.pfcFrame hr mask q, fun mask q hm => ?_⟩
  · rw [h.frameReceive hr, Dev.receive_runt s.now line.fcsOk hl]; rfl
  · rw [h.frameReceive hr, Dev.receive_oversize s.now hl line.fcsOk hm]; rfl
  · rw [h.frameReceive hr, hok, Dev.receive_good s.now hl hm ht]; rfl
  · rw [h.pauseFrame hr, Dev.pauseIn_pauses q (by rw [Dev.ctlIn_fcMode, hm])]
  · rw [h.pauseFrame hr, Dev.pauseIn_discards q (by rwa [Dev.ctlIn_fcMode])]; rfl
  · rw [h.pfcFrame hr, Dev.pfcIn_discards _ _ (by rwa [Dev.ctlIn_fcMode])]; rfl

end Sys2Proof.Machine
end

section
/-! Events of the Ethernet ports (R316, R318, R320, R343, R354): pauses that end, XOFF repeated, links, time stamps and PPS edges. -/

namespace Sys2Proof.Machine

/-! A flow-control frame sent, and taken back in loopback, leaves the port's flow-control mode. -/

section
variable {d e : Dev}

section
variable {p : Nat} (h : d.Keeps (· = (ETH_FC.MODE.on p).base) e)
include h

theorem Dev.Keeps.macDiscard : d.Keeps (· = (ETH_FC.MODE.on p).base) (e.macDiscard p) :=
  h.wr_on (f := ETH_CNT_MACCTL_DISC.COUNT) _ (by decide) (by decide)

theorem Dev.Keeps.pauseRx (f : Field) (v : Nat) (hf : f.base = ETH_STS.PAUSED.base) :
    d.Keeps (· = (ETH_FC.MODE.on p).base) ((e.count (ETH_CNT_PAUSE_RX.COUNT.on p) 1).wr (f.on p) v) :=
  Dev.Keeps.wr_on (h.wr_on (f := ETH_CNT_PAUSE_RX.COUNT) _ (by decide) (by decide)) v (by rw [hf]; decide) (by rw [hf]; decide)

theorem Dev.Keeps.pauseIn (q : Nat) : d.Keeps (· = (ETH_FC.MODE.on p).base) (e.pauseIn p q) := by
  unfold Dev.pauseIn
  split
  · exact h.pauseRx ETH_STS.PAUSED _ rfl
  · exact h.macDiscard

theorem Dev.Keeps.pfcIn (mask : Nat) (qs : List Nat) : d.Keeps (· = (ETH_FC.MODE.on p).base) (e.pfcIn p mask qs) := by
  unfold Dev.pfcIn
  split
  · exact h.pauseRx ETH_STS.PFC_PAUSED _ rfl
  · exact h.macDiscard

theorem Dev.Keeps.putPause (q prios : Nat) : d.Keeps (· = (ETH_FC.MODE.on p).base) (e.putPause p q prios) := by
  unfold Dev.putPause
  split
  · exact h.trans (.of_regs rfl rfl)
  split
  · exact h
  split
  · exact h.ctlIn.pauseIn q
  · exact h.ctlIn.pfcIn prios _

end

/-- ETH_FC lies neither in the switch's pages nor among the words that an event can touch. -/
theorem Dev.sendPause_keeps (d : Dev) (p : Fin 8) (q prios : Nat) : d.Keeps (· = (ETH_FC.MODE.on p).base) (d.sendPause p q prios) := by
  have hsent : d.Keeps (· = (ETH_FC.MODE.on p).base) ((((d.count (ETH_CNT_TX_FRAMES.COUNT.on p) 1).count (ETH_CNT_TX_BYTES.COUNT.on p)
      64).putPause p q prios).count (ETH_CNT_PAUSE_TX.COUNT.on p) 1) :=
    (((Dev.Keeps.refl d).wr_on (f := ETH_CNT_TX_FRAMES.COUNT) _ (by decide) (by decide)).wr_on (f := ETH_CNT_TX_BYTES.COUNT) _
      (by decide) (by decide)).putPause q prios |>.wr_on (f := ETH_CNT_PAUSE_TX.COUNT) _ (by decide) (by decide)
  have hxoff : (SWC_CNT_XOFF.COUNT.bk p).base ≠ (ETH_FC.MODE.on p).base := by
    simp only [Field.bk, Field.on, SWC_CNT_XOFF.COUNT, ETH_FC.MODE, win0Size]; omega
  have hevent : SWC_EVT.XOFF_SENT.base ≠ (ETH_FC.MODE.on p).base := by
    simp only [Field.on, SWC_EVT.XOFF_SENT, ETH_FC.MODE]; omega
  have hword : ¬ evtWord (ETH_FC.MODE.on p).base := by simp only [evtWord, Field.on, ETH_FC.MODE]; omega
  unfold Dev.sendPause
  split
  · exact .refl d
  dsimp only
  split
  · exact hsent
  · exact (hsent.count _ 1 rfl hxoff).event _ rfl hevent (fun k hk => hk ▸ hword)

end

section
variable {s : State} {d : Dev} (h : s.Ready d)
include h

section
variable {p : Fin 8}

theorem State.Ready.pauseExpire_port : exec (.pauseExpire p none) s = .next (s.withDev (d.wr (ETH_STS.PAUSED.on p) 0)) :=
  h.run_quiet rfl (by simp)

theorem State.Ready.pauseExpire_prio (k : Fin 8) : exec (.pauseExpire p (some k)) s = .next (s.withDev (d.wr (ETH_STS.PFC_PAUSED.on p)
    (bitsMask ((maskBits 8 (d.rd (ETH_STS.PFC_PAUSED.on p))).filter (· != k.val))))) := h.run_quiet rfl (by simp)

/-- In PAUSE mode XOFF goes out once more, and no PFC frame follows it: the mode is the same after it. -/
theorem State.Ready.pauseRefresh_pause (hp : d.pauseReady p = true) (hm : d.fcMode p = 1)
    (hx : d.bit (SWC_RXQ_STS.PAUSE_SENT.bk p) = true) :
    exec (.pauseRefresh p) s = .next (s.withDev (d.sendPause p (d.quanta p) 0)) := by
  have hm' : (d.sendPause p (d.quanta p) 0).fcMode p = 1 := (d.sendPause_keeps p _ _).fcMode.trans hm
  refine h.run_quiet ((if_neg (by simp [hp])).trans ?_) (by simp)
  simp [hm, hx, hm']

theorem State.Ready.linkUp (hl : d.linkUp p = false) (he : d.enabled (pageETH p) = true) : exec (.linkUp p) s = .next (s.withDev
    (((((((d.wr (ETH_STS.BLOCK_LOCK.on p) 1).wr (ETH_STS.FEC_ALIGN.on p) (1 - d.rd (ETH_CTL.SPEED.on p))).wr
      (ETH_STS.LOCAL_FAULT.on p) 0).wr (ETH_STS.REMOTE_FAULT.on p) 0).wr (ETH_STS.LINK.on p) 1).signalFault d p).event
      (ETH_EVT.LINK_UP.on p) |>.flowControl p)) := h.run_quiet (if_neg (by simp [hl, he])) (by simp)

/-- At 10 Gbit/s there is no alignment to lose; every other loss takes the port down. -/
theorem State.Ready.linkDown {why : LinkLoss} (hw : ¬ (why = .align ∧ d.rd (ETH_CTL.SPEED.on p) = 1)) :
    exec (.linkDown p why) s = .next (s.after (((d.seeLoss p why).signalFault d p).portDown p)) := h.run_after (if_neg hw)

theorem State.Ready.txtsPop :
    exec (.txtsPop p) s = .next (s.withDev ((d.upEth p (fun x => { x with txts := x.txts.drop 1 })).showTxts p)) :=
  h.run_quiet rfl (by simp)

end

theorem State.Ready.ppsInEdge (he : d.bit ETH_PPS_CFG.IN_EN = true) :
    exec .ppsInEdge s = .next (s.withDev ((d.wr ETH_PPS_IN_TS.TIME s.now).event ETH_EVT.PPS_IN)) :=
  h.run_quiet (if_pos he) (by simp)

theorem State.Ready.ppsOutEdge (he : d.bit ETH_PPS_CFG.OUT_EN = true) (ht : d.ppsTime s.now = true) : exec .ppsOutEdge s =
    .next (s.withDev ((d.send (.ppsOut true)).upNet
      (fun n => { n with ppsEnd := some (s.now + max 1 (d.rd ETH_PPS_CFG.WIDTH) * 1000000) }))) :=
  h.run_quiet (if_pos (by simp [he, ht])) rfl

end

/-- Settles O32: each event by its own rule above. -/
theorem portEvents : Obligations.PortEvents := by
  intro s d p h
  exact ⟨h.pauseExpire_port, h.pauseExpire_prio, h.pauseRefresh_pause, h.linkUp, fun _ => h.linkDown, h.txtsPop, h.ppsInEdge, h.ppsOutEdge⟩

end Sys2Proof.Machine
end

section
/-! Parsing (R323 to R327), classification (R328, R329), and the loading of parse programs (R326). -/

namespace Sys2Proof.Machine

section
variable {s : State} {d : Dev} (h : s.Ready d)
include h

/-- An engine in service takes the oldest frame of a port with room for one more that is parsed. -/
theorem State.Ready.parseFrame {engine : Fin 16} {p : Fin 8} (stPar : Bool) {f : RxFrame} {rest : List RxFrame}
    (hq : (d.eth p).rxq = f :: rest) (ho : d.open_ (pagePSE engine) = true) (hs : d.rd (PSE_STS.SERVICE.on engine) = 1)
    (hl : (d.eth p).parsed.length < 16) :
    exec (.parseFrame engine p stPar) s = .next (s.after (d.parse engine p f rest stPar)) := by
  refine h.run_after ?_
  simp only [hq]
  exact if_neg (by simp [ho, hs, hl])

/-- The oldest parsed frame takes its action, where the switch input is free and no bucket of its lookup has to wait. -/
theorem State.Ready.clsLookup {p : Fin 8} (par : Fin 4) {x : Parsed} {rest : List Parsed} (hq : (d.eth p).parsed = x :: rest)
    (ho : d.open_ (pageCLS 0) = true) (hi : (d.swIn p).packets = []) (hb : d.lookupHeld x = false) :
    exec (.clsLookup p par) s = .next (s.after (d.classify s.env p x rest par)) := by
  refine h.run_after ?_
  simp only [hq]
  exact if_neg (by simp [ho, hi, hb])

section
variable {e : Fin 16}

/-! LOAD and CHECK are taken by an idle engine only. -/

section
variable (hi : d.pseIdle e = true)
include hi

theorem State.Ready.pseLoad_idle : exec (.pseLoad e) s = .next (s.withDev (d.upPse e (fun x => { x with op := 1 }))) :=
  h.run_quiet (if_pos hi) rfl

theorem State.Ready.pseCheck_idle : exec (.pseCheck e) s = .next (s.withDev (d.upPse e (fun x => { x with op := 2 }))) :=
  h.run_quiet (if_pos hi) rfl

end

section
variable (hi : d.pseIdle e = false)
include hi

theorem State.Ready.pseLoad_busy : exec (.pseLoad e) s = .next (s.withDev (d.ignored (pagePSE e) 0x040)) :=
  h.run_quiet (if_neg (by simp [hi])) (by simp)

theorem State.Ready.pseCheck_busy : exec (.pseCheck e) s = .next (s.withDev (d.ignored (pagePSE e) 0x040)) :=
  h.run_quiet (if_neg (by simp [hi])) (by simp)

end

/-! Their ends; none comes in safe state. -/

section
variable (poison : Bool) (hf : d.safe = false)
include hf

theorem State.Ready.pseLoadDone_load (ho : (d.pse e).op = 1) :
    exec (.pseLoadDone e poison) s = .next (s.after (d.pseLoaded s.env e poison)) := by
  refine h.run_after ?_
  simp only [hf, ho, Bool.false_eq_true, if_false]

theorem State.Ready.pseLoadDone_check (ho : (d.pse e).op = 2) :
    exec (.pseLoadDone e poison) s = .next (s.after (d.pseChecked e)) := by
  refine h.run_after ?_
  simp only [hf, ho, Bool.false_eq_true, if_false]

end

end

end

/-- Settles O33: each command by its own rule above, the end of a load or a check by what the engine was at. -/
theorem framesAreParsedAndClassified : Obligations.FramesAreParsedAndClassified := by
  intro s d h
  exact ⟨fun _ _ stPar _ _ hq ho hs hl => h.parseFrame stPar hq ho hs hl,
    fun _ par _ _ hq ho hi hb => h.clsLookup par hq ho hi hb,
    fun _ hi => ⟨h.pseLoad_idle hi, h.pseCheck_idle hi⟩,
    fun _ hi => ⟨h.pseLoad_busy hi, h.pseCheck_busy hi⟩,
    fun _ poison => h.pseLoadDone_load poison,
    fun _ poison => h.pseLoadDone_check poison⟩

end Sys2Proof.Machine
end

section
/-! Commands of the classifier (R334) and its ager (R336). -/

namespace Sys2Proof.Machine

/-- The classifier's commands with their operation codes. -/
def clsCommands : List (Instr × Nat) :=
  [(.clsInsert, 1), (.clsDelete, 2), (.clsUpdate, 3), (.clsRead, 4), (.clsReadAt, 5), (.clsFlush, 6)]

/-- They differ in the code alone. -/
theorem exec_clsCommands (s : State) : ∀ c ∈ clsCommands, exec c.1 s = s.run fun _ d => d.clsCommand c.2 := by
  simp only [clsCommands, List.forall_mem_cons]
  exact ⟨rfl, rfl, rfl, rfl, rfl, rfl, by simp⟩

section
variable {s : State} {d : Dev} (h : s.Ready d)
include h

section
variable {c : Instr × Nat} (hc : c ∈ clsCommands)
include hc

theorem State.Ready.clsCommand_taken (hb : d.bit CLS_CMD_STS.BUSY = false) :
    exec c.1 s = .next (s.withDev ((d.upCls (fun x => { x with op := c.2 })).wr CLS_CMD_STS.BUSY 1)) :=
  (exec_clsCommands s c hc).trans (h.run_quiet (if_neg (by simp [hb])) (by simp))

theorem State.Ready.clsCommand_rejected (hb : d.bit CLS_CMD_STS.BUSY = true) :
    exec c.1 s = .next (s.withDev (d.wr CLS_CMD_STS.REJECT 1)) :=
  (exec_clsCommands s c hc).trans (h.run_quiet (if_pos hb) (by simp))

end

/-- The command in progress takes its effect, and its result is shown. -/
theorem State.Ready.clsCmdDone {r : Nat} {d' : Dev} (hb : d.bit CLS_CMD_STS.BUSY = true) (ho : d.open_ (pageCLS 0) = true)
    (hh : d.commandHeld = false) (he : d.clsEffect s.env d.net.cls.op = (r, d')) : exec .clsCmdDone s = .next (s.after
      ((((d'.upCls (fun c => { c with op := 0 })).wr CLS_CMD_STS.RESULT r).wr CLS_CMD_STS.BUSY 0).event CLS0_EVT.CMD_DONE)) := by
  refine h.run_after ((if_neg (by simp [hb, ho, hh])).trans ?_)
  simp only [he]

/-- The ager visits the four ways of the bucket whose turn it is. -/
theorem State.Ready.ageVisit {bucket : Fin 32768} (hd : d.ageDue s.now bucket = true) (ho : d.open_ (pageCLS 0) = true)
    (hb : d.bucketHeld bucket = false) : exec (.ageVisit bucket) s =
      .next (s.after ((List.range 4).foldl (fun d w => d.ageWay s.env bucket w) (d.ageOn s.now))) :=
  h.run_after (if_neg (by simp [hd, ho, hb]))

end

/-- Settles O34: a command by whether another is in progress, its completion and a visit by their own rules above. -/
theorem classifierCommands : Obligations.ClassifierCommands := by
  intro s d h
  exact ⟨fun _ hc => ⟨h.clsCommand_taken hc, h.clsCommand_rejected hc⟩,
    fun _ _ hb ho hh he => h.clsCmdDone hb ho hh he,
    fun _ hd ho hb => h.ageVisit hd ho hb⟩

end Sys2Proof.Machine
end

section
/-! The buffer pools (R362 to R370): the requests, the initialisation of a pool, and the minima of its groups. -/

namespace Sys2Proof.Machine

/-! Registers in banks. -/

theorem Field.bk_lsb (f : Field) (b : Nat) : (f.bk b).lsb = f.lsb := by
  obtain ⟨_, lsb, _, _⟩ := f
  exact Eq.refl lsb

theorem Field.bk_width (f : Field) (b : Nat) : (f.bk b).width = f.width := by
  obtain ⟨_, _, width, _⟩ := f
  exact Eq.refl width

theorem Field.bk_wide (f : Field) (b : Nat) : (f.bk b).wide = f.wide := by
  obtain ⟨_, _, _, wide⟩ := f
  exact Eq.refl wide

theorem Field.bk_fits (f : Field) (b : Nat) (h : f.lsb + f.width ≤ 32) : (f.bk b).lsb + (f.bk b).width ≤ 32 := by
  rwa [f.bk_lsb, f.bk_width]

theorem Field.bk_offset (f : Field) (b : Nat) : (f.bk b).base % 0x1000 = f.base % 0x1000 := by
  simp only [Field.bk, win0Size]
  omega

/-- Fields at different offsets of their pages lie in different words, whatever their banks. -/
theorem Field.bk_base_ne {f g : Field} (b c : Nat) (h : f.base % 0x1000 ≠ g.base % 0x1000) : (f.bk b).base ≠ (g.bk c).base := fun he =>
  h (by rw [← f.bk_offset b, ← g.bk_offset c, he])

theorem Field.base_ne_bk {f g : Field} (b : Nat) (h : f.base % 0x1000 ≠ g.base % 0x1000) : f.base ≠ (g.bk b).base := fun he =>
  h (by rw [← g.bk_offset b, he])

/-- The banks lie above the words that an event can touch. -/
theorem Field.bk_not_evtWord (f : Field) (b : Nat) : ¬ evtWord (f.bk b).base := by
  simp only [evtWord, Field.bk, win0Size]
  omega

theorem Dev.rd_of_word {d e : Dev} {f : Field} (hw : f.wide = false) (h : d.word f.base = e.word f.base) : d.rd f = e.rd f := by
  simp only [Dev.rd, hw, h, Bool.false_eq_true, if_false]

/-! Requests (R364, R367, R368, R370). -/

theorem Dev.requestBpm_open {d : Dev} (ho : d.bpmOpen = true) (r : BpmReq) : d.requestBpm r = d.serveBpm r := if_pos ho

theorem Dev.requestBpm_waits {d : Dev} (ho : d.bpmOpen = false) (r : BpmReq) : d.requestBpm r = { d with bpmWaits := d.bpmWaits ++ [r] } :=
  if_neg (by simp [ho])

section
variable {s : State} {d : Dev} (h : s.Ready d)
include h

section
variable (pool : Fin 4) (group : Fin 64)

theorem State.Ready.bpmAlloc (ho : d.bpmOpen = true) : exec (.bpmAlloc pool group) s =
    .next (s.after ((d.alloc pool group).2.2.send (.bpmResult (d.alloc pool group).1 (d.alloc pool group).2.1))) :=
  h.run_after (Dev.requestBpm_open ho _)

theorem State.Ready.bpmAllocReq (ho : (d.wr BPM_ALLOC_RES.DONE 0).bpmOpen = true) :
    let r := (d.wr BPM_ALLOC_RES.DONE 0).alloc pool group
    exec (.bpmAllocReq pool group) s = .next (s.after
      (((r.2.2.wr BPM_ALLOC_RES.STATUS r.1).wr BPM_ALLOC_RES.ADDR r.2.1).wr BPM_ALLOC_RES.DONE 1)) :=
  h.run_after (Dev.requestBpm_open ho _)

variable (req : Fin 1024) (addr : Fin 34359738368)

theorem State.Ready.bpmFree_served (ho : d.bpmOpen = true) :
    exec (.bpmFree req pool group addr) s = .next (s.after (d.free_ req pool group addr)) := h.run_after (Dev.requestBpm_open ho _)

theorem State.Ready.bpmFree_waits (ho : d.bpmOpen = false) : exec (.bpmFree req pool group addr) s =
    .next (s.withDev { d with bpmWaits := d.bpmWaits ++ [.free req pool group addr] }) := h.run_quiet (Dev.requestBpm_waits ho _) rfl

end

/-! INIT (R363). -/

section
variable (hi : d.bpmIdle = true)
include hi

theorem State.Ready.bpmPoolInit_starts (hc : d.poolCfgBad (d.rd BPM_POOL_SEL.POOL) = false) :
    let d' := d.wr (BPM_POOL_STS.CFG_ERR.bk (d.rd BPM_POOL_SEL.POOL)) 0
    exec .bpmPoolInit s = .next (s.withDev (d'.setPool (d.rd BPM_POOL_SEL.POOL)
      { d'.pool (d.rd BPM_POOL_SEL.POOL) with initialising := true })) := by
  refine h.run_quiet ?_ (by simp)
  rw [if_neg (by simp [hi]), if_neg (by simp [hc])]
  simp only [Dev.pool, Dev.wr_pools]

theorem State.Ready.bpmPoolInit_refused (hc : d.poolCfgBad (d.rd BPM_POOL_SEL.POOL) = true) :
    exec .bpmPoolInit s = .next (s.withDev (d.wr (BPM_POOL_STS.CFG_ERR.bk (d.rd BPM_POOL_SEL.POOL)) 1)) :=
  h.run_quiet ((if_neg (by simp [hi])).trans (if_pos hc)) (by simp)

end

theorem State.Ready.bpmInitDone {pool : Fin 4} (hp : (d.pool pool).initialising = true) : exec (.bpmInitDone pool) s = .next (s.withDev
    ((((d.setPool pool ((d.pool pool).fresh pool)).wr (BPM_POOL_STS.FREE.bk pool) ((d.pool pool).fresh pool).size).wr
      (BPM_POOL_STS.READY.bk pool) 1).event BPM_EVT.INIT_DONE)) :=
  h.run_quiet (if_pos hp) (by simp)

end

/-! The minimum of a group (R366). -/

section
variable {d : Dev} {p g min : Nat}

/-- A minimum that is no higher, or whose reservations FREE covers, is taken. -/
theorem Dev.setMin_taken (h : (d.wr (BPM_GRP_MIN.MIN.bk (grpBank p g)) min).rd (BPM_GRP_MIN.MIN.bk (grpBank p g)) ≤
      d.rd (BPM_GRP_MIN.MIN.bk (grpBank p g)) ∨
      (d.wr (BPM_GRP_MIN.MIN.bk (grpBank p g)) min).reservedFree p ≤ d.rd (BPM_POOL_STS.FREE.bk p)) :
    (d.setMin p g min).2 = d.wr (BPM_GRP_MIN.MIN.bk (grpBank p g)) min := by
  simp only [Dev.setMin]
  rw [if_pos h]

/-- A higher one whose reservations it does not cover is refused. -/
theorem Dev.setMin_refused
    (hm : d.rd (BPM_GRP_MIN.MIN.bk (grpBank p g)) < (d.wr (BPM_GRP_MIN.MIN.bk (grpBank p g)) min).rd (BPM_GRP_MIN.MIN.bk (grpBank p g)))
    (hf : d.rd (BPM_POOL_STS.FREE.bk p) < (d.wr (BPM_GRP_MIN.MIN.bk (grpBank p g)) min).reservedFree p) :
    (d.setMin p g min).2 = (d.wr (BPM_GRP_STS.REFUSED.bk (grpBank p g)) 1).event BPM_EVT.MIN_REFUSED := by
  simp only [Dev.setMin]
  rw [if_neg (not_or.2 ⟨Nat.not_le.2 hm, Nat.not_le.2 hf⟩)]

end

theorem Dev.rd_wr_min (d : Dev) (b min : Nat) : (d.wr (BPM_GRP_MIN.MIN.bk b) min).rd (BPM_GRP_MIN.MIN.bk b) =
    min % 2 ^ (BPM_GRP_MIN.MIN.bk b).width := d.rd_wr_self _ _ rfl (Field.bk_fits _ _ (by decide))

/-! What a refusal leaves: the minimum, and the two bits set. -/

section
variable (d : Dev) (b : Nat)

theorem Dev.refuseMin_min : ((d.wr (BPM_GRP_STS.REFUSED.bk b) 1).event BPM_EVT.MIN_REFUSED).rd (BPM_GRP_MIN.MIN.bk b) =
    d.rd (BPM_GRP_MIN.MIN.bk b) := by
  rw [Dev.event_rd _ _ _ rfl rfl (Field.base_ne_bk b (by decide)) (Field.bk_not_evtWord _ b),
    Dev.rd_wr_word _ _ _ _ rfl rfl (Field.bk_base_ne b b (by decide))]

theorem Dev.refuseMin_refused : ((d.wr (BPM_GRP_STS.REFUSED.bk b) 1).event BPM_EVT.MIN_REFUSED).bit (BPM_GRP_STS.REFUSED.bk b) = true := by
  rw [Dev.bit_of_word rfl (Dev.event_word _ _ _ rfl (Field.base_ne_bk b (by decide)) (Field.bk_not_evtWord _ b)),
    Dev.bit_wr_one _ _ rfl rfl (Field.bk_fits _ b (by decide))]

theorem Dev.refuseMin_event : ((d.wr (BPM_GRP_STS.REFUSED.bk b) 1).event BPM_EVT.MIN_REFUSED).bit BPM_EVT.MIN_REFUSED = true :=
  Dev.event_bit _ _ rfl rfl (by decide) (by unfold evtWord; decide)

end

section
variable {s : State} {d : Dev} (h : s.Ready d)
include h

theorem State.Ready.grpMinWrite_taken {min : Nat} :
    let p := d.rd BPM_POOL_SEL.POOL
    let b := grpBank p (d.rd BPM_GRP_SEL.GROUP)
    min ≤ d.rd (BPM_GRP_MIN.MIN.bk b) ∨ (d.wr (BPM_GRP_MIN.MIN.bk b) min).reservedFree p ≤ d.rd (BPM_POOL_STS.FREE.bk p) →
    exec (.grpMinWrite min) s = .next (s.withDev (d.wr (BPM_GRP_MIN.MIN.bk b) min)) := by
  intro p b hm
  refine h.run_quiet (Dev.setMin_taken (hm.imp_left (fun hle => ?_))) (by simp)
  exact (d.rd_wr_min b min).trans_le ((Nat.mod_le _ _).trans hle)

theorem State.Ready.grpMinWrite_refused {min : Nat} :
    let p := d.rd BPM_POOL_SEL.POOL
    let b := grpBank p (d.rd BPM_GRP_SEL.GROUP)
    min < 2 ^ (BPM_GRP_MIN.MIN.bk b).width → d.rd (BPM_GRP_MIN.MIN.bk b) < min →
    d.rd (BPM_POOL_STS.FREE.bk p) < (d.wr (BPM_GRP_MIN.MIN.bk b) min).reservedFree p →
    exec (.grpMinWrite min) s = .next (s.withDev ((d.wr (BPM_GRP_STS.REFUSED.bk b) 1).event BPM_EVT.MIN_REFUSED)) := by
  intro p b hw hm hf
  refine h.run_quiet (Dev.setMin_refused ?_ hf) (by simp)
  exact hm.trans_eq ((d.rd_wr_min b min).trans (Nat.mod_eq_of_lt hw)).symm

end

/-- Settles O35: each request, INIT by its checks and MIN no higher than it was, by their own rules above. -/
theorem bufferPools : Obligations.BufferPools := by
  intro s d h
  exact ⟨fun pool group ho => h.bpmAlloc pool group ho, fun pool group ho => h.bpmAllocReq pool group ho,
    fun req pool group addr ho => h.bpmFree_served pool group req addr ho,
    fun req pool group addr ho => h.bpmFree_waits pool group req addr ho,
    h.bpmPoolInit_starts, h.bpmPoolInit_refused, fun pool hp => h.bpmInitDone hp, fun min hm => h.grpMinWrite_taken (.inl hm)⟩

/-! The maximum of a group (R366). -/

theorem Dev.putFirst_pools (d : Dev) (pg : Pg) (i page k : Nat) (fs : List FieldAcc) (v : Word) :
    (d.putFirst pg i page k fs v).pools = d.pools := by
  obtain ⟨r, l, w, hf⟩ := d.putFirst_frame i page k fs v pg
  rw [hf]

/-- A write of MAX of the selected group, whose bits are all -L, touches its own word and PAGE_STS, and leaves the free stores. -/
theorem State.Ready.grpMaxWrite {s t : State} {d : Dev} (h : s.Ready d) {rq : Requester} {data : Nat}
    (ht : exec (.registerWrite rq 0x1C0070 false data) s = .next t) :
    t.dev.pools = d.pools ∧ ∀ k, k % 0x1000 ≠ 0x070 → k % 0x1000 ≠ 0x00C → t.dev.word k = d.word k := by
  obtain ⟨e, n, w, rfl, he, -⟩ := h.plainWrite (a := 0x1C0070) (pg := .BPM) (i := 0)
    (r := ⟨0x70, 1, 0, .single, .grp, none, 0x100000, [.rwL 20 0]⟩) rfl rfl (by decide) rfl rfl rq data rfl rfl
  cases he.symm.trans ht
  refine ⟨?_, fun k hk hs => Dev.putFields_word_ne d rfl _ _ _ _ _ _ (fun hc => hk ?_) (fun hc => hs ?_)⟩
  · exact (congrArg Dev.pools (Dev.putFields_no_idle d rfl _ _ _ _ _ _ rfl)).trans (d.putFirst_pools _ _ _ _ _ _)
  · subst hc
    unfold win0Size
    omega
  · subst hc
    decide

/-- Settles O36: a write of MIN by the two outcomes of `setMin`; one of MAX touches no word of POOL_STS or of GRP_STS. -/
theorem minimumsAreReservedOrRefused : Obligations.MinimumsAreReservedOrRefused := by
  intro s d h p b
  refine ⟨fun min hw => ⟨fun ⟨hm, hf⟩ => ⟨_, h.grpMinWrite_refused hw hm hf, ?_⟩, fun hm => ⟨_, h.grpMinWrite_taken hm, ?_⟩⟩,
    fun rq data t ht => ?_⟩
  · rw [State.withDev_dev]
    exact ⟨d.refuseMin_min b, d.refuseMin_refused b, d.refuseMin_event _, s.withDev_mem _⟩
  · rw [State.withDev_dev]
    exact ⟨(d.rd_wr_min b min).trans (Nat.mod_eq_of_lt hw), s.withDev_mem _, fun k hk => d.word_wr_narrow _ min rfl hk.symm⟩
  · obtain ⟨hpools, hword⟩ := h.grpMaxWrite ht
    have hrd : ∀ (f : Field) (k : Nat), f.wide = false → f.base % 0x1000 ≠ 0x070 → f.base % 0x1000 ≠ 0x00C →
        t.dev.rd (f.bk k) = d.rd (f.bk k) := fun f k hf hx hs =>
      Dev.rd_of_word ((f.bk_wide k).trans hf) (hword _ (by rwa [f.bk_offset]) (by rwa [f.bk_offset]))
    exact ⟨hpools, hrd BPM_POOL_STS.FREE p rfl (by decide) (by decide), fun k => hrd BPM_GRP_STS.USED k rfl (by decide) (by decide)⟩

end Sys2Proof.Machine
end

section
/-! The switch and its packets: a cell time (R352), packetising (R371), the retransmission window and its requests (R377, R378), walks,
egress and the token buckets (R380 to R384), and punted frames (R321). -/

namespace Sys2Proof.Machine

/-! A frame that asks for retransmission (R378). -/

/-- The RTCP packets of the frame, from OFS2 of its receive header to the end of its UDP datagram. -/
def SinkFrame.rtcp (f : SinkFrame) : List Byte :=
  slice f.pkt.bytes (leNat (slice f.pkt.hdr 20 2)) (beNat (slice f.pkt.bytes (leNat (slice f.pkt.hdr 18 2) + 4) 2) - 8)

/-- The responder takes the frame and gives its buffer back, `rest` still waiting. -/
def Dev.takeRtx (d : Dev) (f : SinkFrame) (rest : List SinkFrame) : Dev :=
  (d.upNet (fun n => { n with rtxq := rest })).requestBpm (.free 0x0B3 0 0 f.buf)

/-- It answers each sequence number that the frame asks its channel for. -/
def Dev.answerRtx (d : Dev) (now : Nat) (f : SinkFrame) : Dev :=
  (nackSeqs (d.rd (CHN_PKT_SSRC.SSRC.on f.pkt.arg)) f.rtcp.length f.rtcp).foldl (fun d q => d.answerNack now f.pkt.arg f.pkt.link q) d

section
variable {s : State} {d : Dev} (h : s.Ready d)
include h

theorem State.Ready.cellTime (err : TxErr) (ho : d.open_ pageSWC = true) :
    exec (.cellTime err) s = .next (s.after (d.moveCells s.now err)) := h.run_after (if_neg (by simp [ho]))

theorem State.Ready.packetise {c : Fin 256} (hc : d.isDecode c = false) (ho : d.bpmOpen = true) (hs : d.bit (CHN_SINK.EGRESS.on c) = true)
    (hf : (d.swIn (8 + d.rd (CHN_PKT_CFG.FEED.on c))).packets = []) : exec (.packetise c) s = .next (s.after
      (if d.rd (CHN_PKT_CFG.XPORT.on c) = 0 then d.packetRtp s.now c else d.packetTs s.now c)) :=
  h.run_after (if_neg (by simp [hc, ho, hs, hf]))

theorem State.Ready.rtxRequest {f : SinkFrame} {rest : List SinkFrame} (hq : d.net.rtxq = f :: rest)
    (hc : (d.takeRtx f rest).isDecode f.pkt.arg = false) :
    exec .rtxRequest s = .next (s.after ((d.takeRtx f rest).answerRtx s.now f)) := by
  refine h.run_after ?_
  simp only [hq]
  exact if_neg (ne_true_of_eq_false hc)

/-- The first packet whose walk is not over is walked. -/
theorem State.Ready.replWalk {p : Fin 8} {k : OutPkt} (ho : d.open_ (pageEGS p) = true)
    (hk : (d.swOut p).packets.find? (fun k => k.walk != some []) = some k) :
    exec (.replWalk p) s = .next (s.after (d.walkPkt p k)) := by
  refine h.run_after ((if_neg (by simp [ho])).trans ?_)
  simp only [hk]

/-- The descriptor that the scheduler chooses is sent. -/
theorem State.Ready.egressDequeue {p : Fin 8} (err : TxErr) {q : Nat} {k : TxDesc} {d' : Dev} (hm : d.macReady p = true)
    (hn : d.egsNext p ((d.egsPort p).todo.length + (d.egsPort p).served.length + 1) = (some (q, k), d')) :
    exec (.egressDequeue p err) s = .next (s.after (d'.sendDesc s.now p q k err)) := by
  refine h.run_after ((if_neg (by simp [hm])).trans ?_)
  simp only [hn, State.env_now]

/-- The bucket of every bound queue rises, up to its burst. -/
theorem State.Ready.tokenUpdate : exec .tokenUpdate s = .next (s.withDev ((d.net.queues.map (·.1)).foldl (fun d q =>
    if (d.egsQ q).port.isNone then d
    else d.upQ q (fun x => { x with
      tokens := min (d.burst q * 2 ^ 24) (x.tokens + d.rd (EGS_Q_SHAPER.RATE.bk q) * 8 * 2 ^ 24 / 1000000) })) d)) := by
  refine h.run_quiet rfl (foldl_posted _ _ (fun d q => ?_) d)
  split
  · rfl
  · exact d.upQ_posted q _

/-- Core 1 takes the oldest frame of the queue, gives its buffer back and sends the frames of its answer. -/
theorem State.Ready.puntedPacket {q : Fin 4} {f : SinkFrame} {rest : List SinkFrame} (frames : List (Fin 8 × List Byte × TxStamp))
    (hs : d.service 1 = true) (hq : d.punt q = f :: rest) : exec (.puntedPacket q { timeInc := none, frames := frames }) s = .next (s.after
      (frames.foldl (fun d x => d.toSwitch 11 (injected x.1 x.2.1 x.2.2)) ((d.setPunt q rest).requestBpm (.free 0x0D1 0 0 f.buf)))) := by
  refine h.run_after ?_
  simp only [hs, hq, if_true]
  rfl

end

/-- Settles O37: each command by its own rule above, and the window by what its effect is out of reset. -/
theorem packetsAreSwitchedAndSent : Obligations.PacketsAreSwitchedAndSent := by
  intro s d h
  exact ⟨fun err ho => h.cellTime err ho,
    fun c hc ho hs hf => h.packetise hc ho hs hf,
    fun c => h.run _,
    fun f rest hq hc => h.rtxRequest hq hc,
    fun p k ho hk => h.replWalk ho hk,
    fun p err q k d' hm hn => h.egressDequeue err hm hn,
    h.tokenUpdate,
    fun q frames f rest hs hq => h.puntedPacket frames hs hq⟩

end Sys2Proof.Machine
end

section
/-! What a reset leaves of the commands (R520), the one loss that stops the machine (R536), and the command that a step carries out. -/

namespace Sys2Proof.Machine

/-! Commands in a reset. -/

/-- The commands that a reset does not hold as it holds the rest: those of the pins, of the PCIe link and its configuration space, the end
of a device reset, and a lost reference. -/
def HeldApart : Instr → Prop
  | .porstAssert | .porstRelease _ | .perstAssert | .perstRelease | .extest _ | .deviceResetRelease | .flr | .pcieLinkUp _ _
  | .pcieConfigWrite _ | .refclkLoss _ => True
  | _ => False

/-- How many bytes a read of WIN0 returns. -/
def readWidth : Instr → Option Nat
  | .holeAccess false _ | .oversizeHostAccess false _ | .uartRxRead => some 4
  | .reg64LowRead r => some r.width
  | _ => none

theorem exec_read {c : Instr} {n : Nat} (hw : readWidth c = some n) : ∃ f, ∀ s, exec c s = s.runRead n f := by
  cases c
  case holeAccess w off | oversizeHostAccess w off =>
    cases w <;> cases hw
    exact ⟨_, fun _ => rfl⟩
  case reg64LowRead | uartRxRead => cases hw; exact ⟨_, fun _ => rfl⟩
  all_goals cases hw

/-- In a reset every other command leaves the machine as it is. -/
theorem exec_held {c : Instr} {s : State} (hr : s.dev.sec.rst ≠ 0) (hc : ¬ HeldApart c) (hw : readWidth c = none) : exec c s = .next s := by
  cases c
  case porstAssert | porstRelease | perstAssert | perstRelease | extest | deviceResetRelease | flr | pcieLinkUp | pcieConfigWrite
    | refclkLoss => exact absurd trivial hc
  case timeLoad | timeStep => exact if_pos hr
  case synthesiserRelock | deviceReset => exact if_pos (.inl hr)
  case reg64LowRead | uartRxRead => cases hw
  case holeAccess w off | oversizeHostAccess w off =>
    cases w
    · cases hw
    · exact s.run_off _ hr
  all_goals exact s.run_off _ hr

section
variable {s : State}

/-- In a device reset a read of WIN0 returns zeros. -/
theorem exec_read_zeros {c : Instr} {n : Nat} (hr : s.dev.sec.rst = 2) (hw : readWidth c = some n) :
    exec c s = .next (s.after (s.dev.send (.readData (natLE n 0) false))) := by
  obtain ⟨f, hf⟩ := exec_read hw
  rw [hf]
  exact if_pos hr

section
variable (hr : s.dev.sec.rst = 1)
include hr

theorem rst_ne_zero : s.dev.sec.rst ≠ 0 := by omega

theorem State.runRead_powerOn (n : Nat) (f : Env → Dev → Dev) : s.runRead n f = .next s :=
  (if_neg (by omega)).trans (s.run_off f (rst_ne_zero hr))

theorem State.runLink_powerOn (f : Env → Dev → Dev) : s.runLink f = .next s := congrArg Host.Outcome.next (if_pos hr)

theorem execRefclkLoss_powerOn (ref : RefClk) : execRefclkLoss ref s = .next s := by
  cases ref with
  | eth | pcie => exact s.run_off _ (rst_ne_zero hr)
  | sys | xtal => exact if_pos hr

end
end

/-- Settles O7: a command is held as every reset holds it, or, being of the link, a reference or a read, as PORST_N does. -/
theorem powerOnResetHoldsEverything : Obligations.PowerOnResetHoldsEverything := by
  intro c s hr hassert hrelease hperst hperst' hextest
  by_cases hc : HeldApart c
  · cases c
    case porstAssert => exact absurd rfl hassert
    case porstRelease g => exact absurd rfl (hrelease g)
    case perstAssert => exact absurd rfl hperst
    case perstRelease => exact absurd rfl hperst'
    case extest b => exact absurd rfl (hextest b)
    case deviceResetRelease => exact if_neg (by omega)
    case flr | pcieLinkUp | pcieConfigWrite => exact State.runLink_powerOn hr _
    case refclkLoss ref => exact execRefclkLoss_powerOn hr ref
    all_goals exact hc.elim
  · cases hw : readWidth c with
    | none => exact exec_held (rst_ne_zero hr) hc hw
    | some n =>
      obtain ⟨f, hf⟩ := exec_read hw
      exact (hf s).trans (State.runRead_powerOn hr n f)

theorem readWidth_eq_none {c : Instr} (hreg : ∀ r, c ≠ .reg64LowRead r) (hhole : ∀ off, c ≠ .holeAccess false off)
    (hover : ∀ off, c ≠ .oversizeHostAccess false off) (huart : c ≠ .uartRxRead) : readWidth c = none := by
  cases c
  case reg64LowRead r => exact absurd rfl (hreg r)
  case uartRxRead => exact absurd rfl huart
  case holeAccess w off =>
    cases w
    · exact absurd rfl (hhole off)
    · rfl
  case oversizeHostAccess w off =>
    cases w
    · exact absurd rfl (hover off)
    · rfl
  all_goals rfl

/-- Settles O8: a command is a read, which returns zeros, or it is held. -/
theorem deviceResetHoldsTheBlocks : Obligations.DeviceResetHoldsTheBlocks := by
  intro c s hr hassert hrelease hperst hperst' hextest hend hflr hup hcfg hloss
  have hc : ¬ HeldApart c := by
    intro hc
    cases c
    case porstAssert => exact hassert rfl
    case porstRelease g => exact hrelease g rfl
    case perstAssert => exact hperst rfl
    case perstRelease => exact hperst' rfl
    case extest b => exact hextest b rfl
    case deviceResetRelease => exact hend rfl
    case flr => exact hflr rfl
    case pcieLinkUp w v => exact hup w v rfl
    case pcieConfigWrite w => exact hcfg w rfl
    case refclkLoss r => exact hloss r rfl
    all_goals exact hc.elim
  refine ⟨?_, ?_, ?_⟩
  · rintro (⟨off, rfl | rfl⟩ | rfl) <;> exact exec_read_zeros (n := 4) hr (by rfl)
  · rintro r rfl
    exact exec_read_zeros (n := r.width) hr (by rfl)
  · rintro ⟨hreg, hbad, huart⟩
    exact exec_held (by omega) hc (readWidth_eq_none hreg (fun off => (hbad off).1) (fun off => (hbad off).2) huart)

/-! Commands that stop. -/

/-- A command that does not stop goes on to some state. -/
def GoesOn (o : Host.Outcome State Fault Refusal) : Prop := ∃ t, o = .next t

theorem Acts.goesOn {o : Host.Outcome State Fault Refusal} {s : State} (h : Acts o s) : GoesOn o := by
  obtain h | ⟨f, h⟩ := h <;> exact ⟨_, h⟩

theorem State.timeCmd_goesOn (s : State) (load : Bool) : GoesOn (s.timeCmd load) :=
  (s.timeCmd_cases load).elim Acts.goesOn fun h => ⟨_, h⟩

theorem execSynthesiserRelock_goesOn (dom : Fin 221) (s : State) : GoesOn (execSynthesiserRelock dom s) :=
  (execSynthesiserRelock_cases dom s).elim (fun h => ⟨_, h⟩) fun ⟨_, h⟩ => ⟨_, h⟩

theorem exec_deviceReset_goesOn (rq : Requester) (key : Fin 65536) (s : State) : GoesOn (exec (.deviceReset rq key) s) :=
  (exec_deviceReset_cases rq key s).elim (fun h => ⟨_, h⟩) fun ⟨_, h⟩ => ⟨_, h⟩

/-- Every command but the loss of the system reference or of the crystal goes on. -/
theorem exec_goesOn {c : Instr} (s : State) (hsys : c ≠ .refclkLoss .sys) (hxtal : c ≠ .refclkLoss .xtal) : GoesOn (exec c s) := by
  by_cases hc : Special c
  · cases c
    case timeLoad | timeStep => exact s.timeCmd_goesOn _
    case synthesiserRelock dom => exact execSynthesiserRelock_goesOn dom s
    case porstAssert => exact ⟨_, rfl⟩
    case deviceReset rq key => exact exec_deviceReset_goesOn rq key s
    case refclkLoss ref =>
      cases ref
      case sys => exact absurd rfl hsys
      case xtal => exact absurd rfl hxtal
      case eth | pcie => exact ⟨_, rfl⟩
    all_goals exact hc.elim
  · exact (exec_acts c s hc).goesOn

/-- Settles O5: the two losses by whether PORST_N is low, every other command goes on. -/
theorem onlyLostReferencesStop : Obligations.OnlyLostReferencesStop := by
  intro c s
  refine ⟨?_, ?_, exec_goesOn s⟩
  · rintro (rfl | rfl) hr <;> exact if_neg hr
  · rintro (rfl | rfl) hr <;> exact if_pos hr

/-- Settles O1: `step` hands the front command the state without it. -/
theorem stepRunsFrontCommand : Obligations.StepRunsFrontCommand := by
  intro s c r hc
  unfold step
  rw [hc]

end Sys2Proof.Machine
end

section
/-! Resets of the device and their release (R504, R520, R523, R527), and its clock domains (R512, R513, R521, R525, R536). -/

namespace Sys2Proof.Machine

/-! What a device reset keeps. -/

/-- A reset leaves one register word beside its reset value, CLK_RST_CAUSE. -/
theorem Dev.afterReset_regs (d : Dev) (rst : Nat) : (d.afterReset rst).regs = [(0xAD8084, 1)] := by
  simp only [Dev.afterReset, Dev.releasePins]
  split <;> split <;> rfl

theorem Dev.afterReset_word (d : Dev) (rst : Nat) {k : Nat} (h : k ≠ 0xAD8084) : (d.afterReset rst).word k = regReset k :=
  (Dev.word_congr (e := State.reset.dev) (d.afterReset_regs rst) k).trans (State.reset_word h)

theorem Dev.afterReset_rst (d : Dev) (rst : Nat) : (d.afterReset rst).sec.rst = rst := by
  simp only [Dev.afterReset, Dev.releasePins]
  split <;> split <;> rfl

section
variable (d : Dev) (cause : Nat)

/-- The reset's word of the straps and of the link status are put back over those of the reset. -/
theorem Dev.deviceReset_word (k : Nat) : (d.deviceReset cause).word k =
    if k = 0x710040 then d.word 0x710040 else if k = 0x58 then d.word 0x58 else ((d.afterReset 2).wr rstCause cause).word k := by
  simp only [Dev.deviceReset, Dev.word_setWord, eq_comm (b := k)]
  rfl

theorem Dev.deviceReset_straps : (d.deviceReset cause).word 0x58 = d.word 0x58 := by simp [Dev.deviceReset_word]

theorem Dev.deviceReset_linkStatus : (d.deviceReset cause).word 0x710040 = d.word 0x710040 := by simp [Dev.deviceReset_word]

theorem Dev.deviceReset_word_other {k : Nat} (hc : k ≠ 0xAD8084) (hs : k ≠ 0x58) (hl : k ≠ 0x710040) :
    (d.deviceReset cause).word k = regReset k := by
  rw [Dev.deviceReset_word, if_neg hl, if_neg hs, Dev.word_wr_narrow _ rstCause _ rfl hc.symm, Dev.afterReset_word _ _ hc]

/-- CLK_RST_CAUSE names the reset's cause. -/
theorem Dev.deviceReset_cause : (d.deviceReset cause).rd rstCause = cause % 8 := by
  have hw : (d.deviceReset cause).word rstCause.base = ((d.afterReset 2).wr rstCause cause).word rstCause.base :=
    (d.deviceReset_word cause _).trans (by simp [rstCause])
  rw [Dev.rd_of_word rfl hw]
  exact Dev.rd_wr_self _ rstCause cause rfl (by decide)

/-- A device reset ends the safe state. -/
theorem Dev.deviceReset_safe : (d.deviceReset cause).safe = false := by
  have hw : (d.deviceReset cause).word FLT_PEND.SAFE.base = State.reset.dev.word FLT_PEND.SAFE.base :=
    (d.deviceReset_word_other cause (by decide) (by decide) (by decide)).trans (State.reset_word (by decide)).symm
  have hreset : State.reset.dev.bit FLT_PEND.SAFE = false := by decide
  exact (Dev.bit_of_word rfl hw).trans hreset

theorem Dev.deviceReset_link : (d.deviceReset cause).dma.link = d.dma.link := rfl

theorem Dev.deviceReset_rst : (d.deviceReset cause).sec.rst = 2 := (congrArg Sec.rst ((d.afterReset 2).wr_sec rstCause cause)).trans (d.afterReset_rst 2)

end

/-! Resets and their release. -/

/-- The bit of CLK_RST_CAUSE of a reset that the requester may ask for; 0 where it may not. -/
def resetCause : Requester → Nat
  | .host => 2
  | .sec => 4
  | .herd _ => 0

section
variable {s : State}

theorem exec_deviceReset_taken {rq : Requester} (hr : s.dev.sec.rst = 0) (hq : resetCause rq ≠ 0) :
    exec (.deviceReset rq 0xD0E5) s = .next { s with time := 0, dev := s.dev.deviceReset (resetCause rq) } := by
  have hn : ¬ (s.dev.sec.rst ≠ 0 ∨ (0xD0E5 : Fin 65536).val ≠ 0xD0E5 ∨ resetCause rq = 0) := by simp [hr, hq]
  cases rq <;> exact if_neg hn

theorem exec_deviceReset_refused {rq : Requester} {key : Fin 65536}
    (h : key.val ≠ 0xD0E5 ∨ (∃ n, rq = .herd n) ∨ s.dev.sec.rst ≠ 0) : exec (.deviceReset rq key) s = .next s := by
  obtain hk | ⟨n, rfl⟩ | hr := h
  · exact if_pos (.inr (.inl hk))
  · exact if_pos (.inr (.inr rfl))
  · exact if_pos (.inl hr)

theorem exec_porstRelease (g : Fin 16) (hr : s.dev.sec.rst = 1) : exec (.porstRelease g) s = .next (s.after
    ((((s.dev.upSec (fun x => { x with rst := 0 })).wr ⟨0x58, 0, 4, false⟩ g).startClocks).bootRom s.env)) :=
  (if_pos (.inl hr)).trans (congrArg Host.Outcome.next (s.act_eq_after _))

theorem exec_deviceResetRelease (hr : s.dev.sec.rst = 2) : exec .deviceResetRelease s = .next (s.after
    (((s.dev.upSec (fun x => { x with rst := 0 })).startClocks).bootRom s.env)) :=
  (if_pos hr).trans (congrArg Host.Outcome.next (s.act_eq_after _))

theorem exec_extest (b : List Bool) : exec (.extest b) s =
    .next (s.after (((List.range 8).foldl Dev.portDown (s.dev.send (.balls b))).pcieDown)) :=
  congrArg Host.Outcome.next (s.act_eq_after _)

end

/-- Settles O55: the requester is the host or the security core, and the reset keeps what the lemmas above say. -/
theorem deviceResetKeepsLinkAndStraps : Obligations.DeviceResetKeepsLinkAndStraps := by
  intro s t d rq h ht hrq
  obtain ⟨rfl, hr, -⟩ := h
  have hq : resetCause rq ≠ 0 := by
    cases rq
    case herd n => exact absurd rfl (hrq n)
    all_goals decide
  have hcause : resetCause rq % 8 = if rq = .host then 2 else 4 := by
    cases rq
    case herd n => exact absurd rfl (hrq n)
    all_goals rfl
  cases (exec_deviceReset_taken hr hq).symm.trans ht
  exact ⟨fun k hc hs hl => s.dev.deviceReset_word_other _ hc hs hl, s.dev.deviceReset_straps _, s.dev.deviceReset_linkStatus _,
    (s.dev.deviceReset_cause _).trans hcause, rfl, s.dev.deviceReset_link _, s.dev.deviceReset_safe _, s.dev.deviceReset_rst _, rfl⟩

/-- Settles O54: the resets by whether they are taken, their release by the reset in force. -/
theorem resetsAndTheirRelease : Obligations.ResetsAndTheirRelease := fun _ =>
  ⟨rfl,
    exec_porstRelease,
    fun hr => ⟨exec_deviceReset_taken (rq := .host) hr (by decide), exec_deviceReset_taken (rq := .sec) hr (by decide)⟩,
    fun _ _ => exec_deviceReset_refused,
    exec_deviceResetRelease,
    exec_extest⟩

/-! Clock domains. -/

theorem Dev.setClkOpp_none (d : Dev) {dom : Nat} (v : Nat) (hn : clkNoVset dom = true) : d.setClkOpp dom v = d := if_pos hn

section
variable {s : State} {d : Dev} (h : s.Ready d)
include h

theorem State.Ready.clkOppWrite (dom : Fin 221) (v : Fin 64) : exec (.clkOppWrite dom v) s = .next (s.withDev (d.setClkOpp dom v)) :=
  h.run_quiet rfl (d.setClkOpp_posted dom v)

/-- A voltage step is reached outside the HMC domains, whose sweeps would be repeated. -/
theorem State.Ready.clkOppDone {dom : Fin 221} {v : Nat} (ht : (d.ck dom).target = some v) (hdom : dom.val < 160 ∨ 192 ≤ dom.val) :
    let d' := (d.wr (CLK_STS.VSET.on dom) v).wr (CLK_STS.CHANGING.on dom) 0
    exec (.clkOppDone dom) s = .next (s.withDev
      ((((d'.setCk dom { d'.ck dom with target := none }).event (CLK_EVT.OPP_DONE.on dom)).antResume dom).tryOpp dom)) := by
  refine h.run_quiet ?_ (by simp)
  simp only [ht]
  rw [if_neg (by omega)]

theorem State.Ready.synthesiserRelock {dom : Fin 221} (hs : hasSynth dom = true) : exec (.synthesiserRelock dom) s =
    .next (s.after (((d.wr (CLK_STS.LOCK.on dom) 1).tryOpp dom).clocksBack s.env)).timeBack := by
  obtain ⟨rfl, hr, -⟩ := h
  exact (if_neg (by simp [hr, hs])).trans (congrArg (fun t => Host.Outcome.next (State.timeBack t)) (s.act_eq_after _))

theorem State.Ready.pcieClockLoss_up (hp : d.dma.link.perst = false) :
    exec (.refclkLoss .pcie) s = .next (s.after ((d.lockLost s.now 212).lockLost s.now 213).pcieDown) :=
  h.run_after (if_neg (by simp [hp]))

/-- With PERST_N low the two domains have no lock to lose. -/
theorem State.Ready.pcieClockLoss_perst (hp : d.dma.link.perst = true) : exec (.refclkLoss .pcie) s = .next (s.after
    ((((d.wr (CLK_STS.LOCK.on 212) 0).abandonOpp 212).wr (CLK_STS.LOCK.on 213) 0).abandonOpp 213)) :=
  h.run_after (if_pos hp)

end

/-- Settles O53: each command by its own rule above. -/
theorem clockDomains : Obligations.ClockDomains := by
  intro s d h
  refine ⟨fun dom v hn => ?_, fun dom v hn => ?_, fun dom v ht hdom => h.clkOppDone ht hdom, fun dom _ _ => h.run_after rfl,
    fun dom hs => h.synthesiserRelock hs, h.run_after rfl, h.pcieClockLoss_up, h.pcieClockLoss_perst⟩
  · rw [h.clkOppWrite, Dev.setClkOpp, if_neg (by simp [hn])]
  · rw [h.clkOppWrite, Dev.setClkOpp_none _ _ hn, h.withDev_self]

end Sys2Proof.Machine
end

section
/-! Faults and watchdogs (R438 to R454): what FLT_ACK changes, and the commands of the collector and of the watchdogs. -/

namespace Sys2Proof.Machine

/-! FLT_ACK (R445). -/

/-- VALID of a class's capture. -/
def capValid (k : Nat) : Field := ⟨capKey k + 0x08, 31, 1, false⟩

/-- A class acknowledged, where its bit was written 1. -/
def Dev.ackClass (classes : Nat) (d : Dev) (k : Nat) : Dev := (d.wrIf (bitAt classes k) (pendField k) 0).wrIf (bitAt classes k) (capValid k) 0

/-- FLT_ACK written. -/
def Dev.ack (d : Dev) (classes : Nat) : Dev := (List.range 3).foldl (Dev.ackClass classes) d

theorem Dev.ackClass_eq (classes : Nat) (d : Dev) (k : Nat) : d.ackClass classes k =
    if bitAt classes k then (d.wr (pendField k) 0).wr (capValid k) 0 else d := by
  cases hb : bitAt classes k <;> simp [Dev.ackClass, Dev.wrIf, hb]

theorem Dev.ack_eq (d : Dev) (classes : Nat) : d.ack classes = (List.range 3).foldl (fun d k =>
    if bitAt classes k then (d.wr (pendField k) 0).wr (capValid k) 0 else d) d := by
  have hf : Dev.ackClass classes = fun d k => if bitAt classes k then (d.wr (pendField k) 0).wr (capValid k) 0 else d :=
    funext fun d => funext fun k => d.ackClass_eq classes k
  rw [Dev.ack, hf]

theorem capKey_ne {j k : Nat} (h : j ≠ k) : capKey j + 0x08 ≠ capKey k + 0x08 := by unfold capKey; omega

theorem capKey_ne_pend (j : Nat) : capKey j + 0x08 ≠ 0x810040 := by unfold capKey; omega

section
variable (classes : Nat) (d : Dev)

theorem Dev.wrIf_frame (b : Bool) (f : Field) (v : Nat) : ∃ r, d.wrIf b f v = { d with regs := r } := by
  cases b
  · exact ⟨d.regs, rfl⟩
  · exact d.wr_frame f v

theorem Dev.ackClass_frame (k : Nat) : ∃ r, d.ackClass classes k = { d with regs := r } := by
  obtain ⟨r, h⟩ := d.wrIf_frame (bitAt classes k) (pendField k) 0
  unfold Dev.ackClass
  rw [h]
  exact Dev.wrIf_frame _ _ _ _

/-- FLT_ACK touches register words only. -/
theorem Dev.ack_frame : ∃ r, d.ack classes = { d with regs := r } := by
  suffices h : ∀ (l : List Nat) (e : Dev), ∃ r, l.foldl (Dev.ackClass classes) e = { e with regs := r } from h _ d
  intro l
  induction l with
  | nil => exact fun e => ⟨e.regs, rfl⟩
  | cons k l ih =>
    intro e
    obtain ⟨r, h⟩ := e.ackClass_frame classes k
    rw [List.foldl_cons, h]
    exact ih _

theorem Dev.ackClass_word {k j : Nat} (hp : j ≠ 0x810040) (hc : j ≠ capKey k + 0x08) : (d.ackClass classes k).word j = d.word j := by
  unfold Dev.ackClass
  rw [Dev.word_wrIf_ne _ _ _ _ rfl hc.symm, Dev.word_wrIf_ne _ _ _ _ rfl hp.symm]

theorem Dev.bit_wrIf_zero (b : Bool) (f : Field) (hw : f.wide = false) (h : f.lsb + f.width ≤ 32) :
    (d.wrIf b f 0).bit f = (d.bit f && !b) := by
  cases b
  · simp [Dev.wrIf]
  · simpa [Dev.wrIf] using d.bit_wr_zero f hw h

/-- Another class's bit of FLT_PEND stays, and so does the safe state's. -/
theorem Dev.ackClass_bit_other {k : Nat} (f : Field) (hb : f.base = 0x810040) (hw : f.wide = false) (hk : k < 3)
    (hd : k + 1 ≤ f.lsb ∨ f.lsb + f.width ≤ k) : (d.ackClass classes k).bit f = d.bit f := by
  have hc : (capValid k).base ≠ f.base := fun he => capKey_ne_pend k (he.trans hb)
  unfold Dev.ackClass
  rw [Dev.bit_wrIf_word _ _ _ _ _ rfl hw hc, Dev.bit_wrIf_beside _ _ _ _ _ rfl hw hb.symm (by simp only [pendField]; omega) hd]

theorem Dev.ackClass_pend {k : Nat} (hk : k < 3) : (d.ackClass classes k).bit (pendField k) = (d.bit (pendField k) && !bitAt classes k) := by
  have hc : (capValid k).base ≠ (pendField k).base := capKey_ne_pend k
  unfold Dev.ackClass
  rw [Dev.bit_wrIf_word _ _ _ _ _ rfl rfl hc, Dev.bit_wrIf_zero _ _ _ rfl (by simp only [pendField]; omega)]

theorem Dev.ackClass_valid (k : Nat) : (d.ackClass classes k).bit (capValid k) = (d.bit (capValid k) && !bitAt classes k) := by
  have hc : (pendField k).base ≠ (capValid k).base := (capKey_ne_pend k).symm
  unfold Dev.ackClass
  rw [Dev.bit_wrIf_zero _ _ _ rfl (by simp [capValid]), Dev.bit_wrIf_word _ _ _ _ _ rfl rfl hc]

/-- A class that is not acknowledged keeps its capture's word. -/
theorem Dev.ackClass_kept {k : Nat} (h : bitAt classes k = false) : d.ackClass classes k = d := by simp [Dev.ackClass, Dev.wrIf, h]

end

section
variable (classes : Nat) (d : Dev) {k : Nat} (hk : k < 3)
include hk

/-- What class `k` alone does to a value of the device is what FLT_ACK does to it. -/
theorem Dev.ack_of_class {α : Type} (g : Dev → α) (hother : ∀ e j, j < 3 → j ≠ k → g (Dev.ackClass classes e j) = g e)
    (hsame : ∀ e e' : Dev, g e = g e' → g (e.ackClass classes k) = g (e'.ackClass classes k)) :
    g (d.ack classes) = g (d.ackClass classes k) := by
  change g (((d.ackClass classes 0).ackClass classes 1).ackClass classes 2) = _
  obtain rfl | rfl | rfl : k = 0 ∨ k = 1 ∨ k = 2 := by omega
  · rw [hother _ 2 (by omega) (by omega), hother _ 1 (by omega) (by omega)]
  · rw [hother _ 2 (by omega) (by omega)]
    exact hsame _ _ (hother _ 0 (by omega) (by omega))
  · exact hsame _ _ ((hother _ 1 (by omega) (by omega)).trans (hother _ 0 (by omega) (by omega)))

theorem Dev.ack_pend : (d.ack classes).bit (pendField k) = (d.bit (pendField k) && !bitAt classes k) := by
  rw [Dev.ack_of_class classes d hk (fun e => e.bit (pendField k))]
  · exact d.ackClass_pend classes hk
  · exact fun e j hj hne => e.ackClass_bit_other classes _ rfl rfl hj (by simp only [pendField]; omega)
  · exact fun e e' he => by simp only [Dev.ackClass_pend _ _ hk, he]

theorem Dev.ack_valid : (d.ack classes).bit (capValid k) = (d.bit (capValid k) && !bitAt classes k) := by
  rw [Dev.ack_of_class classes d hk (fun e => e.bit (capValid k))]
  · exact d.ackClass_valid classes k
  · exact fun e j _ hne => Dev.bit_of_word rfl (e.ackClass_word classes (capKey_ne_pend k) (capKey_ne (Ne.symm hne)))
  · exact fun e e' he => by simp only [Dev.ackClass_valid, he]

theorem Dev.ack_capture (hb : bitAt classes k = false) : (d.ack classes).word (capKey k + 0x08) = d.word (capKey k + 0x08) := by
  rw [Dev.ack_of_class classes d hk (fun e => e.word (capKey k + 0x08)), Dev.ackClass_kept _ _ hb]
  · exact fun e j _ hne => e.ackClass_word classes (capKey_ne_pend k) (capKey_ne (Ne.symm hne))
  · exact fun e e' he => by simpa only [Dev.ackClass_kept _ _ hb] using he

end

section
variable (d : Dev) (classes : Nat)

theorem Dev.ack_word {k : Nat} (hp : k ≠ 0x810040) (h0 : k ≠ capKey 0 + 0x08) (h1 : k ≠ capKey 1 + 0x08) (h2 : k ≠ capKey 2 + 0x08) :
    (d.ack classes).word k = d.word k :=
  calc (d.ack classes).word k = _ := Dev.ackClass_word classes _ hp h2
    _ = _ := Dev.ackClass_word classes _ hp h1
    _ = d.word k := Dev.ackClass_word classes _ hp h0

theorem Dev.ack_safe : (d.ack classes).safe = d.safe :=
  calc (d.ack classes).safe = _ := Dev.ackClass_bit_other classes _ FLT_PEND.SAFE rfl rfl (by decide) (by decide)
    _ = _ := Dev.ackClass_bit_other classes _ FLT_PEND.SAFE rfl rfl (by decide) (by decide)
    _ = d.safe := Dev.ackClass_bit_other classes _ FLT_PEND.SAFE rfl rfl (by decide) (by decide)

theorem Dev.ack_posted : (d.ack classes).posted = d.posted := by
  obtain ⟨r, h⟩ := d.ack_frame classes
  rw [h]

end

/-- A fault of a class that is not pending is captured as a first fault. -/
theorem Dev.collect_first {d : Dev} {k now src master acc addr : Nat} (hp : d.bit (pendField k) = false)
    (hm : (d.count (FLT_CNT.COUNT k) 1).merged src master addr = false) : d.collect now k src master acc addr =
      (let u := (d.count (FLT_CNT.COUNT k) 1).capture now k src master acc addr false
       if k = 2 then u.enterSafe else u) := by
  have hc : (FLT_CNT.COUNT k).base ≠ (pendField k).base := by simp only [FLT_CNT.COUNT, pendField]; omega
  have hp' : (d.count (FLT_CNT.COUNT k) 1).bit (pendField k) = false := (d.bit_wr_word _ _ _ rfl rfl hc).trans hp
  simp [Dev.collect, hm, hp']

section
variable {s : State} {d : Dev} (h : s.Ready d)
include h

theorem State.Ready.fltAck (classes : Fin 8) : exec (.fltAck classes) s = .next (s.withDev (d.ack classes)) :=
  h.run_quiet (d.ack_eq classes).symm (d.ack_posted classes)

/-! Faults and watchdogs. -/

theorem State.Ready.faultCollect {src : Fin 512} {inst : Nat} {master : Fin 1024} {acc : Fin 8} {addr k r : Nat}
    (hs : fltSource src = some (k, r)) :
    let d' := d.faultOf s.env src inst master addr
    exec (.faultCollect src inst master acc addr) s =
      .next (s.after (if d'.collects src then d'.collect s.now k src master acc addr else d')) := by
  refine h.run_after ?_
  simp only [hs]
  rfl

theorem State.Ready.fltInject {src : Fin 512} {k r : Nat} (hi : d.glbIdle = true) (hs : fltSource src = some (k, r))
    (hc : d.collects src = true) : exec (.fltInject src) s = .next (s.after (d.collect s.now k src 0x163 0 0)) := by
  refine h.run_after ?_
  simp only [hi, hs, hc, Bool.not_true, Bool.false_eq_true, if_false, if_true]
  rfl

theorem State.Ready.fltInject_busy (src : Fin 512) (hi : d.glbIdle = false) :
    exec (.fltInject src) s = .next (s.withDev (d.ignored (pageFLT 0) 0x058)) :=
  h.run_quiet (if_pos (by simp [hi])) (by simp)

section
variable {n : Fin 5}

theorem State.Ready.wdgStart (he : d.bit (WDG_CFG.EN n) = false) : exec (.wdgStart n) s = .next (s.withDev ((d.wr (WDG_CFG.EN n) 1).setWdt n
    { since := s.now, limit := max 1 ((d.wr (WDG_CFG.EN n) 1).rd (WDG_CFG.LIMIT n)), zero := false })) :=
  h.run_quiet (if_neg (by simp [he])) (by simp)

/-- The kick that the core a watchdog watches gives it with the key. -/
theorem State.Ready.wdgKick (he : d.bit (WDG_CFG.EN n) = true) : exec (.wdgKick (watched n) n 0x00A5) s = .next (s.withDev (d.setWdt n
    { since := s.now, limit := max 1 (d.rd (WDG_CFG.LIMIT n)), zero := false })) :=
  h.run_quiet (if_pos ⟨rfl, rfl, he⟩) (by simp)

theorem State.Ready.wdgExpire (he : d.bit (WDG_CFG.EN n) = true) (hz : (d.wdt n).zero = false) :
    let d' := ((d.setWdt n { d.wdt n with zero := true }).wr (WDG_STS.EXPIRED n) 1).event ⟨0x820010, n, 1, false⟩
    exec (.wdgExpire n) s = .next (s.withDev (if n.val < 4 then (d'.flag WDG_FLT.HERD_EXP).coreOff n else d'.flag WDG_FLT.SEC_EXP)) := by
  refine h.run_quiet (if_neg (by simp [he, hz])) ?_
  split <;> simp

end
end

/-- Settles O48: FLT_ACK class by class, and a collection of a class that is no longer pending. -/
theorem acknowledgedClassesTakeNewFaults : Obligations.AcknowledgedClassesTakeNewFaults := by
  intro s t d classes h ht
  cases (h.fltAck classes).symm.trans ht
  obtain ⟨r, hr⟩ := d.ack_frame classes
  have hpend : ∀ k < 3, bitAt classes k = true → (d.ack classes).bit (pendField k) = false :=
    fun k hk hb => by simp [Dev.ack_pend classes d hk, hb]
  refine ⟨fun k hk hb => ⟨hpend k hk hb, ?_⟩, fun k hk hb => ⟨?_, d.ack_capture classes hk hb⟩,
    fun k hp h0 h1 h2 => d.ack_word classes hp h0 h1 h2, d.ack_safe classes, ?_, fun k hk hb now src master acc addr hm => ?_⟩
  · exact (Dev.ack_valid classes d hk).trans (by simp [hb])
  · exact (Dev.ack_pend classes d hk).trans (by simp [hb])
  · simp [hr]
  · exact Dev.collect_first (hpend k hk hb) hm

/-- Settles O47: each command by its own rule above. -/
theorem faultsAndWatchdogs : Obligations.FaultsAndWatchdogs := by
  intro s d h
  exact ⟨fun _ _ _ _ _ _ _ hs => h.faultCollect hs,
    fun classes => (h.fltAck classes).trans (congrArg (fun u => Host.Outcome.next (s.withDev u)) (d.ack_eq classes)),
    fun _ _ _ hi hs hc => h.fltInject hi hs hc,
    fun src hi => h.fltInject_busy src hi,
    fun _ he => h.wdgStart he,
    fun _ he => h.wdgKick he,
    fun _ he hz => h.wdgExpire he hz⟩

end Sys2Proof.Machine
end

section
/-! Replication entries and egress queues (R381, R382), and DMA rings (R397 to R412). -/

namespace Sys2Proof.Machine

/-! Replication entries. -/

/-- The entry that the data registers spell. -/
def Dev.newRepl (d : Dev) : Repl := { bytes := d.replData.take 31, valid := true, queued := 0 }

/-- ADD of an entry that is free, for a queue that is bound and a channel that is no decode channel. -/
theorem Dev.replAdd_taken {d : Dev} {idx : Nat} (hv : (d.replAt idx).valid = false) (hq : (d.replAt idx).queued = 0)
    (hw : d.walking idx = false) (hon : d.queueOn d.newRepl.queue d.newRepl.port = true) (hc : d.isDecode d.newRepl.chn = false) :
    d.replAdd idx = (((d.upRepl idx (fun _ => d.newRepl)).setReplList d.newRepl.chn d.newRepl.port
      (d.replList d.newRepl.chn d.newRepl.port ++ [idx])).showLists d.newRepl.chn).replResult 0 :=
  calc d.replAdd idx = _ := if_neg (by simp [hv])
    _ = _ := if_neg (by simp [hq, hw])
    _ = _ := if_neg (ne_true_of_eq_false (congrArg not hon))
    _ = _ := if_neg (ne_true_of_eq_false hc)

/-- The entry with the data registers' bytes, but for its port and channel. -/
def Dev.updatedRepl (d : Dev) (idx : Nat) : Repl := { d.replAt idx with
  bytes := d.replData.take 28 ++ slice (d.replAt idx).bytes 28 1 ++ slice d.replData 29 1 ++ slice (d.replAt idx).bytes 30 1 }

theorem Dev.replUpdate_taken {d : Dev} {idx : Nat} (hv : (d.replAt idx).valid = true)
    (hon : d.queueOn (d.updatedRepl idx).queue (d.replAt idx).port = true) :
    d.replUpdate idx = (d.upRepl idx (fun _ => d.updatedRepl idx)).replResult 0 :=
  calc d.replUpdate idx = _ := if_neg (by simp [hv])
    _ = _ := if_neg (ne_true_of_eq_false (congrArg not hon))

section
variable {s : State} {d : Dev} (h : s.Ready d)
include h

theorem State.Ready.replAdd {idx : Fin 65536} (hv : (d.replAt idx).valid = false) (hq : (d.replAt idx).queued = 0)
    (hw : d.walking idx = false) (hon : d.queueOn d.newRepl.queue d.newRepl.port = true) (hc : d.isDecode d.newRepl.chn = false) :
    exec (.replAdd idx) s = .next (s.withDev ((((d.upRepl idx (fun _ => d.newRepl)).setReplList d.newRepl.chn d.newRepl.port
      (d.replList d.newRepl.chn d.newRepl.port ++ [idx.val])).showLists d.newRepl.chn).replResult 0)) :=
  h.run_quiet (Dev.replAdd_taken hv hq hw hon hc) (by simp)

theorem State.Ready.replRemove {idx : Fin 65536} (hv : (d.replAt idx).valid = true) :
    exec (.replRemove idx) s = .next (s.withDev ((d.unlink idx).replResult 0)) := h.run_quiet (if_pos hv) (by simp)

theorem State.Ready.replUpdate {idx : Fin 65536} (hv : (d.replAt idx).valid = true)
    (hon : d.queueOn (d.updatedRepl idx).queue (d.replAt idx).port = true) :
    exec (.replUpdate idx) s = .next (s.withDev ((d.upRepl idx (fun _ => d.updatedRepl idx)).replResult 0)) :=
  h.run_quiet (Dev.replUpdate_taken hv hon) (by simp)

/-! Queues. -/

section
variable {p : Fin 8} {q : Nat} (hs : d.rd (EGS_Q_SEL.QUEUE.on p) = q)
include hs

theorem State.Ready.queueBind (hp : (d.egsQ q).port = none) (hn : (d.boundQueues p).length < 1024) :
    let d' := (d.upQ q (fun _ => { EgsQ.reset with port := some p.val, tokens := d.burst q * 2 ^ 24 })).wr (EGS_Q_DEFICIT.BYTES.bk q) 0
    exec (.queueBind p) s = .next (s.withDev
      ((d'.wr (EGS_STS.BOUND.on p) (d'.boundQueues p).length).wr (EGS_Q_STS.RESULT.bk q) 1)) := by
  refine h.run_quiet ?_ (by simp)
  subst hs
  simp only [hp]
  exact if_neg (Nat.not_le.2 hn)

/-- A queue is unbound that holds no descriptor and that neither an entry nor the port names. -/
theorem State.Ready.queueUnbind (hon : d.queueOn q p = true) (hd : (d.egsQ q).descs = [])
    (hr : ∀ e ∈ d.net.repl, e.2.valid = true → e.2.queue ≠ q) (hf : d.rd (EGS_PORT_CFG.FWD_Q.on p) ≠ q)
    (hi : d.rd (EGS_PORT_CFG.INJ_Q.on p) ≠ q) :
    let d' := d.upQ q (fun _ => EgsQ.reset)
    exec (.queueUnbind p) s = .next (s.withDev
      ((d'.wr (EGS_STS.BOUND.on p) (d'.boundQueues p).length).wr (EGS_Q_STS.RESULT.bk q) 1)) := by
  have hn : d.net.repl.any (fun e => e.2.valid && e.2.queue == q) = false := by simpa using hr
  refine h.run_quiet ?_ (by simp)
  subst hs
  dsimp only
  rw [if_neg (by simp [hon]), if_neg (by simp [hd]), if_neg (by simp [hn, hf, hi])]

end
end

/-- Settles O38: each command by its own rule above. -/
theorem replicationAndQueueCommands : Obligations.ReplicationAndQueueCommands := by
  intro s d h
  exact ⟨fun _ hv hq hw hon hc => h.replAdd hv hq hw hon hc,
    fun _ hv => h.replRemove hv,
    fun idx => h.run_quiet rfl (d.replRead_posted idx),
    fun _ hv hon => h.replUpdate hv hon,
    fun _ hp hn => h.queueBind rfl hp hn,
    fun _ hon hd hr hf hi => h.queueUnbind rfl hon hd hr hf hi⟩

/-! DMA rings. -/

section
variable {s : State} {d : Dev} (h : s.Ready d) {c : Fin 256} {r : RingId}
include h

section
variable {count : Fin 4294967296} {u : Dev} (hu : d.wr (dmaField (dbField r) c) count = u)
include hu

/-- A doorbell wakes a ring that waits. -/
theorem State.Ready.doorbellWrite_wakes (hw : (u.ringEn c r && u.bit (dmaField (waitField r) c)) = true) :
    exec (.doorbellWrite c r count) s = .next (s.withDev ((u.wr (dmaField (waitField r) c) 0).issueFetch c r false)) := by
  subst hu
  exact h.run_quiet (if_pos hw) (by simp)

theorem State.Ready.doorbellWrite_stored (hw : (u.ringEn c r && u.bit (dmaField (waitField r) c)) = false) :
    exec (.doorbellWrite c r count) s = .next (s.withDev u) := by
  subst hu
  exact h.run_quiet (if_neg (ne_true_of_eq_false hw)) (by simp)

end

theorem State.Ready.ringDisable (he : d.ringEn c r = true) : exec (.ringDisable c r) s = .next (s.withDev (d.disableRing c r)) :=
  h.run_quiet (if_pos he) (by simp)

theorem State.Ready.abortDone (moved : List Byte) (ha : d.bit (dmaField (abortField r) c) = true) :
    exec (.abortDone c r moved) s = .next (s.after (d.endAbort s.env c r moved)) := h.run_after (if_neg (by simp [ha]))

/-! A descriptor's read returns, of a ring that is enabled and not aborting. -/

section
variable {data : List Byte} {seen : Nat} {again : Bool} (hf : (d.ring c r).fetching = some (seen, again)) (he : d.ringEn c r = true)
  (ha : d.bit (dmaField (abortField r) c) = false)
include hf he ha

theorem State.Ready.descFetch_owned (ho : (descOf data).own = true) : exec (.descFetch c r data) s =
    .next (s.withDev (d.upRing c r (fun y => { y with fetching := none, fetched := some (descOf data) }))) := by
  refine h.run_quiet ?_ (by simp)
  simp only [hf]
  rw [if_neg (by simp [he, ha]), if_pos ho]

/-- A descriptor not yet the device's is read once more where a doorbell has come since. -/
theorem State.Ready.descFetch_again (ho : (descOf data).own = false) (hg : again = false) (hd : d.rd (dmaField (dbField r) c) ≠ seen) :
    exec (.descFetch c r data) s = .next (s.withDev (d.issueFetch c r true)) := by
  refine h.run_quiet ?_ (by simp)
  simp only [hf]
  rw [if_neg (by simp [he, ha]), if_neg (by simp [ho]), if_pos (by simp [hg, hd])]

theorem State.Ready.descFetch_waits (ho : (descOf data).own = false) (hg : again = true ∨ d.rd (dmaField (dbField r) c) = seen) :
    exec (.descFetch c r data) s =
      .next (s.withDev ((d.upRing c r (fun x => { x with fetching := none })).wr (dmaField (waitField r) c) 1)) := by
  have hn : ¬ ((!again && d.rd (dmaField (dbField r) c) != seen) = true) := by obtain rfl | hs := hg <;> simp [*]
  refine h.run_quiet ?_ (by simp)
  simp only [hf]
  rw [if_neg (by simp [he, ha]), if_neg (by simp [ho]), if_neg hn]

end

/-- A free half of an engine takes the next descriptor that can start, other than a frame for the host. -/
theorem State.Ready.descStart {e : Fin 8} {k : Nat} {x : Desc} {st : Option Nat} (ho : d.open_ (pageDMA e) = true)
    (hf : d.halfActive e r = none) (hn : d.nextStart e r = some (k, x, st)) (hk : st = none → x.kind ≠ 7) :
    exec (.descStart e r) s = .next (s.after (d.startDesc s.now k r x st)) := by
  refine h.run_after ((if_neg (by simp [ho, hf])).trans ?_)
  simp only [hn]
  exact if_neg fun ⟨hst, hkind⟩ => hk (Option.isNone_iff_eq_none.1 hst) hkind

/-! A descriptor in progress ends. -/

section
variable {e : Fin 8} {k : Nat} (hk : d.halfActive e r = some k)
include hk

theorem State.Ready.descWriteback {x : DmaEnd} (ha : d.bit (dmaField (abortField r) k) = false) (ht : d.descTakes k r x = true) :
    exec (.descWriteback e r x) s = .next (s.after (d.finishDesc s.env k r x)) := by
  refine h.run_after ?_
  simp only [hk]
  exact if_neg (by simp [ha, ht])

theorem State.Ready.descWriteback_waits {x : DmaEnd} (ht : d.descTakes k r x = false) : exec (.descWriteback e r x) s = .next s := by
  refine (h.run_after ?_).trans (congrArg Host.Outcome.next h.after_self)
  simp only [hk]
  exact if_pos (by simp [ht])

/-- A read that nothing answers counts, and ends its descriptor with an error of the link. -/
theorem State.Ready.cplTimeout {moved : List Byte} {u : Dev}
    (hu : ((d.count PCI_CNT_CPL_TO.COUNT 1).event PCI_EVT.CPL_TO).send .aer = u) (ha : u.bit (dmaField (abortField r) k) = false) :
    exec (.cplTimeout e r moved) s = .next (s.after (u.finishDesc s.env k r (.pcieErr moved 0))) := by
  refine h.run_after ?_
  subst hu
  simp only [hk]
  exact if_neg (ne_true_of_eq_false ha)

end
end

/-- Settles O39: each command by its own rule above, by the outcome of each test. -/
theorem dmaRings : Obligations.DmaRings := by
  intro s d c r h
  exact ⟨fun count => ⟨fun hw => h.doorbellWrite_wakes rfl hw, fun hw => h.doorbellWrite_stored rfl hw⟩,
    fun _ => h.run_quiet rfl (d.enableRing_posted c r),
    fun he => h.ringDisable he,
    h.run_quiet rfl (d.wr_posted _ 1),
    fun moved ha => h.abortDone moved ha,
    fun _ _ _ hf he ha => ⟨fun ho => h.descFetch_owned hf he ha ho, fun ho hg hd => h.descFetch_again hf he ha ho hg hd,
      fun ho hg => h.descFetch_waits hf he ha ho hg⟩,
    fun _ _ _ _ ho hf hn hk => h.descStart ho hf hn hk,
    fun _ _ _ hk ha => ⟨fun ht => h.descWriteback hk ha ht, fun ht => h.descWriteback_waits hk ht⟩,
    fun _ _ _ hk ha => h.cplTimeout hk rfl ha⟩

end Sys2Proof.Machine
end

section
/-! The PCIe endpoint (R391 to R396, R410, R413, R523): the windows, the link and its resets, messages and errors. -/

namespace Sys2Proof.Machine

/-! The memories after a command that posted one write. -/

theorem State.after_mem (s : State) (d : Dev) : (s.after d).mem = s.mem.apply d.posted := rfl

theorem Mem.apply_hbmBytes (m : Mem) (a : Nat) (bs : List Byte) :
    m.apply [.bytes .hbm a bs] = { m with hbm := memOpTo .hbm m.hbm (.bytes .hbm a bs) } := by
  rw [Mem.apply_one]
  rfl

@[simp] theorem Dev.hbmWrites_posted (d : Dev) (a : Nat) (bs : List Byte) : (d.hbmWrites a bs).posted = d.posted ++ [.bytes .hbm a bs] :=
  congrArg (· ++ [MemOp.bytes .hbm a bs]) (d.hbmMoved_posted true a bs.length)

section
variable (m : Mem) {a : Nat} {bs : List Byte}

theorem Mem.hbmBytes_get {k : Nat} (hk : k < bs.length) :
    storeGet (memDefault .hbm) (m.apply [.bytes .hbm a bs]).hbm (a + k) = bs[k] := by
  rw [Mem.apply_hbmBytes, memOpTo_bytes_get, dif_pos (by omega)]
  simp only [Nat.add_sub_cancel_left]

theorem Mem.hbmBytes_get_other {x : Nat} (hx : x < a ∨ a + bs.length ≤ x) :
    storeGet (memDefault .hbm) (m.apply [.bytes .hbm a bs]).hbm x = storeGet (memDefault .hbm) m.hbm x := by
  rw [Mem.apply_hbmBytes, memOpTo_bytes_get, dif_neg (by omega)]

@[simp] theorem Mem.hbmBytes_sram : (m.apply [.bytes .hbm a bs]).sram = m.sram := by rw [Mem.apply_hbmBytes]
@[simp] theorem Mem.hbmBytes_nor : (m.apply [.bytes .hbm a bs]).nor = m.nor := by rw [Mem.apply_hbmBytes]

end

/-! WIN2. -/

section
variable {s : State} {d : Dev} (h : s.Ready d)
include h

section
variable {off : Fin 268435456} {a : Nat} (ha : d.rd PCI_WIN2_POS.POS * 2 ^ 28 + off = a) {u : Dev} (hu : d.wr PCI_LINK_STS.L1 0 = u)
include ha hu

theorem State.Ready.win2Write {bs : List Byte} (hroom : off.val + bs.length ≤ 268435456) (ht : u.hbmTakes 0x0C8 a bs.length = true) :
    exec (.win2Access off (.write bs false)) s = .next (s.after (u.hbmWrites a bs)) := by
  have hall : bs.take (268435456 - off.val) = bs := List.take_of_length_le (by omega)
  refine h.run_after ?_
  subst ha hu
  dsimp only
  rw [if_neg Bool.false_ne_true, hall, if_pos ht]

theorem State.Ready.win2Read {n : Nat} (hroom : off.val + n ≤ 268435456) (ht : u.hbmTakes 0x0C8 a n = true) :
    exec (.win2Access off (.read n)) s =
      .next (s.withDev ((u.hbmReads 0x0C8 a n).send (.readData (s.env.bytes .hbm a n) (u.poisoned a n)))) := by
  have hall : min n (268435456 - off.val) = n := Nat.min_eq_left (by omega)
  subst ha hu
  refine h.run_quiet ?_ (by simp)
  dsimp only
  rw [hall, if_pos ht]

end

theorem State.Ready.win2Poisoned (off : Fin 268435456) (bs : List Byte) :
    exec (.win2Access off (.write bs true)) s = .next (s.withDev ((d.wr PCI_LINK_STS.L1 0).poisonedWrite)) :=
  h.run_quiet (if_pos rfl) (by simp)

end

/-- Settles O40: what a write posts to HBM, and the rules above. -/
theorem win2ReachesHbm : Obligations.Win2ReachesHbm := by
  intro s d off h hwf
  refine ⟨fun bs hroom ht => ⟨_, h.win2Write rfl rfl hroom ht, ?_⟩, fun n hroom ht => h.win2Read rfl rfl hroom ht,
    fun bs => h.win2Poisoned off bs⟩
  rw [State.after_mem, Dev.hbmWrites_posted, Dev.wr_posted, h.posted, List.nil_append]
  exact ⟨fun k hk => s.mem.hbmBytes_get hk, fun x hx => s.mem.hbmBytes_get_other hx, s.mem.hbmBytes_sram,
    s.mem.hbmBytes_nor, Mem.apply_wf _ hwf, rfl⟩

/-! The link, its resets and configuration space. -/

section
variable {s : State} {d : Dev} (h : s.Ready d)
include h

/-- A command that only a power-on reset holds, whose effect posts no memory write. -/
theorem State.Ready.runLink_quiet {f : Env → Dev → Dev} {e : Dev} (hf : f s.env d = e) (hp : e.posted = d.posted) :
    s.runLink f = .next (s.withDev e) := by
  rw [h.runLink, hf, s.after_quiet (hp.trans h.posted)]

theorem State.Ready.act_after {f : Env → Dev → Dev} {e : Dev} (hf : f s.env d = e) : s.act f = s.after e := by
  rw [State.act_eq_after, h.dev, hf]

theorem State.Ready.perstAssert :
    exec .perstAssert s = .next (s.withDev (d.pciReset.configReset.pcieDown.upLink (fun l => { l with perst := true }))) :=
  congrArg Host.Outcome.next ((h.act_after rfl).trans (s.after_quiet (by simp [h.posted])))

theorem State.Ready.perstRelease : exec .perstRelease s = .next (s.after
    ((((d.upLink (fun l => { l with perst := false })).wr (CLK_STS.LOCK.on 212) 1).wr (CLK_STS.LOCK.on 213) 1).clocksBack s.env)) :=
  congrArg Host.Outcome.next (h.act_after (if_neg (by simp [h.rst, Dev.upLink])))

theorem State.Ready.pcieLinkUp {w : Fin 64} {v : Fin 16} (hp : d.dma.link.perst = false) (hw : 0 < w.val)
    (hx8 : w.val ≤ (if d.bit GLB_STRAP.PCIE_X8 then 8 else 16)) (hv : 0 < v.val) (hv5 : v.val ≤ 5) : exec (.pcieLinkUp w v) s =
      .next (s.withDev (((d.wr PCI_LINK_STS.WIDTH w).wr PCI_LINK_STS.SPEED v).wr PCI_LINK_STS.UP 1)) := by
  refine h.runLink_quiet (if_neg ?_) (by simp)
  simp only [hp, Bool.or_eq_true, beq_iff_eq, decide_eq_true_eq, Bool.false_eq_true, false_or, not_or, gt_iff_lt, not_lt]
  exact ⟨⟨⟨by omega, hx8⟩, by omega⟩, hv5⟩

theorem State.Ready.maxPayload {k : Fin 8} (hk : k.val ≤ 2) :
    exec (.pcieConfigWrite (.maxPayload k)) s = .next (s.withDev (d.upLink (fun l => { l with maxPayload := 128 * 2 ^ k.val }))) :=
  h.runLink_quiet (if_pos hk) (by simp)

theorem State.Ready.maxRead {k : Fin 8} (hk : k.val ≤ 5) :
    exec (.pcieConfigWrite (.maxRead k)) s = .next (s.withDev (d.upLink (fun l => { l with maxRead := 128 * 2 ^ k.val }))) :=
  h.runLink_quiet (if_pos hk) (by simp)

/-- The function's mask written: every vector that it frees sends what is pending. -/
theorem State.Ready.msixMask (on : Bool) : exec (.pcieConfigWrite (.msixMask on)) s = .next (s.withDev
    ((List.range 2048).foldl Dev.sendPending { d with pci := { d.pci with funcMask := on } })) :=
  h.runLink_quiet rfl (foldl_posted _ _ Dev.sendPending_posted _)

end

/-- Settles O41: each command by its own rule above. -/
theorem pcieLinkAndConfiguration : Obligations.PcieLinkAndConfiguration := by
  intro s d h
  exact ⟨h.perstAssert, h.perstRelease,
    h.runLink_quiet rfl (by simp),
    fun _ _ hp hw hx8 hv hv5 => h.pcieLinkUp hp hw hx8 hv hv5,
    fun _ hk => h.maxPayload hk,
    fun _ hk => h.maxRead hk,
    fun on => ⟨h.runLink_quiet rfl (by simp), h.runLink_quiet rfl (by simp), h.runLink_quiet rfl (by simp), h.msixMask on⟩⟩

/-! Messages, WIN4 and errors. -/

/-- The latencies of PCI_LTR are the halves of its word. -/
theorem Dev.sendLtr_setWord (d : Dev) {data : Nat} (hd : data < 2 ^ 32) :
    (d.setWord (pagePCI + 0x48) (BitVec.ofNat 32 data)).sendLtr =
      (d.setWord (pagePCI + 0x48) (BitVec.ofNat 32 data)).send (.ltr (data % 65536) (data / 65536)) := by
  have hw : (d.setWord (pagePCI + 0x48) (BitVec.ofNat 32 data)).word 0x710048 = BitVec.ofNat 32 data := Dev.word_setWord_self d _ _
  have hn : (BitVec.ofNat 32 data).toNat = data := by
    rw [BitVec.toNat_ofNat]
    exact Nat.mod_eq_of_lt hd
  have hsnoop : (d.setWord (pagePCI + 0x48) (BitVec.ofNat 32 data)).rd PCI_LTR.SNOOP = data % 65536 := by
    rw [Dev.rd_narrow _ rfl]
    simp only [PCI_LTR.SNOOP, hw, bitsOf, hn]
    omega
  have hnosnoop : (d.setWord (pagePCI + 0x48) (BitVec.ofNat 32 data)).rd PCI_LTR.NOSNOOP = data / 65536 := by
    rw [Dev.rd_narrow _ rfl]
    simp only [PCI_LTR.NOSNOOP, hw, bitsOf, hn]
    omega
  rw [Dev.sendLtr, hsnoop, hnosnoop]

/-- The bytes of a whole word among those of three. -/
theorem slice_firstWord (f : Nat → Nat) : slice ((List.range 3).flatMap (fun i => natLE 4 (f i))) 0 4 = natLE 4 (f 0) := rfl

theorem slice_all {bs : List Byte} {n : Nat} (h : bs.length = n) : slice bs 0 n = bs := by simp [slice, ← h]

@[simp] theorem Dev.win4Write_posted (d : Dev) (k v : Nat) : (d.win4Write k v).posted = d.posted := by
  unfold Dev.win4Write
  split <;> simp

section
variable {s : State} {d : Dev} (h : s.Ready d)
include h

theorem State.Ready.ltrWrite_waits (data : Fin 4294967296) (hc : d.pageClocked .PCI 0 = false) :
    exec (.ltrWrite data) s = .next (s.withDev (d.holdLive (pagePCI + 0x48) 0xFFFFFFFF (BitVec.ofNat 32 data) 0)) :=
  h.run_quiet ((if_neg (ne_true_of_eq_false hc)).trans (by rw [maskOf_word])) (by simp)

theorem State.Ready.ltrWrite_sends (data : Fin 4294967296) (hc : d.pageClocked .PCI 0 = true) :
    exec (.ltrWrite data) s = .next (s.withDev
      ((d.setWord (pagePCI + 0x48) (BitVec.ofNat 32 data)).send (.ltr (data % 65536) (data / 65536)))) :=
  h.run_quiet ((if_pos hc).trans (d.sendLtr_setWord data.isLt)) (by simp)

theorem State.Ready.l1IdleExpire (hu : d.bit PCI_LINK_STS.UP = true) (ha : d.dma.link.aspmL1 = true) (hi : d.rd PCI_L1_IDLE.US ≠ 0)
    (hl : d.bit PCI_LINK_STS.L1 = false) : exec .l1IdleExpire s = .next (s.withDev ((d.wr PCI_LINK_STS.L1 1).send .l1Request)) :=
  h.run_quiet (if_pos (by simp [hu, ha, hi, hl])) (by simp)

section
variable {off : Fin 65536}

theorem State.Ready.win4Access_beyond {op : WinOp} (hb : off.val + winSize op > 0x8100) : exec (.win4Access off op) s = .next (s.withDev
    ((((d.wr PCI_LINK_STS.L1 0).event PCI_EVT.UR_RX).send .unsupported).send .aer)) := h.run_quiet (if_pos hb) (by simp)

section
variable (ha : off.val % 4 = 0) (hb : off.val + 4 ≤ 0x8100)
include ha hb

theorem State.Ready.win4Read : exec (.win4Access off (.read 4)) s = .next (s.withDev
    ((d.wr PCI_LINK_STS.L1 0).send (.readData (natLE 4 ((d.wr PCI_LINK_STS.L1 0).win4Word (off / 4))) false))) := by
  refine h.run_quiet ((if_neg (Nat.not_lt.2 hb)).trans ?_) (by simp)
  dsimp only
  rw [ha, slice_firstWord (fun i => (d.wr PCI_LINK_STS.L1 0).win4Word (off.val / 4 + i)), Nat.add_zero]

theorem State.Ready.win4Write {bs : List Byte} (hl : bs.length = 4) : exec (.win4Access off (.write bs false)) s =
    .next (s.withDev ((d.wr PCI_LINK_STS.L1 0).win4Write (off / 4) (leNat bs))) := by
  have hsize : winSize (.write bs false) = 4 := hl
  have hone : bs.length / 4 = 1 := by omega
  have haligned : ¬ (off % 4 ≠ 0 ∨ bs.length % 4 ≠ 0) := not_or.2 ⟨not_not.2 (Fin.ext ha), by omega⟩
  refine h.run_quiet ((if_neg (by omega)).trans ?_) (by simp)
  dsimp only
  rw [if_neg Bool.false_ne_true, if_neg haligned, hone]
  change (d.wr PCI_LINK_STS.L1 0).win4Write (off.val / 4 + 0) (leNat (slice bs (4 * 0) 4)) = _
  rw [Nat.add_zero, Nat.mul_zero, slice_all hl]

end
end
end

/-- Settles O42: each command by its own rule above. -/
theorem pcieMessagesAndErrors : Obligations.PcieMessagesAndErrors := by
  intro s d h
  exact ⟨fun v => h.run_quiet rfl (by simp),
    fun data hc => h.ltrWrite_waits data hc,
    fun data hc => h.ltrWrite_sends data hc,
    h.l1IdleExpire,
    h.run_quiet rfl (by simp),
    h.run_quiet rfl (by simp),
    h.run_quiet rfl (by simp),
    fun _ _ hb => h.win4Access_beyond hb,
    fun _ ha hb => h.win4Read ha hb,
    fun _ _ ha hl hb => h.win4Write ha hb hl⟩

end Sys2Proof.Machine
end

section
/-! The Herd (R417 to R422, R424, R425, R429, R430): its cores, interrupt routes and external inputs, the host mailbox and the console. -/

namespace Sys2Proof.Machine

/-! Cores (R417 to R419). -/

theorem Dev.cmo_starts {d : Dev} {n : Fin 4} (hb : d.bit (HCC_CMO_STS.BUSY.on n) = false) (f : Dev → Dev) :
    d.cmo (.herd n) n f = (f d).wr (HCC_CMO_STS.BUSY.on n) 1 :=
  calc d.cmo (.herd n) n f = _ := if_neg (not_not.2 rfl)
    _ = _ := if_neg (ne_true_of_eq_false hb)

/-- OFFLINE stands in another word than the core's state. -/
theorem Dev.state_wr_offline (d : Dev) (n v : Nat) : (d.wr (HCC_CTL.OFFLINE.on n) v).rd (HCC_STS.STATE.on n) = d.rd (HCC_STS.STATE.on n) :=
  d.rd_wr_word _ _ v rfl rfl (Field.on_base_ne n (by decide))

theorem Dev.coreOff_running {d : Dev} {n : Nat} (hs : d.rd (HCC_STS.STATE.on n) = 0 ∨ d.rd (HCC_STS.STATE.on n) = 1) :
    d.coreOff n = ((d.wr (HCC_CTL.OFFLINE.on n) 1).wr (HCC_STS.STATE.on n) 2).strand n := by
  simp only [Dev.coreOff, Dev.state_wr_offline]
  rw [if_neg (by omega), if_neg (by omega)]

theorem Dev.coreOn_offline {d : Dev} {n : Nat} (hs : d.rd (HCC_STS.STATE.on n) = 2) :
    d.coreOn n = ((d.wr (HCC_CTL.OFFLINE.on n) 0).wr (HCC_STS.STATE.on n) 0).redeliver n := by
  simp only [Dev.coreOn, Dev.state_wr_offline]
  exact if_pos hs

section
variable {s : State} {d : Dev} (h : s.Ready d) {n : Fin 4}
include h

section
variable (hb : d.bit (HCC_CMO_STS.BUSY.on n) = false)
include hb

theorem State.Ready.cmoClean (dirty : List (Nat × List Byte)) :
    exec (.cmoClean (.herd n) n dirty) s = .next (s.after ((d.cleanLines n dirty).wr (HCC_CMO_STS.BUSY.on n) 1)) :=
  h.run_after (Dev.cmo_starts hb _)

theorem State.Ready.cmoCleanInval (dirty : List (Nat × List Byte)) :
    exec (.cmoCleanInval (.herd n) n dirty) s = .next (s.after ((d.cleanLines n dirty).wr (HCC_CMO_STS.BUSY.on n) 1)) :=
  h.run_after (Dev.cmo_starts hb _)

theorem State.Ready.cmoInval : exec (.cmoInval (.herd n) n) s = .next (s.withDev (d.wr (HCC_CMO_STS.BUSY.on n) 1)) :=
  h.run_quiet (Dev.cmo_starts hb id) (by simp)

theorem State.Ready.cmoInvalI : exec (.cmoInvalI (.herd n) n) s = .next (s.withDev (d.wr (HCC_CMO_STS.BUSY.on n) 1)) :=
  h.run_quiet (Dev.cmo_starts hb id) (by simp)

end

theorem State.Ready.cmoDone (hb : d.bit (HCC_CMO_STS.BUSY.on n) = true) :
    exec (.cmoDone n) s = .next (s.withDev ((d.wr (HCC_CMO_STS.BUSY.on n) 0).raisePriv n 9)) := h.run_quiet (if_pos hb) (by simp)

theorem State.Ready.coreSleep (hs : d.rd (HCC_STS.STATE.on n) = 0) (hl : d.lineActive n = false) :
    exec (.coreSleep n) s = .next (s.withDev (d.wr (HCC_STS.STATE.on n) 1)) := h.run_quiet (if_pos ⟨hs, by simp [hl]⟩) (by simp)

theorem State.Ready.coreOffline (hs : d.rd (HCC_STS.STATE.on n) = 0 ∨ d.rd (HCC_STS.STATE.on n) = 1) : exec (.coreOffline n) s =
    .next (s.withDev (((d.wr (HCC_CTL.OFFLINE.on n) 1).wr (HCC_STS.STATE.on n) 2).strand n)) :=
  h.run_quiet (Dev.coreOff_running hs) (by simp)

theorem State.Ready.coreOnline (hs : d.rd (HCC_STS.STATE.on n) = 2) : exec (.coreOnline n) s =
    .next (s.withDev (((d.wr (HCC_CTL.OFFLINE.on n) 0).wr (HCC_STS.STATE.on n) 0).redeliver n)) :=
  h.run_quiet (Dev.coreOn_offline hs) (by simp)

theorem State.Ready.hccTimerFire (ht : n.val ∈ d.herd.timers) (hc : d.rd (HCC_TIMER.COMPARE.on n) ≤ s.now) : exec (.hccTimerFire n) s =
    .next (s.withDev ((d.upHerd (fun h => { h with timers := h.timers.filter (· != n.val) })).raisePriv n 8)) :=
  h.run_quiet (if_pos (by simp [ht, hc])) (by simp)

section
variable (hd : d.debugFull = true)
include hd

theorem State.Ready.debugHalt (hs : d.rd (HCC_STS.STATE.on n) ≠ 3) : exec (.debugHalt n) s = .next (s.withDev
    (((d.wr (HCC_STS.STATE.on n) 3).upHerd (fun h => { h with
      halted := storeSet (fun _ => 0) h.halted n (d.rd (HCC_STS.STATE.on n)) })).strand n)) :=
  h.run_quiet (if_neg (by simp [hd, hs])) (by simp)

/-- A halted core that was not offline runs again. -/
theorem State.Ready.debugResume (hs : d.rd (HCC_STS.STATE.on n) = 3) (ho : storeGet (fun _ => 0) d.herd.halted n ≠ 2) :
    exec (.debugResume n) s = .next (s.withDev
      (((d.upHerd (fun h => { h with halted := storeSet (fun _ => 0) h.halted n 0 })).wr (HCC_STS.STATE.on n) 0).redeliver n)) :=
  h.run_quiet ((if_neg (by simp [hd, hs])).trans (if_neg (by simpa using ho))) (by simp)

end
end

/-- Settles O43: each command by its own rule above. -/
theorem herdCores : Obligations.HerdCores := by
  intro s d n h
  exact ⟨fun hb => ⟨fun dirty => ⟨h.cmoClean hb dirty, h.cmoCleanInval hb dirty⟩, h.cmoInval hb, h.cmoInvalI hb⟩,
    h.cmoDone, h.coreSleep, h.coreOffline, h.coreOnline,
    fun _ => h.run_quiet rfl (Dev.ringBell_posted _ _ _),
    h.hccTimerFire, h.debugHalt, h.debugResume⟩

/-! Routes and external inputs (R424, R425, R429). -/

section
variable {s : State} {d : Dev} (h : s.Ready d)
include h

/-- A source that is active is delivered along its new route. -/
theorem State.Ready.intRouteWrite (kind : Fin 8) (vector : Fin 2048) (he : sourceExists (d.rd INT_SRC_SEL.SRC) = true) :
    let src := d.rd INT_SRC_SEL.SRC
    let d' := (d.wr (INT_ROUTE.KIND.bk src) kind).wr (INT_ROUTE.VECTOR.bk src) vector
    exec (.intRouteWrite kind vector) s = .next (s.withDev (if d'.sourceActive src then d'.deliver src else d')) := by
  refine h.run_quiet (if_neg (by simp [he])) ?_
  split <;> simp

theorem State.Ready.extFilterSettle {i : Fin 16} (hc : i.val ∈ d.herd.counting) : exec (.extFilterSettle i) s = .next (s.withDev
    (((d.upHerd (fun h => { h with counting := h.counting.filter (· != i.val) })).wr (filteredBit i) (ofBool (d.extLine i))).extEdge i
      (d.extLine i))) :=
  h.run_quiet (if_neg (by simp [hc])) (by simp)

end

/-- Settles O44: each command by its own rule above. -/
theorem interruptRoutesAndInputs : Obligations.InterruptRoutesAndInputs := by
  intro s d h
  exact ⟨fun kind vector he => h.intRouteWrite kind vector he,
    fun _ _ => h.run_quiet rfl (by simp),
    fun _ hc => h.extFilterSettle hc⟩

/-! The host mailbox (R420 to R422). -/

/-- The commands of the host mailbox with their operation codes. -/
def mbxCommands (seq : Fin 65536) : List (Instr × Nat) :=
  [(.mbxClsInsert seq, 1), (.mbxClsDelete seq, 2), (.mbxClsRead seq, 3), (.mbxMcastJoin seq, 4), (.mbxMcastLeave seq, 5),
    (.mbxPortAddr seq, 6), (.mbxRepl seq, 7), (.mbxVersion seq, 8)]

/-- They differ in the code alone. -/
theorem exec_mbxCommands (s : State) (seq : Fin 65536) : ∀ c ∈ mbxCommands seq, exec c.1 s = s.run fun _ d => d.hostMailbox c.2 seq := by
  simp only [mbxCommands, List.forall_mem_cons]
  exact ⟨rfl, rfl, rfl, rfl, rfl, rfl, rfl, rfl, by simp⟩

section
variable {s : State} {d : Dev} (h : s.Ready d)
include h

section
variable {seq : Fin 65536} {c : Instr × Nat} (hc : c ∈ mbxCommands seq)
include hc

theorem State.Ready.mbxCommand_taken (hb : d.bit HCC_MBX_STS.BUSY = false) : exec c.1 s = .next (s.withDev
    (((d.wr HCC_MBX_STS.BUSY 1).upHerd (fun h => { h with mbxOp := some (c.2, seq.val) })).raisePriv (d.rd HCC_MBX_CFG.CORE) 6)) :=
  (exec_mbxCommands s seq c hc).trans (h.run_quiet (if_neg (ne_true_of_eq_false hb)) (by simp))

theorem State.Ready.mbxCommand_rejected (hb : d.bit HCC_MBX_STS.BUSY = true) :
    exec c.1 s = .next (s.withDev (d.wr HCC_MBX_STS.REJECT 1)) :=
  (exec_mbxCommands s seq c hc).trans (h.run_quiet (if_pos hb) (by simp))

end

/-- Firmware serves the command in progress, and its answer is shown. -/
theorem State.Ready.mbxDone {op seq r : Nat} {d' : Dev} (ho : d.herd.mbxOp = some (op, seq)) (hs : d.service d.mbxCore = true)
    (hw : d.mbxWaits op = false) (hr : d.mbxServe s.env op = (r, d')) : exec .mbxDone s = .next (s.after
      (((((d'.wr HCC_MBX_STS.RESULT r).wr HCC_MBX_STS.SEQ seq).wr HCC_MBX_STS.BUSY 0).upHerd
        (fun h => { h with mbxOp := none })).event HCCC_EVT.MBX_DONE)) := by
  refine h.run_after ?_
  simp only [ho]
  rw [if_neg (by simp [hs, hw])]
  simp only [hr]

theorem State.Ready.ntfPost {rq : Requester} (hq : rq ≠ .host) :
    exec (.ntfPost rq) s = .next (s.withDev ((d.wr HCC_NTF_STS.VALID 1).event HCCC_EVT.NTF_AVAIL)) := h.run_quiet (if_neg hq) (by simp)

theorem State.Ready.ntfAck (hv : d.bit HCC_NTF_STS.VALID = true) :
    exec .ntfAck s = .next (s.withDev ((d.wr HCC_NTF_STS.VALID 0).raisePriv (d.rd HCC_MBX_CFG.CORE) 7)) := h.run_quiet (if_pos hv) (by simp)

end

/-- Settles O45: a command by whether another is in progress, the answer and the notification slot by their own rules above. -/
theorem hostMailbox : Obligations.HostMailbox := by
  intro s d h
  exact ⟨fun _ _ hc => ⟨h.mbxCommand_taken hc, h.mbxCommand_rejected hc⟩,
    fun _ _ _ _ ho hs hw hr => h.mbxDone ho hs hw hr,
    fun _ hq => h.ntfPost hq,
    h.ntfAck⟩

/-! The console UART (R430). -/

section
variable {s : State} {d : Dev} (h : s.Ready d)
include h

/-- A read whose effect posts no memory write. -/
theorem State.Ready.runRead_quiet {n : Nat} {f : Env → Dev → Dev} {e : Dev} (hf : f s.env d = e) (hp : e.posted = d.posted) :
    s.runRead n f = .next (s.withDev e) := by
  rw [h.runRead, hf, s.after_quiet (hp.trans h.posted)]

theorem State.Ready.uartTxWrite (n : Fin 4) (b : Fin 256) (hl : d.herd.txFifo.length < 16) : exec (.uartTxWrite (.herd n) b) s =
    .next (s.withDev (d.upHerd (fun h => { h with txFifo := h.txFifo ++ [BitVec.ofNat 8 b] }))) :=
  h.run_quiet (if_neg (Nat.not_le.2 hl)) (by simp)

theorem State.Ready.uartTxWrite_full (n : Fin 4) (b : Fin 256) (hl : 16 ≤ d.herd.txFifo.length) :
    exec (.uartTxWrite (.herd n) b) s = .next (s.withDev (d.wr HCC_UART_STS.TX_OVF 1)) := h.run_quiet (if_pos hl) (by simp)

theorem State.Ready.uartRxRead {b : Byte} {r : List Byte} (hq : d.herd.rxFifo = b :: r) : exec .uartRxRead s =
    .next (s.withDev ((d.upHerd (fun h => { h with rxFifo := r })).send (.readData (natLE 4 (256 + b.toNat)) false))) := by
  refine h.runRead_quiet ?_ (by simp)
  simp only [hq]

theorem State.Ready.uartRxRead_empty (hq : d.herd.rxFifo = []) :
    exec .uartRxRead s = .next (s.withDev (d.send (.readData [0, 0, 0, 0] false))) := by
  refine h.runRead_quiet ?_ (by simp)
  simp only [hq]
  rfl

section
variable (he : d.bit HCC_UART_CFG.EN = true)
include he

theorem State.Ready.uartByteSent {b : Byte} {r : List Byte} (hq : d.herd.txFifo = b :: r) : exec .uartByteSent s =
    .next (s.withDev ((d.upHerd (fun h => { h with txFifo := r })).send (.uart b))) := by
  refine h.run_quiet ?_ (by simp)
  simp only [hq]
  exact if_pos he

theorem State.Ready.uartRxByte (b : Fin 256) (hl : d.herd.rxFifo.length < 16) : exec (.uartRxByte b) s =
    .next (s.withDev (d.upHerd (fun h => { h with rxFifo := h.rxFifo ++ [BitVec.ofNat 8 b] }))) :=
  h.run_quiet ((if_neg (by simp [he])).trans (if_neg (Nat.not_le.2 hl))) (by simp)

theorem State.Ready.uartRxByte_full (b : Fin 256) (hl : 16 ≤ d.herd.rxFifo.length) :
    exec (.uartRxByte b) s = .next (s.withDev (d.wr HCC_UART_STS.RX_OVF 1)) :=
  h.run_quiet ((if_neg (by simp [he])).trans (if_pos hl)) (by simp)

end
end

/-- Settles O46: each command by whether its queue has a byte, or room for one. -/
theorem consoleUart : Obligations.ConsoleUart := by
  intro s d h
  exact ⟨h.uartTxWrite, h.uartTxWrite_full, fun _ _ hq he => h.uartByteSent he hq, fun b he hl => h.uartRxByte he b hl,
    fun b he hl => h.uartRxByte_full he b hl, fun _ _ hq => h.uartRxRead hq, h.uartRxRead_empty⟩

end Sys2Proof.Machine
end

section
/-! Background services (R456 to R467, R480): scrubbing, sensors, telemetry, eye sweeps and PMBus transactions. -/

namespace Sys2Proof.Machine

section
variable {s : State} {d : Dev} (h : s.Ready d)
include h

/-! Scrubbing (R456, R459). -/

theorem State.Ready.patrolScrub_enabled (found : List (Fin 32 × Bool)) (ho : d.open_ pageBGS = true) (he : d.bit BGS_SCRUB_CFG.EN = true) :
    let u := d.rd BGS_SCRUB_POS.UNIT
    let d' := (List.range 32).foldl (fun d h => d.patrolRead h u (found.map (fun x => (x.1.val, x.2)))) d
    exec (.patrolScrub found) s = .next (s.after (if u + 1 < patrolUnits then d'.wr BGS_SCRUB_POS.UNIT (u + 1)
      else ((d'.wr BGS_SCRUB_POS.UNIT 0).count BGS_CNT_SCRUB_PASS.COUNT 1).event BGS_EVT.SCRUB_PASS)) :=
  h.run_after (if_neg (by simp [ho, he]))

section
variable {array off : Nat} (ho : d.open_ pageBGS = true) (he : d.bit BGS_SSCRUB_CFG.EN = true) (hoff : off < scrubSize array)
include ho he hoff

theorem State.Ready.sramScrub_good : exec (.sramScrub array off 0) s = .next s := by
  have hgo : ¬(!d.open_ pageBGS || !d.bit BGS_SSCRUB_CFG.EN || off ≥ scrubSize array) = true := by simp [ho, he, hoff]
  refine (h.run_quiet (e := d) ((if_neg hgo).trans ?_) rfl).trans (congrArg _ h.withDev_self)
  exact (if_neg (by decide)).trans (if_neg (by decide))

theorem State.Ready.sramScrub_corrected :
    exec (.sramScrub array off 1) s = .next (s.withDev ((d.flag BGS_FLT.SCRUB_CE).count BGS_CNT_SSCRUB_CE.COUNT 1)) :=
  h.run_quiet ((if_neg (by simp [ho, he, hoff])).trans (if_pos rfl)) (by simp)

/-- An uncorrectable word of an array that belongs to no pixel engine quarantines none (R460). -/
theorem State.Ready.sramScrub_uncorrectable (ha : 128 ≤ array) :
    exec (.sramScrub array off 2) s = .next (s.withDev (d.flag BGS_FLT.SCRUB_UE)) := by
  have hgo : ¬(!d.open_ pageBGS || !d.bit BGS_SSCRUB_CFG.EN || off ≥ scrubSize array) = true := by simp [ho, he, hoff]
  refine h.run_quiet ((if_neg hgo).trans ((if_neg (by decide)).trans ((if_pos rfl).trans ?_))) (by simp)
  exact if_neg (fun hq => absurd hq.1 (by omega))

end

/-! Sensors and telemetry (R465, R467). -/

theorem State.Ready.sensorRead_enabled {temps rails : List (Fin 65536)} (he : d.enabled pageBGS = true) (ht : temps.length = 16)
    (hr : rails.length = 8) : exec (.sensorRead temps rails) s = .next (s.after (d.takeSensors temps rails)) :=
  h.run_after (if_neg (by simp [he, ht, hr]))

theorem State.Ready.tlmSnapshot_taken (core : List (Fin 65536)) (he : d.enabled pageBGS = true) (hc : d.bit BGS_TLM_CFG.EN = true)
    (hf : d.frozen pageBGS = false) (hp : d.dma.link.perst = false) (hu : d.bit PCI_LINK_STS.UP = true)
    (hm : d.dma.link.busMaster = true) : exec (.tlmSnapshot core) s = .next (s.after (d.snapshot s.now core)) :=
  h.run_after ((if_neg (by simp [he, hc])).trans (if_neg (by simp [hf, hp, hu, hm])))

/-- Without the host's leave to write its memory the snapshot is counted as skipped. -/
theorem State.Ready.tlmSnapshot_skipped (core : List (Fin 65536)) (he : d.enabled pageBGS = true) (hc : d.bit BGS_TLM_CFG.EN = true)
    (hm : d.dma.link.busMaster = false) : exec (.tlmSnapshot core) s = .next (s.withDev (d.count BGS_CNT_TLM_SKIP.COUNT 1)) :=
  h.run_quiet ((if_neg (by simp [he, hc])).trans (if_pos (by simp [hm]))) (by simp)

/-! Eye sweeps (R461 to R464). -/

theorem State.Ready.calStart_rejected (n : Fin 32) (hb : d.bit BGS_CAL_STS.BUSY = true) :
    exec (.calStart n) s = .next (s.withDev (d.wr BGS_CAL_STS.REJECT 1)) :=
  h.run_quiet (if_pos hb) (by simp)

/-- An HMC that cannot be swept ends the command at once with OUTCOME 5 (R464). -/
theorem State.Ready.calStart_lost (n : Fin 32) (hb : d.bit BGS_CAL_STS.BUSY = false)
    (hl : ((d.wr BGS_CAL_STS.HMC n).wr BGS_CAL_STS.OPP_MOVED 0).hmcLost n = true) :
    exec (.calStart n) s =
      .next (s.withDev (((d.wr BGS_CAL_STS.HMC n).wr BGS_CAL_STS.OPP_MOVED 0).wr BGS_CAL_STS.OUTCOME 5)) :=
  h.run_quiet ((if_neg (ne_true_of_eq_false hb)).trans (if_pos hl)) (by simp)

theorem State.Ready.calStart_begins (n : Fin 32) (hb : d.bit BGS_CAL_STS.BUSY = false) :
    let d0 := (d.wr BGS_CAL_STS.HMC n).wr BGS_CAL_STS.OPP_MOVED 0
    d0.hmcLost n = false → exec (.calStart n) s = .next (s.after
      (let d2 := ((List.range 20).foldl (fun d k => (d.wr (BGS_CAL_MASK.MASK.bk k) 0).setWord (BGS_CAL_RES.WIDTH.bk k).base 0)
         ((d0.wr BGS_CAL_STS.OUTCOME 0).wr BGS_CAL_STS.BUSY 1)).scratchTraining n
       d2.upBgs (fun b => { b with fresh := false }))) := fun hl =>
  h.run_after ((if_neg (ne_true_of_eq_false hb)).trans (if_neg (ne_true_of_eq_false hl)))

omit h in
/-- An abort of the sweep in progress puts its HMC among those to be swept out of turn (R464). -/
theorem Dev.calAbort_busy (hb : d.bit BGS_CAL_STS.BUSY = true) (o : Nat) :
    d.calAbort o = (d.upBgs (fun b => { b with again := b.again ++ [d.rd BGS_CAL_STS.HMC] })).calEnd o :=
  if_neg (by simp [hb])

section
variable (hb : d.bit BGS_CAL_STS.BUSY = true)
include hb

theorem State.Ready.calCmdAbort_busy : exec .calCmdAbort s =
    .next (s.withDev ((d.upBgs (fun b => { b with again := b.again ++ [d.rd BGS_CAL_STS.HMC] })).calEnd 4)) :=
  h.run_quiet (Dev.calAbort_busy hb 4) (by simp)

theorem State.Ready.calTimeout_busy : exec .calTimeout s =
    .next (s.withDev (((d.upBgs (fun b => { b with again := b.again ++ [d.rd BGS_CAL_STS.HMC] })).calEnd 3).event
      BGS_EVT.CAL_ABORT)) :=
  h.run_quiet ((if_pos hb).trans (by rw [Dev.calAbort_busy hb])) (by simp)

theorem State.Ready.calOppHoldExpire_held (hw : (d.ck (160 + d.rd BGS_CAL_STS.HMC)).waits ≠ none) : exec .calOppHoldExpire s =
    .next (s.withDev ((((d.upBgs (fun b => { b with again := b.again ++ [d.rd BGS_CAL_STS.HMC] })).calEnd 2).event
      BGS_EVT.CAL_ABORT).count BGS_CNT_CAL_ABORT.COUNT 1)) := by
  have hheld : (d.bit BGS_CAL_STS.BUSY && (d.ck (160 + d.rd BGS_CAL_STS.HMC)).waits.isSome) = true := by
    simp [hb, Option.isSome_iff_ne_none.2 hw]
  exact h.run_quiet ((if_pos hheld).trans (by rw [Dev.calAbort_busy hb])) (by simp)

theorem State.Ready.calGatherDone_ends {masks : List Nat} (hm : masks.length = 20) (ho : d.open_ pageBGS = true) :
    exec (.calGatherDone masks) s = .next (s.after (d.endSweep masks)) :=
  h.run_after (if_neg (by simp [hb, ho, hm]))

end

/-- Nothing to apply, none out of turn, none warmed: the HMC whose turn it is is swept (R463). -/
theorem State.Ready.eyeSweepSchedule_turn (hs : d.service 2 = true) (hb : d.bit BGS_CAL_STS.BUSY = false) (hf : d.bgs.fresh = false)
    (ha : d.bgs.again = []) (hw : d.warmed = none) : exec .eyeSweepSchedule s = .next (s.after
      ((d.upBgs (fun b => { b with turn := (b.turn + 1) % 32 })).calStart d.bgs.turn)) := by
  refine h.run_after ((if_neg (by simp [hs, hb])).trans ?_)
  simp only [hf, Bool.false_eq_true, if_false, ha, hw]

/-! PMBus (R466, R480). -/

omit h in
theorem Dev.pmb_free (hb : d.bit BGS_PMB_STS.BUSY = false) (op addr code : Nat) (pec : Bool) : d.pmb op addr code pec =
    ((d.wr BGS_PMB_STS.BUSY 1).send (.pmbus op addr code
      (if op = 2 then d.rd BGS_PMB_DATA.DATA % 256 else if op = 3 then d.rd BGS_PMB_DATA.DATA else 0) pec)).upBgs
        (fun b => { b with pmb := op }) :=
  if_neg (ne_true_of_eq_false hb)

/-- Every PMBus command is one operation of `Dev.pmb`, sent where none is under way. -/
theorem State.Ready.run_pmb (hb : d.bit BGS_PMB_STS.BUSY = false) (op addr code : Nat) (pec : Bool) :
    s.run (fun _ d => d.pmb op addr code pec) = .next (s.withDev
      (((d.wr BGS_PMB_STS.BUSY 1).send (.pmbus op addr code
        (if op = 2 then d.rd BGS_PMB_DATA.DATA % 256 else if op = 3 then d.rd BGS_PMB_DATA.DATA else 0) pec)).upBgs
          (fun b => { b with pmb := op }))) :=
  h.run_quiet (Dev.pmb_free hb op addr code pec) (by simp)

section
variable (hb : d.bit BGS_PMB_STS.BUSY = true)
include hb

theorem State.Ready.pmbDone_readByte (v : Fin 65536) (hp : d.bgs.pmb = 4) : exec (.pmbDone (.done v)) s =
    .next (s.withDev ((((d.wr BGS_PMB_STS.BUSY 0).wr BGS_PMB_STS.DONE 1).wr BGS_PMB_DATA.DATA (v.val % 256)).event
      BGS_EVT.PMB_DONE)) :=
  h.run_quiet ((if_neg (by simp [hb])).trans (by simp [hp])) (by simp)

theorem State.Ready.pmbDone_readWord (v : Fin 65536) (hp : d.bgs.pmb = 5) : exec (.pmbDone (.done v)) s =
    .next (s.withDev ((((d.wr BGS_PMB_STS.BUSY 0).wr BGS_PMB_STS.DONE 1).wr BGS_PMB_DATA.DATA v).event BGS_EVT.PMB_DONE)) :=
  h.run_quiet ((if_neg (by simp [hb])).trans (by simp [hp])) (by simp)

theorem State.Ready.pmbDone_sent (v : Fin 65536) (hp : d.bgs.pmb < 4) : exec (.pmbDone (.done v)) s =
    .next (s.withDev (((d.wr BGS_PMB_STS.BUSY 0).wr BGS_PMB_STS.DONE 1).event BGS_EVT.PMB_DONE)) := by
  have h4 : d.bgs.pmb ≠ 4 := by omega
  have h5 : d.bgs.pmb ≠ 5 := by omega
  exact h.run_quiet ((if_neg (by simp [hb])).trans (by simp [h4, h5])) (by simp)

theorem State.Ready.pmbDone_nack : exec (.pmbDone .nack) s =
    .next (s.withDev (((d.wr BGS_PMB_STS.BUSY 0).wr BGS_PMB_STS.NACK 1).event BGS_EVT.PMB_DONE)) :=
  h.run_quiet (if_neg (by simp [hb])) (by simp)

theorem State.Ready.pmbDone_pecErr : exec (.pmbDone .pecErr) s =
    .next (s.withDev (((d.wr BGS_PMB_STS.BUSY 0).wr BGS_PMB_STS.PEC_ERR 1).event BGS_EVT.PMB_DONE)) :=
  h.run_quiet (if_neg (by simp [hb])) (by simp)

theorem State.Ready.pmbStretchTimeout_busy : exec .pmbStretchTimeout s =
    .next (s.withDev ((d.wr BGS_PMB_STS.BUSY 0).wr BGS_PMB_STS.TIMEOUT 1)) :=
  h.run_quiet (if_pos hb) (by simp)

end
end

/-- Settles O49: one lemma for each command, by whether its block is on and what it finds. -/
theorem scrubbingSensorsAndTelemetry : Obligations.ScrubbingSensorsAndTelemetry := fun _ _ h =>
  ⟨h.patrolScrub_enabled,
    fun _ _ ho he hoff =>
      ⟨h.sramScrub_good ho he hoff, h.sramScrub_corrected ho he hoff, h.sramScrub_uncorrectable ho he hoff⟩,
    fun _ _ => h.sensorRead_enabled, h.tlmSnapshot_taken, h.tlmSnapshot_skipped⟩

/-- Settles O50: by whether a sweep runs, and for a start by whether its HMC can be swept. -/
theorem eyeSweeps : Obligations.EyeSweeps := fun _ _ h =>
  ⟨h.calStart_rejected, fun n hb => ⟨h.calStart_lost n hb, h.calStart_begins n hb⟩,
    fun hb => ⟨h.calCmdAbort_busy hb, h.calTimeout_busy hb, h.calOppHoldExpire_held hb, fun _ => h.calGatherDone_ends hb⟩,
    h.eyeSweepSchedule_turn⟩

/-- Settles O51: the five commands are one operation with its own data, and a transaction ends by its answer and what it had asked. -/
theorem pmbusTransactions : Obligations.PmbusTransactions := fun _ _ h =>
  ⟨fun hb addr code pec =>
      ⟨h.run_pmb hb 1 addr code pec, h.run_pmb hb 2 addr code pec, h.run_pmb hb 3 addr code pec, h.run_pmb hb 4 addr code pec,
        h.run_pmb hb 5 addr code pec⟩,
    fun hb => ⟨h.pmbDone_readByte hb, h.pmbDone_readWord hb, h.pmbDone_sent hb, h.pmbDone_nack hb, h.pmbDone_pecErr hb,
      h.pmbStretchTimeout_busy hb⟩⟩

end Sys2Proof.Machine
end

section
/-! The security core (R491 to R501, R505, R509, R510): downloads, the start of firmware, its NOR, and debug access. -/

namespace Sys2Proof.Machine

/-! A command of a mailbox that Fawn can take (R506). -/

theorem Dev.secMbx_taken {d : Dev} {m : Mbx} (hb : d.bit (mbxBusy m) = false) (hp : d.sec.phase ≠ .stopped) (op seq : Nat)
    (f : Dev → Dev) : d.secMbx m op seq true f = f d :=
  calc d.secMbx m op seq true f = _ := if_neg (ne_true_of_eq_false hb)
    _ = _ := if_neg hp
    _ = f d := if_neg (by decide)

@[simp] theorem Env.bytes_length (e : Env) (m : MemId) (a n : Nat) : (e.bytes m a n).length = n := by simp [Env.bytes]

@[simp] theorem Dev.setSecData_posted (d : Dev) (m : Mbx) (bs : List Byte) : (d.setSecData m bs).posted = d.posted :=
  foldl_posted _ _ (fun d _ => d.setWord_posted _ _) _

section
variable {s : State} {d : Dev} (h : s.Ready d) {m : Mbx} {op seq : Nat} {f : Env → Dev → Dev} {e : Dev}
  (hb : d.bit (mbxBusy m) = false) (hp : d.sec.phase ≠ .stopped) (hf : f s.env d = e)
include h hb hp hf

theorem State.Ready.runMbx_after : s.run (fun e d => d.secMbx m op seq true (f e)) = .next (s.after e) :=
  h.run_after ((Dev.secMbx_taken hb hp op seq (f s.env)).trans hf)

theorem State.Ready.runMbx_quiet (hq : e.posted = d.posted) :
    s.run (fun e d => d.secMbx m op seq true (f e)) = .next (s.withDev e) :=
  h.run_quiet ((Dev.secMbx_taken hb hp op seq (f s.env)).trans hf) hq

end

/-! Images (R494 to R496, R510). -/

/-- With no file that passes its checks the scan ends with the first file's reason. -/
theorem Dev.scanFiles_none {d : Dev} {files : List SdFile} (e : Env) (hf : files.filter (fun x => fileReason d x == 0) = []) :
    d.scanFiles e files = (d.setUpd 6).scanEnds e (firstReason d files) := by
  rw [Dev.scanFiles, hf]

section
variable {s : State} {d : Dev} (h : s.Ready d)
include h

theorem State.Ready.downloadFailed_running (reason : Fin 16) (written : List Byte) (h10 : 10 ≤ reason.val) (h14 : reason.val ≤ 14) :
    exec (.downloadFailed reason written) s = .next (s.after (d.downloadFails s.env reason written)) :=
  h.run_after (if_pos ⟨h10, h14⟩)

theorem State.Ready.downloadDone_running (file : List Byte) {l : Download} (hl : d.sec.dl = some l) :
    exec (.downloadDone file) s = .next (s.after (if fileGood l file then d.downloaded s.env l file else d)) := by
  refine h.run_after ?_
  simp only [hl]
  cases fileGood l file with
  | true => rfl
  | false => rfl

variable (hp : d.sec.phase ≠ .stopped)
include hp

theorem State.Ready.sdScan_reads (files : List SdFile) (hl : d.sec.dl = none) (ht : d.bit SEC_BOOT_STS.TRIAL = false) :
    exec (.sdScan files) s = .next (s.after (d.scanFiles s.env (files.take 32))) :=
  h.run_after ((if_neg (by simp [hp, hl])).trans (if_neg (ne_true_of_eq_false ht)))

theorem State.Ready.sdScan_none (files : List SdFile) (hl : d.sec.dl = none) (ht : d.bit SEC_BOOT_STS.TRIAL = false)
    (hf : (files.take 32).filter (fun x => fileReason d x == 0) = []) :
    exec (.sdScan files) s = .next (s.after ((d.setUpd 6).scanEnds s.env (firstReason d (files.take 32)))) :=
  (h.sdScan_reads hp files hl ht).trans (by rw [Dev.scanFiles_none _ hf])

section
variable (m : Mbx) (seq : Fin 65536) (hb : d.bit (mbxBusy m) = false)
include hb

theorem State.Ready.status_taken : exec (.status m seq) s = .next (s.after
    (((d.freeVal 512).2.setSecData m (natLE 64 (d.freeVal 512).1)).secDone m seq 0 0)) :=
  h.runMbx_after hb hp rfl

theorem State.Ready.scan_taken (hl : d.sec.dl = none) (hs : d.rd SEC_UPD_STS.STATE ≠ 1) (ht : d.bit SEC_BOOT_STS.TRIAL = false) :
    exec (.scan m seq) s = .next (s.after ((d.secHold m 2 seq).setUpd 1)) :=
  h.runMbx_after hb hp ((if_neg (by simp [hl, hs])).trans (if_neg (ne_true_of_eq_false ht)))

theorem State.Ready.activate_taken {r x : Nat} {d' : Dev} (ha : d.activation s.env = (r, x, d')) :
    exec (.activate m seq) s = .next (s.after (if r = 0 then d'.secHold m 3 seq else d'.secDone m seq r x)) :=
  h.runMbx_after hb hp (by simp only [ha])

/-! The start of firmware (R496 to R501). -/

theorem State.Ready.revert_trial (hr : d.sec.phase = .running) (ht : s.env.slotIs d d.sec.slot = 2) : exec (.revert m seq) s =
    .next (s.after (((d.secHold m 5 seq).mark s.env d.sec.slot 5 0).startGood s.env)) :=
  h.runMbx_after hb hp ((if_neg (not_not.2 hr)).trans (if_neg (not_not.2 ht)))

theorem State.Ready.revert_refused (hr : d.sec.phase = .running) (ht : s.env.slotIs d d.sec.slot ≠ 2) : exec (.revert m seq) s =
    .next (s.withDev ((d.updReason 17).secDone m seq 3 17)) :=
  h.runMbx_quiet hb hp ((if_neg (not_not.2 hr)).trans (if_pos ht)) (by simp)

end

section
variable (seq : Fin 65536) (hb : d.bit (mbxBusy .herd) = false)
include hb

theorem State.Ready.handoverReady_taken (hh : d.sec.phase = .handover) : exec (.handoverReady .herd seq) s =
    .next (s.after ((d.secDone .herd seq 0 0).takeOver s.env)) :=
  h.runMbx_after hb hp (if_pos hh)

theorem State.Ready.ready_taken (hr : d.sec.phase = .starting ∨ d.sec.phase = .running) : exec (.ready .herd seq) s =
    .next (s.after (d.takeReady s.env .herd seq (leNat (d.secData .herd 8 8)))) :=
  h.runMbx_after hb hp (if_pos hr)

/-- CONFIRM is accepted of a trial image that has run its health period outside the safe state (R500). -/
theorem State.Ready.confirm_taken (period : Nat) (hr : d.sec.phase = .running) (ht : s.env.slotIs d d.sec.slot = 2) (hs : d.safe = false)
    (hn : d.sec.startAt + clampNat 1 1440 period * 60000000000 ≤ s.now) :
    exec (.confirm .herd seq period) s = .next (s.after (d.confirm s.env .herd seq d.sec.slot)) := by
  have hhealthy : ¬(d.safe || decide ((s.env.now : Int) < d.sec.startAt + clampNat 1 1440 period * 60000000000)) = true := by
    simp [hs, hn]
  exact h.runMbx_after hb hp ((if_neg (not_not.2 hr)).trans ((if_neg (not_not.2 ht)).trans (if_neg hhealthy)))

/-! The firmware's NOR (R491, R509). -/

theorem State.Ready.loadComponents_taken {r x : Nat} {d' : Dev}
    (hl : d.loadFrom .herd (s.env.slotBody d d.sec.slot) (List.range 16) = (r, x, d')) :
    exec (.loadComponents .herd seq) s = .next (s.after (d'.secDone .herd seq r x)) :=
  h.runMbx_after hb hp (by simp only [hl])

theorem State.Ready.norCopy_taken :
    let a := leNat (d.secData .herd 0 4)
    let n := leNat (d.secData .herd 4 4)
    inSettings a n = true ∨ inSlot d.sec.slot a n = true → exec (.norCopy .herd seq) s = .next (s.after
      ((d.store .hbm (leNat (d.secData .herd 8 8)) ((s.env.seen d).bytes .nor a n)).secDone .herd seq 0 0)) := fun hr =>
  h.runMbx_after hb hp (if_pos (by simpa using hr))

theorem State.Ready.norProg_taken :
    let a := leNat (d.secData .herd 0 4)
    let n := leNat (d.secData .herd 4 4)
    inSettings a n = true → n ≤ 65536 → exec (.norProg .herd seq false) s = .next (s.after
      ((d.store .nor a ((((s.env.seen d).bytes .nor a n).zip ((s.env.seen d).bytes .hbm (leNat (d.secData .herd 8 8)) n)).map
        (fun x => x.1 &&& x.2))).secDone .herd seq 0 0)) := fun hr hn => by
  refine h.runMbx_after hb hp ((if_neg (by simp [hr, hn])).trans ((if_neg (by decide)).trans ?_))
  simp only [Dev.program, Env.flash, Env.bytes_length]

theorem State.Ready.norErase_taken :
    let a := leNat (d.secData .herd 0 4) / 65536 * 65536
    inSettings a 65536 = true → exec (.norErase .herd seq false) s =
      .next (s.after ((d.clear .nor a 65536).secDone .herd seq 0 0)) := fun hr =>
  h.runMbx_after hb hp ((if_neg (by simp [hr])).trans (if_neg (by decide)))

end

section
variable (seq : Fin 65536) (hb : d.bit (mbxBusy .host) = false)
include hb

theorem State.Ready.restart_taken (hr : d.sec.phase = .running) : exec (.restart .host seq) s =
    .next (s.after ((d.secHold .host 6 seq).startFailed s.env)) :=
  h.runMbx_after hb hp (if_pos hr)

/-! Debug access (R505). -/

theorem State.Ready.dbgPassword_tried (hn : d.rd SEC_LC.PW_FAILS < 5) :
    let n := leNat (d.secData .host 0 1)
    exec (.dbgPassword .host seq) s = .next (s.withDev
      (if 8 ≤ n ∧ n ≤ 64 ∧ Config.sha384 (unitId ++ d.secData .host 1 n) = Config.otpPassword then
        (d.wr SEC_LC.DBG (max 1 (d.rd SEC_LC.DBG))).secDone .host seq 0 0
      else (d.wr SEC_LC.PW_FAILS (min 5 (d.rd SEC_LC.PW_FAILS + 1))).secDone .host seq 3 0)) :=
  h.runMbx_quiet hb hp (if_neg (Nat.not_le.2 hn)) (by split <;> simp)

/-- Five failed passwords close the mailbox to any more (R505). -/
theorem State.Ready.dbgPassword_locked (hn : 5 ≤ d.rd SEC_LC.PW_FAILS) :
    exec (.dbgPassword .host seq) s = .next (s.withDev (d.secDone .host seq 3 0)) :=
  h.runMbx_quiet hb hp (if_pos hn) (by simp)

theorem State.Ready.dbgChallenge_taken : exec (.dbgChallenge .host seq) s = .next (s.after
    ((((d.freeVal 256).2.upSec (fun x => { x with nonce := some (natLE 32 (d.freeVal 256).1) })).setSecData .host
      (natLE 32 (d.freeVal 256).1)).secDone .host seq 0 0)) :=
  h.runMbx_after hb hp rfl

theorem State.Ready.dbgResponse_tried {v : List Byte} (hv : d.sec.nonce = some v) :
    let d' := d.upSec (fun x => { x with nonce := none })
    exec (.dbgResponse .host seq) s = .next (s.withDev
      (if Config.sha384 (d.secData .host 96 49) = Config.otpDebugKey ∧
          Config.ecdsaOk (d.secData .host 96 49) (d.secData .host 0 96) (v ++ unitId ++ [0x02]) then
        (d'.wr SEC_LC.DBG 2).secDone .host seq 0 0
      else d'.secDone .host seq 3 0)) := by
  refine h.runMbx_quiet hb hp ?_ (by split <;> simp)
  simp only [hv]
  rfl

theorem State.Ready.dbgResponse_unasked (hv : d.sec.nonce = none) :
    exec (.dbgResponse .host seq) s = .next (s.withDev (d.secDone .host seq 3 0)) :=
  h.runMbx_quiet hb hp (by simp only [hv]) (by simp)

end

theorem State.Ready.dbgLock_taken (seq : Fin 65536) (m : Mbx) (hb : d.bit (mbxBusy m) = false) :
    exec (.dbgLock m seq) s = .next (s.withDev ((d.wr SEC_LC.DBG 0).secDone m seq 0 0)) :=
  h.runMbx_quiet hb hp rfl (by simp)

end

/-! An erased range of a memory. -/

section
variable (m : MemId) (c : List Host.Cell) {a n x : Nat}

theorem memOpTo_clear_get (hx : a ≤ x ∧ x < a + n) : storeGet (memDefault m) (memOpTo m c (.clear m a n)) x = memDefault m x := by
  rw [memOpTo, if_pos rfl, storeGet_drop, if_pos (by simp [hx])]

theorem memOpTo_clear_get_other (hx : x < a ∨ a + n ≤ x) :
    storeGet (memDefault m) (memOpTo m c (.clear m a n)) x = storeGet (memDefault m) c x := by
  rw [memOpTo, if_pos rfl, storeGet_drop, if_neg (by simp; omega)]

end

/-- Clearing a range of NOR leaves the other two memories as they are. -/
theorem Mem.apply_norClear (m : Mem) (a n : Nat) :
    m.apply [.clear .nor a n] = { m with nor := memOpTo .nor m.nor (.clear .nor a n) } := by
  rw [Mem.apply_one]
  rfl

/-- Settles O56: by whether a scan or a download runs, and each command of a mailbox by the lemma that it is taken. -/
theorem imagesAreDownloaded : Obligations.ImagesAreDownloaded := fun _ _ h hp =>
  ⟨h.sdScan_none hp, h.sdScan_reads hp, fun _ _ _ => h.run_after rfl, fun reason written _ _ => h.downloadFailed_running reason written,
    fun _ file => h.downloadDone_running file,
    fun m seq hb => ⟨h.status_taken hp m seq hb, h.scan_taken hp m seq hb, fun _ _ _ => h.activate_taken hp m seq hb⟩⟩

/-- Settles O57: by the phase of the start, the slot's state and the health period. -/
theorem firmwareStartsAndIsConfirmed : Obligations.FirmwareStartsAndIsConfirmed := fun _ _ h hp =>
  ⟨fun hh => h.run_after (if_pos hh), h.handoverReady_taken hp, h.ready_taken hp, fun hs => h.run_after (if_pos hs),
    fun seq period hb => h.confirm_taken hp seq hb period,
    fun m seq hb hr => ⟨h.revert_trial hp m seq hb hr, h.revert_refused hp m seq hb hr⟩, h.restart_taken hp⟩

/-- Settles O58: each range is one that the firmware may reach. -/
theorem firmwareReachesItsNor : Obligations.FirmwareReachesItsNor := fun _ _ seq h hp hb =>
  ⟨fun _ _ _ => h.loadComponents_taken hp seq hb, h.norCopy_taken hp seq hb, h.norProg_taken hp seq hb, h.norErase_taken hp seq hb⟩

/-- Settles O59: the erase posts one clear of the sector, and a cleared byte of NOR reads as erased. -/
theorem eraseTouchesItsSectorOnly : Obligations.EraseTouchesItsSectorOnly := by
  intro s t d seq h hwf hp hb a ha hex
  obtain rfl : s.after ((d.clear .nor a 65536).secDone .herd seq 0 0) = t :=
    Host.Outcome.next.inj ((h.norErase_taken hp seq hb ha).symm.trans hex)
  have hmem : (s.after ((d.clear .nor a 65536).secDone .herd seq 0 0)).mem = s.mem.apply [.clear .nor a 65536] := by
    rw [State.after_mem, Dev.secDone_posted]
    exact congrArg (fun p => s.mem.apply (p ++ [.clear .nor a 65536])) h.posted
  rw [hmem]
  refine ⟨fun x hlo hhi => ?_, fun x hx => ?_, ?_, ?_, Mem.apply_wf _ hwf, rfl⟩
  all_goals rw [Mem.apply_norClear]
  · exact memOpTo_clear_get .nor _ ⟨hlo, hhi⟩
  · exact memOpTo_clear_get_other .nor _ hx

/-- Settles O60: by the failures counted, the nonce in hand, and what the functions without a body answer. -/
theorem debugAccess : Obligations.DebugAccess := fun _ _ seq h hp =>
  ⟨fun hb => ⟨h.dbgPassword_tried hp seq hb, h.dbgPassword_locked hp seq hb, h.dbgChallenge_taken hp seq hb,
      fun _ => h.dbgResponse_tried hp seq hb, h.dbgResponse_unasked hp seq hb⟩,
    h.dbgLock_taken hp seq, h.run_quiet rfl rfl⟩

end Sys2Proof.Machine
end
